-- ==== Sys2Proof/Word.lean ====
section
/-!
DEFINITION. The word types of the model and their plainest arithmetic.
-/
namespace Sys2Proof

/-- One byte, the smallest addressable unit of every memory of the part. -/
abbrev Byte := BitVec 8
/-- A device address (R146: 48 bits). -/
abbrev Addr := BitVec 48
/-- A register of a 64-bit block (R56, R100, R131). -/
abbrev Reg64 := BitVec 64
/-- A companion counter, an error counter: 32 bits, saturating (R418, Table 12-8). -/
abbrev Cnt32 := BitVec 32
/-- A counter that does not wrap within the life of the device (Table 12-8). -/
abbrev Cnt64 := BitVec 64

namespace Word

/-- Add `n` and stop at the largest value of the width (Table 12-8, "Saturate"). -/
def satAdd (x : BitVec w) (n : Nat) : BitVec w :=
  if x.toNat + n < 2 ^ w then BitVec.ofNat w (x.toNat + n) else BitVec.allOnes w

/-- One more occurrence on a saturating counter. -/
def satInc (x : BitVec w) : BitVec w := satAdd x 1

/-- A byte read as a two's-complement integer (loss-scale exponents, R118). -/
def toSigned (x : BitVec w) : Int := x.toInt

/-- Round `n` up to a multiple of `k`. -/
def roundUp (n k : Nat) : Nat := if k = 0 then n else (n + k - 1) / k * k

end Word
end Sys2Proof
end

