-- ==== Sys2Proof/Syntax.lean ====
section
/-!
DEFINITION. The commands of the block: one constructor of `Instr` for each row of the table of operations and events,
and the operand types they carry.
The table gives no bits, so no operand is encoded: an operand is what the outside world decides about the event (which
unit it happens to, what a peer's frame or the host's memory holds, how a measurement came out).
-/
namespace Sys2Proof

/-- A Churn core (R10, Table 0-3: 176 of them, eight to a compute die). -/
abbrev CoreId := Fin 176
/-- A compute die (Table 0-2). -/
abbrev DieId := Fin 22
/-- A memory die, with its Separator, scale-pass unit and Skimmer (Table 0-2). -/
abbrev MemId := Fin 4
/-- A flash die (Table 0-2). -/
abbrev FlashId := Fin 4
/-- An optical engine: driver die e and its photonic die (R198). -/
abbrev EngineId := Fin 4
/-- A Meridian port (Table 5-1). -/
abbrev PortId := Fin 8
/-- A queue pair (Table 7-2). -/
abbrev QueueId := Fin 8
/-- A pilot (R409). -/
abbrev PilotId := Fin 4
/-- A command tag (R290: 1,024 of them). -/
abbrev Tag := Fin 1024

/-- An ECC error that a read of the command meets in the 64-byte unit at a device address:
corrected (`ue = false`) or uncorrectable (R19, R153). -/
structure EccHit where
  unit : Nat
  ue   : Bool
  deriving DecidableEq, Repr

/-- What the outside answers while a command runs: the bytes that host memory holds where the command reads it (R148), the
PCIe completion status when a host access fails (Table 7-7), and the ECC errors that its reads meet. -/
structure Env where
  host    : List (Nat × List Byte)
  hostErr : Option (BitVec 16)
  ecc     : List EccHit
  deriving DecidableEq, Repr

/-- A Meridian frame as it reaches a port (R210, Table 5-4), with what the receiver's checks of R213 find: whether it
overlaps an uncorrectable codeword, passes its CRC, and passes its tag; `fecFixed` is the number of corrected codewords that it brings.
`rsv` says that a reserved bit is not zero. -/
structure Frame where
  type     : BitVec 4
  lowlat   : Bool
  vc       : Bool
  seq      : BitVec 12
  ack      : BitVec 12
  dst      : BitVec 12
  src      : BitVec 12
  cred     : BitVec 14
  pool     : BitVec 2
  stream   : BitVec 16
  epoch    : BitVec 16
  verdict  : Bool
  last     : Bool
  poison   : Bool
  enc      : Bool
  keyphase : Bool
  op       : BitVec 8
  offset   : BitVec 48
  frno     : BitVec 64
  payload  : List Byte
  rsv      : Bool
  fecBad   : Bool
  fecFixed : Nat
  crcOk    : Bool
  tagOk    : Bool
  deriving DecidableEq, Repr

/-- The contents of a HELLO message (Table 5-3). -/
structure HelloMsg where
  node      : BitVec 12
  dim       : BitVec 16
  port      : BitVec 3
  nonce     : BitVec 384
  integrity : Bool
  deriving DecidableEq, Repr

/-- A handshake message that carries a certificate chain, or a public key with its signature, as it came (Table 5-3), and what its check
finds: of CERTS whether the chain is valid, of KEYX whether the signature is. -/
structure ShakeMsg where
  body : List Byte
  ok   : Bool
  deriving DecidableEq, Repr

/-- The contents of an EVIDENCE message as the receiver verifies it (Table 5-3, R358): `body` is the message as it came, which enters
the transcript. -/
structure EvidenceMsg where
  body        : List Byte
  sigOk       : Bool
  svn         : BitVec 32
  sec         : BitVec 2
  ownerDigest : BitVec 384
  deriving DecidableEq, Repr

/-- The digests that one replica sends in the digest exchange (R140): its node, its STEP and one digest a shard, in
ascending shard order. -/
structure PeerDigests where
  node    : BitVec 12
  step    : BitVec 64
  digests : List (BitVec 64)
  deriving DecidableEq, Repr

/-- The two ways SPDM reaches the module (R351). -/
inductive SpdmChan where
  | doe | mctp
  deriving DecidableEq, Repr

/-- Background work of a flash die (R163). -/
inductive FlashWork where
  | collect (blocks : BitVec 32)
  | wearLevel (wearMax wearUsed : BitVec 16)
  | refresh
  deriving DecidableEq, Repr

/-- How a patrol-scrub read of a 64-byte unit came out (R153, R155). -/
inductive ScrubResult where
  | clean | corrected (channel : Fin 4) | uncorrectable
  deriving DecidableEq, Repr

/-- A start-up unit (Table 10-3, UNIT): class and index. -/
structure UnitId where
  cls : BitVec 8
  idx : BitVec 8
  deriving DecidableEq, Repr

/-- How one start-up attempt came out (Tables 10-3 and 10-4), with the 16 bytes of DETAIL it records. -/
structure AttemptResult where
  ok     : Bool
  cause  : BitVec 16
  detail : BitVec 128
  deriving DecidableEq, Repr

/-- A firmware image as PLDM for Firmware Update delivers it (R349): the vendor key, of the four whose hashes are in fuses, under which
its signature verifies, none where it verifies under no such key; the vendor keys that it revokes (R346); and its security version. -/
structure FwImage where
  signer  : Option (Fin 4)
  revokes : BitVec 4
  svn     : BitVec 32
  fw      : BitVec 32
  digest  : BitVec 384
  deriving DecidableEq, Repr

/-- A target of a register write: a BAR0 offset with its access size (R281), a device address of a register block
(Table 4-3), or a device-time comparator (R410). -/
inductive RegTarget where
  | bar0 (offset : BitVec 16) (size : BitVec 8)
  | dev (addr : Addr)
  | comparator (k : Fin 4) (pilot : PilotId)
  deriving DecidableEq, Repr

/-- Helm's current-monitor readings, in milliwatts (R394): input, DIMMs, flash, the package's non-compute dies, and each compute
die, in ascending order. -/
structure PowerReading where
  input   : Nat
  dimm    : Nat
  flash   : Nat
  other   : Nat
  compute : List Nat
  deriving DecidableEq, Repr

/-- The temperatures of one thermal check, in degrees Celsius (R405): the 40 dies in the order of Table 11-7, the 16
DIMMs, the hottest package of each flash die. -/
structure Temperatures where
  dies  : List Nat
  dimms : List Nat
  flash : List Nat
  deriving DecidableEq, Repr

/-- What the bench reads through a halted or running pilot (R363, Table 9-10): the pilot's own registers and memory, or an asset that the
binnacle holds. -/
inductive BenchAsset where
  | pilot
  | certificates
  | measurements
  | fuses
  | ownership
  | eventLog
  | telemetry (page : BitVec 8)
  | nor (addr : BitVec 26) (len : BitVec 16)
  deriving DecidableEq, Repr

/-- An operation on the test access port (R363, Table 9-9). -/
inductive JtagOp where
  | shift (bit : Bool)
  | meshRead (addr : Addr)
  | meshWrite (addr : Addr) (value : BitVec 64)
  | pilotHalt (p : PilotId)
  | pilotStep (p : PilotId)
  | pilotInspect (p : PilotId) (asset : BenchAsset)
  deriving DecidableEq, Repr

/-- A PCIe configuration request (R368, Table 7-1). -/
inductive ConfigReq where
  | read (offset : BitVec 12)
  | write (offset : BitVec 12) (value : BitVec 32)
  | power (d3 : Bool)
  deriving DecidableEq, Repr

/-- The IDE_KM request of a vendor-defined message (R353): program a stream's keys, or set it going or stop it. -/
inductive IdeKm where
  | program (selective : Bool) | setGo (selective : Bool) | setStop (selective : Bool)
  deriving DecidableEq, Repr

/-- The commands of the block. Each constructor is one row of the table of operations and events; its docstring names the
row's governing rule. -/
inductive Instr where
  /-- R16 -/ | operationFetch (c : CoreId) (x : Env)
  /-- R20 -/ | nop (c : CoreId)
  /-- R26 -/ | endOp (c : CoreId)
  /-- R26 -/ | sync (c : CoreId)
  /-- R53 -/ | jump (c : CoreId)
  /-- R44 -/ | phase (c : CoreId)
  /-- R46 -/ | wait (c : CoreId)
  /-- R48 -/ | post (c : CoreId)
  /-- R53 -/ | lds (c : CoreId)
  /-- R86 -/ | accld (c : CoreId)
  /-- R34 -/ | anch (c : CoreId)
  /-- R12 -/ | pass (c : CoreId)
  /-- R29 -/ | drain (c : CoreId)
  /-- R87 -/ | quant (c : CoreId)
  /-- R55 -/ | move (c : CoreId)
  /-- R28 -/ | ldsLastRow (c : CoreId) (x : Env)
  /-- R28 -/ | accldLastLine (c : CoreId) (x : Env)
  /-- R34 -/ | anchPlaced (c : CoreId) (x : Env)
  /-- R73 -/ | contributionLands (c : CoreId)
  /-- R29 -/ | drainCapture (c : CoreId)
  /-- R30 -/ | drainStreamDone (c : CoreId)
  /-- R22 -/ | quantDone (c : CoreId) (x : Env)
  /-- R48 -/ | moveVisible (c : CoreId) (n : Fin 16) (x : Env)
  /-- R147 -/ | meshRefusal (c : CoreId) (n : Fin 16)
  /-- R39 -/ | levelBoundary (c : CoreId)
  /-- R40 -/ | stepGrant (c : CoreId) (x : Env)
  /-- R46 -/ | waitSatisfied (c : CoreId)
  /-- R42 -/ | staggerRelease (c : CoreId)
  /-- R49 -/ | waitTimeout (c : CoreId)
  /-- R56 -/ | haltReq (c : CoreId)
  /-- R56 -/ | clear (c : CoreId)
  /-- R56 -/ | start (c : CoreId)
  /-- R424 -/ | coreBusyWrap (c : CoreId)
  /-- R68 -/ | spuSubmit (m : MemId) (addr : Addr)
  /-- R66 -/ | scalePassExecute (m : MemId) (x : Env)
  /-- R67 -/ | scalePassDone (m : MemId)
  /-- R108 -/ | stepSubmit (t : Tag) (x : Env)
  /-- R235 -/ | sealComplete (job : BitVec 16)
  /-- R121 -/ | go (m : MemId)
  /-- R131 -/ | abort (m : MemId)
  /-- R121 -/ | sepSegment (m : MemId) (x : Env)
  /-- R135 -/ | gradientPark (m : MemId) (coll : Nat) (seg : Nat)
  /-- R138 -/ | stepCommit (job : BitVec 16)
  /-- R141 -/ | digestExchangeDone (job : BitVec 16) (peers : List PeerDigests)
  /-- R154 -/ | patrolScrub (m : MemId) (r : ScrubResult)
  /-- R155 -/ | scrubOverdue (m : MemId)
  /-- R160 -/ | parityRebuild (oid : BitVec 32) (unit : Nat) (rebuilt : Bool)
  /-- R163 -/ | flashBackgroundWork (f : FlashId) (w : FlashWork)
  /-- R163 -/ | flashWriteResume (f : FlashId)
  /-- R159 -/ | objGenerationCommit (oid : BitVec 32) (x : Env)
  /-- R168 -/ | deferredTakesEffect (oid : BitVec 32) (x : Env)
  /-- R175 -/ | almanacPlace (job : BitVec 16)
  /-- R178 -/ | almSlotStep (j : Fin 8) (step : BitVec 64)
  /-- R180 -/ | almanacLaunch (id : Nat)
  /-- R182 -/ | almanacDelivery (id : Nat) (x : Env)
  /-- R186 -/ | almCancelStep (step : BitVec 64)
  /-- R187 -/ | cancelComplete
  /-- R8 -/ | almUsedRead
  /-- R8 -/ | sepParkPeakRead (m : MemId)
  /-- R203 -/ | optCtrlEn (e : EngineId)
  /-- R202 -/ | peerProbeSeen (p : PortId)
  /-- R204 -/ | trainDone (p : PortId) (usable : BitVec 4)
  /-- R203 -/ | attestTimeout (p : PortId)
  /-- R205 -/ | hello (p : PortId) (m : HelloMsg)
  /-- R206 -/ | certs (p : PortId) (m : ShakeMsg)
  /-- R358 -/ | evidence (p : PortId) (m : EvidenceMsg)
  /-- R207 -/ | keyx (p : PortId) (m : ShakeMsg)
  /-- R207 -/ | finish (p : PortId) (macOk : Bool)
  /-- R209 -/ | lossOfLight (p : PortId)
  /-- R209 -/ | retrainTimeout (p : PortId)
  /-- R200 -/ | elsChange (present closed works : Bool)
  /-- R217 -/ | ack (p : PortId) (f : Frame)
  /-- R217 -/ | nak (p : PortId) (f : Frame)
  /-- R214 -/ | credit (p : PortId) (f : Frame)
  /-- R208 -/ | keyUpdate (p : PortId) (f : Frame)
  /-- R239 -/ | openMsg (p : PortId) (f : Frame)
  /-- R239 -/ | openAck (p : PortId) (f : Frame)
  /-- R241 -/ | stale (p : PortId) (f : Frame)
  /-- R211 -/ | close (p : PortId) (f : Frame)
  /-- R246 -/ | removed (p : PortId) (f : Frame)
  /-- R250 -/ | qcredit (p : PortId) (f : Frame)
  /-- R250 -/ | data (p : PortId) (f : Frame)
  /-- R211 -/ | postFrame (p : PortId) (f : Frame)
  /-- R234 -/ | coll (p : PortId) (f : Frame)
  /-- R235 -/ | sealFrame (p : PortId) (f : Frame)
  /-- R244 -/ | mcast (p : PortId) (f : Frame)
  /-- R217 -/ | retryTimeout (p : PortId)
  /-- R216 -/ | nakRepeat (p : PortId)
  /-- R218 -/ | ackTimer (p : PortId)
  /-- R208 -/ | keyUpdateDue (p : PortId)
  /-- R228 -/ | collective (t : Tag) (x : Env)
  /-- R228 -/ | collectiveDone (id : Nat)
  /-- R238 -/ | collTimeout (id : Nat)
  /-- R240 -/ | reshard (t : Tag) (x : Env)
  /-- R241 -/ | reshardAbandon (t : Tag) (x : Env)
  /-- R245 -/ | mcHoldExpire (stream : BitVec 16) (p : PortId)
  /-- R247 -/ | mcastRejoin (t : Tag)
  /-- R250 -/ | queueEntrySend (qid : BitVec 16)
  /-- R203 -/ | portTakeOut (t : Tag)
  /-- R203 -/ | portRetrain (t : Tag)
  /-- R302 -/ | skimQuery (t : Tag) (x : Env)
  /-- R264 -/ | skmSubmit (k : Fin 8) (addr : Addr)
  /-- R264 -/ | skimScanStart (k : Fin 8)
  /-- R262 -/ | skimScanDone (k : Fin 8) (x : Env)
  /-- R263 -/ | skimMergeDone (query : Nat)
  /-- R274 -/ | serveSubmit (t : Tag) (x : Env)
  /-- R275 -/ | serveOpStart (g : BitVec 8)
  /-- R276 -/ | serveOpDone (g : BitVec 8)
  /-- R277 -/ | deadlineOverdue (g : BitVec 8) (op : Fin 64)
  /-- R309 -/ | groupCreate (t : Tag)
  /-- R308 -/ | groupDestroy (t : Tag)
  /-- R301 -/ | cancel (t : Tag)
  /-- R285 -/ | qCtrlEnable (q : QueueId)
  /-- R286 -/ | qCtrlDisable (q : QueueId)
  /-- R287 -/ | qSqTailDb (q : QueueId) (tail : BitVec 8)
  /-- R288 -/ | qCqHeadDb (q : QueueId) (head : BitVec 8)
  /-- R290 -/ | commandFetch (q : QueueId) (x : Env)
  /-- R288 -/ | cqRecordPost (q : QueueId)
  /-- R289 -/ | imodTimer (q : QueueId)
  /-- R354 -/ | ideWaitTimeout (q : QueueId) (t : Option Tag)
  /-- R294 -/ | identify (t : Tag) (x : Env)
  /-- R426 -/ | telemetry (t : Tag) (x : Env)
  /-- R422 -/ | logRead (t : Tag) (x : Env)
  /-- R422 -/ | logClear (t : Tag) (p : PilotId)
  /-- R392 -/ | headings (t : Tag) (x : Env)
  /-- R297 -/ | resetDevice (t : Tag)
  /-- R298 -/ | objCreate (t : Tag)
  /-- R298 -/ | objWrite (t : Tag) (x : Env)
  /-- R298 -/ | objRead (t : Tag) (x : Env)
  /-- R168 -/ | objDelete (t : Tag)
  /-- R298 -/ | objPromote (t : Tag) (x : Env)
  /-- R168 -/ | objEvict (t : Tag)
  /-- R168 -/ | objWithdraw (t : Tag)
  /-- R307 -/ | jobLoad (t : Tag) (x : Env)
  /-- R308 -/ | jobRegion (t : Tag)
  /-- R300 -/ | jobStop (t : Tag)
  /-- R309 -/ | jobUnload (t : Tag)
  /-- R316 -/ | fence (t : Tag)
  /-- R299 -/ | dma (t : Tag) (x : Env)
  /-- R331 -/ | fix (t : Tag) (peers : List PeerDigests) (x : Env)
  /-- R336 -/ | restore (t : Tag) (x : Env)
  /-- R143 -/ | exportState (t : Tag) (x : Env)
  /-- R341 -/ | claim (t : Tag) (x : Env)
  /-- R341 -/ | transfer (t : Tag) (x : Env)
  /-- R341 -/ | release (t : Tag) (x : Env)
  /-- R357 -/ | policy (t : Tag) (x : Env)
  /-- R360 -/ | debugUnlock (t : Tag) (x : Env)
  /-- R362 -/ | debugLock (t : Tag) (x : Env)
  /-- R351 -/ | getVersion (ch : SpdmChan)
  /-- R351 -/ | getCapabilities (ch : SpdmChan)
  /-- R351 -/ | negotiateAlgorithms (ch : SpdmChan) (offersSuite : Bool)
  /-- R351 -/ | getDigests (ch : SpdmChan)
  /-- R351 -/ | getCertificate (ch : SpdmChan) (slot : BitVec 8)
  /-- R351 -/ | challenge (ch : SpdmChan) (slot : BitVec 8) (nonce : BitVec 256)
  /-- R350 -/ | getMeasurements (ch : SpdmChan) (index : BitVec 8) (signed : Bool) (nonce : BitVec 256)
  /-- R351 -/ | keyExchange (ch : SpdmChan) (reqId : BitVec 16)
  /-- R351 -/ | spdmFinish (ch : SpdmChan) (reqId : BitVec 16) (macOk : Bool)
  /-- R351 -/ | heartbeat (ch : SpdmChan) (reqId : BitVec 16)
  /-- R351 -/ | spdmKeyUpdate (ch : SpdmChan) (reqId : BitVec 16)
  /-- R351 -/ | endSession (ch : SpdmChan) (reqId : BitVec 16)
  /-- R353 -/ | vendorDefinedRequest (ch : SpdmChan) (reqId : BitVec 16) (km : IdeKm)
  /-- R351 -/ | spdmUnsupportedRequest (ch : SpdmChan) (code : BitVec 8)
  /-- R366 -/ | getState
  /-- R366 -/ | getPower
  /-- R366 -/ | getLogbook (start : BitVec 64) (count : BitVec 16)
  /-- R366 -/ | ownerBlock (block : List Byte)
  /-- R349 -/ | pldmFwUpdate (slot : Bool) (img : FwImage)
  /-- R370 -/ | startupAttempt (step : Fin 12) (u : UnitId) (r : AttemptResult)
  /-- R373 -/ | startupWatchdog (u : UnitId) (firmwareStopped : Bool)
  /-- R409 -/ | watchdogHalf
  /-- R378 -/ | pcieLinkChange (up : Bool) (width : BitVec 8) (rate : BitVec 8)
  /-- R385 -/ | functionLevelReset
  /-- R329 -/ | deviceFatal (code : BitVec 16)
  /-- R434 -/ | p40vApplied (millivolts : Nat)
  /-- R434 -/ | hotSwapTurnOff
  /-- R436 -/ | undervoltageAlert
  /-- R436 -/ | undervoltageClear
  /-- R437 -/ | powerFail
  /-- R437 -/ | wpAssert
  /-- R437 -/ | standbyRailOff
  /-- R440 -/ | perstAssert
  /-- R439 -/ | perstDeassert
  /-- R406 -/ | thermTrip
  /-- R404 -/ | pwrAlertAssert
  /-- R404 -/ | pwrAlertDeassert
  /-- R404 -/ | alertRecovery
  /-- R394 -/ | helmSample (r : PowerReading)
  /-- R398 -/ | helmDecision
  /-- R397 -/ | helmWindow
  /-- R405 -/ | thermalCheck (t : Temperatures)
  /-- R401 -/ | droop (d : DieId)
  /-- R401 -/ | droopEnd (d : DieId)
  /-- R390 -/ | voltageSlewDone (d : DieId)
  /-- R390 -/ | relockDone (d : DieId)
  /-- R413 -/ | icClaim (p : PilotId)
  /-- R414 -/ | icComplete (p : PilotId) (source : BitVec 9)
  /-- R409 -/ | icSwi (pilots : BitVec 4)
  /-- R415 -/ | moderationExpire (p : PilotId)
  /-- R416 -/ | waitForInterrupt (p : PilotId)
  /-- R416 -/ | pilotWake (p : PilotId)
  /-- R409 -/ | deviceTimeCompare (k : Fin 4)
  /-- R425 -/ | telemetrySample (taken : Bool)
  /-- R8 -/ | registerWrite (r : RegTarget) (value : BitVec 64)
  /-- R48 -/ | remotePostDelivery (n : Nat)
  /-- R209 -/ | retrainComplete (p : PortId) (usable : BitVec 4)
  /-- R154 -/ | refreshAndCalibration (m : MemId) (channel : Fin 4)
  /-- R202 -/ | wavelengthTuning (e : EngineId)
  /-- R363 -/ | jtagAccess (op : JtagOp)
  /-- R368 -/ | configurationRequest (r : ConfigReq)
  /-- R279 -/ | doeDiscovery (index : BitVec 8)
  /-- R430 -/ | dynamicAddressAssignment (i3c : Bool) (addr : BitVec 7)
  /-- R409 -/ | trngHealthFailure
  /-- R384 -/ | fatalRecoveryReset
  deriving DecidableEq, Repr

end Sys2Proof
end

