-- ==== Sys2Proof/Machine/Bytes.lean ====
section
/-!
DEFINITION. Byte order, bit fields and the checksums that the spec names. Every multi-byte field of the part is little-endian
(R4): its first byte holds bits 7:0.
-/
namespace Sys2Proof.Bytes

/-- A natural number as a byte. -/
def byte (n : Nat) : Byte := BitVec.ofNat 8 n

/-- The number that bytes spell, first byte least significant. -/
def toNat : List Byte → Nat
  | [] => 0
  | b :: bs => b.toNat + 256 * toNat bs

/-- The `n` bytes of a number, first byte least significant. -/
def ofNat : Nat → Nat → List Byte
  | 0, _ => []
  | n + 1, v => byte (v % 256) :: ofNat n (v / 256)

/-- Bytes `off` to `off + len - 1`. -/
def slice (bs : List Byte) (off len : Nat) : List Byte := (bs.drop off).take len

/-- The little-endian field of `len` bytes at `off`. -/
def field (bs : List Byte) (off len : Nat) : Nat := toNat (slice bs off len)

/-- Bits `lo + w - 1` to `lo` of a number. -/
def bits (v lo w : Nat) : Nat := v / 2 ^ lo % 2 ^ w

/-- Bit `i` of a number. -/
def bit (v i : Nat) : Bool := v / 2 ^ i % 2 = 1

/-- One bit as a number. -/
def ofBool (b : Bool) : Nat := if b then 1 else 0

/-- `len` zero bytes. -/
def zeros (len : Nat) : List Byte := List.replicate len 0

/-- Exactly `len` bytes: cut, or filled with zeros. -/
def fit (len : Nat) (bs : List Byte) : List Byte := bs.take len ++ zeros (len - bs.length)

/-- Cut a list into pieces of `k` (the last may be shorter); `fuel` bounds the number of pieces. -/
def chunksAux (k : Nat) : Nat → List α → List (List α)
  | 0, _ => []
  | fuel + 1, xs => if xs.isEmpty then [] else xs.take k :: chunksAux k fuel (xs.drop k)

/-- Cut a list into pieces of `k`. -/
def chunks (k : Nat) (xs : List α) : List (List α) := chunksAux k xs.length xs

/-- A two's-complement field of `w` bits as an integer. -/
def signed (w v : Nat) : Int := if v % 2 ^ w < 2 ^ (w - 1) then (v % 2 ^ w : Nat) else (v % 2 ^ w : Nat) - (2 ^ w : Nat)

/-- An integer in `w` bits of two's complement. -/
def unsigned (w : Nat) (i : Int) : Nat := (i % (2 ^ w : Nat)).toNat

/-- One byte of a reflected cyclic redundancy check of polynomial `poly`. -/
def crcByte (poly : Nat) : Nat → Nat → Nat
  | 0, c => c
  | k + 1, c => crcByte poly k (if c % 2 = 1 then (c / 2) ^^^ poly else c / 2)

/-- Bytes through a reflected cyclic redundancy check. -/
def crcRun (poly : Nat) : Nat → List Byte → Nat
  | c, [] => c
  | c, b :: bs => crcRun poly (crcByte poly 8 (c ^^^ b.toNat)) bs

/-- CRC-32C, of polynomial 0x1EDC6F41, reflected as its standard has it (R210, R382). -/
def crc32c (bs : List Byte) : Nat := crcRun 0x82F63B78 0xFFFFFFFF bs ^^^ 0xFFFFFFFF

end Sys2Proof.Bytes
end

