-- ==== Sys2Proof/Machine/Val.lean ====
section
/-!
DEFINITION. Exact values as the arithmetic units hold them between formats (R72: products are formed exactly).
-/
namespace Sys2Proof

/-- A decoded number: a signed magnitude `m * 2^e` (the sign of a zero is kept), an infinity, or a NaN. -/
inductive Val where
  | num (neg : Bool) (m : Nat) (e : Int)
  | inf (neg : Bool)
  | nan
  deriving DecidableEq, Repr

/-- The special state of an accumulator (R71). -/
inductive Special where
  | finite | posInf | negInf | nan
  deriving DecidableEq, Repr

/-- One accumulator: the window's integer W and the special state (R71). -/
structure Acc where
  w  : Int
  st : Special
  deriving DecidableEq, Repr

/-- An accumulator that has taken nothing. -/
def Acc.zero : Acc := { w := 0, st := .finite }

/-- An exact fraction in lowest terms: Helm's averages, learned powers and predictions (R396, R397) as the rules' formulas
give them. -/
structure Frac where
  num : Int
  den : Nat
  deriving DecidableEq, Repr

namespace Frac

/-- Lowest terms; a denominator of zero gives zero. -/
def norm (n : Int) (d : Nat) : Frac :=
  let g := Nat.gcd n.natAbs d
  if d = 0 then { num := 0, den := 1 } else { num := n / (g : Int), den := d / g }

/-- Zero. -/
def zero : Frac := { num := 0, den := 1 }

/-- A whole number. -/
def ofNat (n : Nat) : Frac := { num := n, den := 1 }

/-- A quotient of natural numbers. -/
def quot (n d : Nat) : Frac := norm n d

/-- Sum. -/
def add (x y : Frac) : Frac := norm (x.num * y.den + y.num * x.den) (x.den * y.den)

/-- Difference. -/
def sub (x y : Frac) : Frac := norm (x.num * y.den - y.num * x.den) (x.den * y.den)

/-- Product. -/
def mul (x y : Frac) : Frac := norm (x.num * y.num) (x.den * y.den)

/-- At most. -/
def le (x y : Frac) : Bool := decide (x.num * y.den ≤ y.num * x.den)

/-- Less than. -/
def lt (x y : Frac) : Bool := decide (x.num * y.den < y.num * x.den)

/-- The smaller. -/
def min (x y : Frac) : Frac := if le x y then x else y

/-- The nearest whole number, ties up; a negative fraction gives 0. -/
def round (x : Frac) : Nat := ((2 * x.num + x.den) / (2 * x.den : Int)).toNat

end Frac

end Sys2Proof
end

