-- ==== Sys2Proof/Machine/Numfmt.lean ====
section
/-!
DEFINITION. Number formats, conversion and rounding, block scales, the accumulation window and the N32 and binary64
arithmetic that the units do (chapter 2, R59 to R88).
-/
namespace Sys2Proof

/-- The formats of Table 2-1, and binary64 (R119, Table 5-8). -/
inductive NumFmt where
  | f8 | g8 | h16 | m40 | n32 | d64
  deriving DecidableEq, Repr

namespace NumFmt

/-- Bits of the fraction field. -/
def fbits : NumFmt → Nat
  | .f8 => 3 | .g8 => 2 | .h16 => 7 | .m40 => 31 | .n32 => 23 | .d64 => 52

/-- Bits of the exponent field. -/
def ebits : NumFmt → Nat
  | .f8 => 4 | .g8 => 5 | .h16 => 8 | .m40 => 8 | .n32 => 8 | .d64 => 11

/-- The exponent bias. -/
def bias : NumFmt → Nat
  | .f8 => 7 | .g8 => 15 | .h16 => 127 | .m40 => 127 | .n32 => 127 | .d64 => 1023

/-- Width of a code in bytes. -/
def bytes : NumFmt → Nat
  | .f8 => 1 | .g8 => 1 | .h16 => 2 | .m40 => 5 | .n32 => 4 | .d64 => 8

/-- Weight of the sign bit. -/
def signWeight (f : NumFmt) : Nat := 2 ^ (f.ebits + f.fbits)

/-- The largest exponent field. -/
def emaxField (f : NumFmt) : Nat := 2 ^ f.ebits - 1

/-- The code of +infinity (formats that have one). -/
def infCode (f : NumFmt) : Nat := f.emaxField * 2 ^ f.fbits

/-- The canonical NaN (Table 2-2). -/
def nanCode (f : NumFmt) : Nat :=
  match f with
  | .f8 => 0x80
  | f => f.infCode + 2 ^ (f.fbits - 1)

/-- The largest finite magnitude code (Table 2-1). -/
def maxCode (f : NumFmt) : Nat :=
  match f with
  | .f8 => 0x7F
  | f => f.infCode - 1

/-- Exponent of the smallest subnormal. -/
def qmin (f : NumFmt) : Int := 1 - (f.bias : Int) - f.fbits

/-- The value of a code (R59, R61). -/
def decode (f : NumFmt) (code : Nat) : Val :=
  let neg := decide (code / f.signWeight % 2 = 1)
  let ex := code / 2 ^ f.fbits % 2 ^ f.ebits
  let fr := code % 2 ^ f.fbits
  if f = .f8 ∧ code % 256 = 0x80 then .nan
  else if f ≠ .f8 ∧ ex = f.emaxField then (if fr = 0 then .inf neg else .nan)
  else if ex = 0 then .num neg fr f.qmin
  else .num neg (2 ^ f.fbits + fr) (f.qmin + (ex - 1 : Nat))

/-- `m / 2^k` rounded to nearest, ties to even. -/
def roundShift (m k : Nat) : Nat :=
  let q := m / 2 ^ k
  let r := m % 2 ^ k
  if 2 * r < 2 ^ k then q else if 2 * r > 2 ^ k then q + 1 else q + q % 2

/-- `m * 2^k` for an integer `k`, rounded to nearest even. -/
def scaleRound (m : Nat) (k : Int) : Nat :=
  match k with
  | .ofNat n => m * 2 ^ n
  | .negSucc n => roundShift m (n + 1)

/-- The magnitude code of `m * 2^e` before the range check, rounded to nearest even (R69). -/
def magCode (f : NumFmt) (m : Nat) (e : Int) : Nat :=
  if m = 0 then 0
  else
    let q := max (e + m.log2 - f.fbits) f.qmin
    (q - f.qmin).toNat * 2 ^ f.fbits + scaleRound m (e - q)

/-- A magnitude code with its sign; too large a value becomes what Table 2-4 says; an F8 zero has no sign (R61). -/
def sealCode (f : NumFmt) (neg : Bool) (mag : Nat) : Nat :=
  let mag' := if mag ≤ f.maxCode then mag else (match f with | .f8 => f.maxCode | f => f.infCode)
  if f = .f8 ∧ mag' = 0 then 0 else mag' + (if neg then f.signWeight else 0)

/-- Convert a value into the format by Table 2-4, rounding to nearest even (R69, R70). -/
def encode (f : NumFmt) (v : Val) : Nat :=
  match v with
  | .nan => f.nanCode
  | .inf neg => if f = .f8 then f.nanCode else f.infCode + (if neg then f.signWeight else 0)
  | .num neg m e => f.sealCode neg (f.magCode m e)

end NumFmt

namespace Val

/-- The value of a natural number. -/
def ofNat (n : Nat) : Val := .num false n 0

/-- The value of an integer times a power of two. -/
def ofInt (i : Int) (e : Int) : Val := .num (decide (i < 0)) i.natAbs e

/-- Whether the value is zero. -/
def isZero : Val → Bool
  | .num _ m _ => m == 0
  | _ => false

/-- Whether the value is finite. -/
def isFinite : Val → Bool
  | .num _ _ _ => true
  | _ => false

/-- Multiply by a power of two. -/
def scale (v : Val) (k : Int) : Val :=
  match v with
  | .num neg m e => .num neg m (e + k)
  | v => v

/-- The value with its sign changed. -/
def negate : Val → Val
  | .num neg m e => .num (!neg) m e
  | .inf neg => .inf (!neg)
  | .nan => .nan

/-- The magnitude. -/
def abs : Val → Val
  | .num _ m e => .num false m e
  | .inf _ => .inf false
  | .nan => .nan

/-- The exact product (R72); an infinity times zero is NaN (R75). -/
def mul : Val → Val → Val
  | .nan, _ => .nan
  | _, .nan => .nan
  | .inf a, .inf b => .inf (a != b)
  | .inf a, .num b m _ => if m = 0 then .nan else .inf (a != b)
  | .num a m _, .inf b => if m = 0 then .nan else .inf (a != b)
  | .num a m e, .num b n k => .num (a != b) (m * n) (e + k)

/-- A finite value as an integer at exponent `k`, which is at most the value's exponent. -/
def intAt (neg : Bool) (m : Nat) (e k : Int) : Int :=
  let n : Int := ((m * 2 ^ (e - k).toNat : Nat) : Int)
  if neg then -n else n

/-- The exact sum. A zero sum is positive unless both terms are negative zeros. -/
def add : Val → Val → Val
  | .nan, _ => .nan
  | _, .nan => .nan
  | .inf a, .inf b => if a = b then .inf a else .nan
  | .inf a, .num _ _ _ => .inf a
  | .num _ _ _, .inf b => .inf b
  | .num a m e, .num b n k =>
    if m = 0 ∧ n = 0 then .num (a && b) 0 0
    else
      let lo := min e k
      ofInt (intAt a m e lo + intAt b n k lo) lo

/-- Whether a finite value is at most another in magnitude. -/
def magLe : Val → Val → Bool
  | .num _ m e, .num _ n k => decide (intAt false m e (min e k) ≤ intAt false n k (min e k))
  | _, .inf _ => true
  | _, _ => false

/-- Whether two values are equal (zeros compare equal). -/
def same : Val → Val → Bool
  | .num a m e, .num b n k => decide (intAt a m e (min e k) = intAt b n k (min e k))
  | .inf a, .inf b => a == b
  | .nan, .nan => true
  | _, _ => false

/-- `x ≤ y` for finite values and infinities; false when either is a NaN. -/
def le : Val → Val → Bool
  | .nan, _ => false
  | _, .nan => false
  | .inf true, _ => true
  | _, .inf false => true
  | .inf false, _ => false
  | _, .inf true => false
  | .num a m e, .num b n k => decide (intAt a m e (min e k) ≤ intAt b n k (min e k))

/-- floor(log2 |v|) of a finite non-zero value. -/
def log2 : Val → Int
  | .num _ m e => e + m.log2
  | _ => 0

end Val

namespace NumFmt

/-- Round to the format and read it back. -/
def round (f : NumFmt) (v : Val) : Val := f.decode (f.encode v)

/-- Sum of two codes, rounded once. -/
def addC (f : NumFmt) (x y : Nat) : Nat := f.encode (Val.add (f.decode x) (f.decode y))

/-- Difference of two codes, rounded once. -/
def subC (f : NumFmt) (x y : Nat) : Nat := f.encode (Val.add (f.decode x) (Val.negate (f.decode y)))

/-- Product of two codes, rounded once. -/
def mulC (f : NumFmt) (x y : Nat) : Nat := f.encode (Val.mul (f.decode x) (f.decode y))

/-- Bits of a quotient or root that are formed before the rounding: more than two above any format's fraction, with a sticky
bit below them, so that rounding it rounds the exact value. -/
def workBits : Nat := 64

/-- Quotient of two values with a sticky bit, ready to be rounded. -/
def divVal : Val → Val → Val
  | .nan, _ => .nan
  | _, .nan => .nan
  | .inf _, .inf _ => .nan
  | .inf a, .num b _ _ => .inf (a != b)
  | .num a _ _, .inf b => .num (a != b) 0 0
  | .num a m e, .num b n k =>
    if n = 0 then (if m = 0 then .nan else .inf (a != b))
    else
      let sh := workBits + n.log2
      let num := m * 2 ^ sh
      .num (a != b) (2 * (num / n) + (if num % n = 0 then 0 else 1)) (e - k - sh - 1)

/-- Quotient of two codes, rounded once. -/
def divC (f : NumFmt) (x y : Nat) : Nat := f.encode (divVal (f.decode x) (f.decode y))

/-- One bit of an integer square root, from bit `k` down. -/
def isqrtAux (n : Nat) : Nat → Nat → Nat
  | 0, r => r
  | k + 1, r =>
    let c := r + 2 ^ k
    isqrtAux n k (if c * c ≤ n then c else r)

/-- floor(sqrt n). -/
def isqrt (n : Nat) : Nat := isqrtAux n (n.log2 / 2 + 1) 0

/-- Square root with a sticky bit; of a negative number NaN, of a negative zero itself. -/
def sqrtVal : Val → Val
  | .nan => .nan
  | .inf neg => if neg then .nan else .inf false
  | .num neg m e =>
    if m = 0 then .num neg 0 0
    else if neg then .nan
    else
      let up := 2 * workBits + (e % 2).toNat
      let n := m * 2 ^ up
      let r := isqrt n
      .num false (2 * r + (if r * r = n then 0 else 1)) ((e - up) / 2 - 1)

/-- Square root of a code, rounded once. -/
def sqrtC (f : NumFmt) (x : Nat) : Nat := f.encode (sqrtVal (f.decode x))

end NumFmt

/-! ## Block scales (R62 to R64) -/

/-- An element of a block with scale code `k` (R62). -/
def scaled (f : NumFmt) (code k : Nat) : Val :=
  if k = 0xFF then .nan else (f.decode code).scale ((k : Int) - 127)

/-- The largest magnitude of the finite values. -/
def amax : List Val → Val
  | [] => .num false 0 0
  | v :: vs =>
    let r := amax vs
    if v.isFinite && r.magLe v then v.abs else r

/-- The scale code of a block (R63). -/
def chooseScale (f : NumFmt) (block : List Val) : Nat :=
  match amax block with
  | .num _ m e =>
    if m = 0 then 0x7F
    else
      let emax : Int := if f = .f8 then 8 else 15
      let limit : Nat := if f = .f8 then 496 else 61440
      let s := e + m.log2 - emax
      let s := if (Val.ofNat limit).magLe (.num false m (e - s)) then s + 1 else s
      let s := max (-127) (min s 127)
      (s + 127).toNat
  | _ => 0x7F

/-- Convert an element of a block whose scale code is `k` (R63, R64). -/
def convScaled (f : NumFmt) (k : Nat) (v : Val) : Nat := f.encode (v.scale (127 - (k : Int)))

/-! ## The accumulation window (R71 to R76, R82, R85) -/

namespace Acc

/-- The largest magnitude of a finite W (R71). -/
def wMax : Int := 2 ^ 63 - 2

/-- q = trunc(p / 2^A) and whether bits were dropped (R73). -/
def truncAt (neg : Bool) (m : Nat) (e anchor : Int) : Int × Bool :=
  let k := e - anchor
  let q : Nat := if 0 ≤ k then m * 2 ^ k.toNat else m / 2 ^ (-k).toNat
  let lost : Bool := if 0 ≤ k then false else decide (m % 2 ^ (-k).toNat ≠ 0)
  (if neg then -(q : Int) else q, lost)

/-- How special states combine (R75). -/
def joinSt : Special → Special → Special
  | .finite, x => x
  | x, .finite => x
  | .nan, _ => .nan
  | _, .nan => .nan
  | .posInf, .posInf => .posInf
  | .negInf, .negInf => .negInf
  | .posInf, .negInf => .nan
  | .negInf, .posInf => .nan

/-- The special state that a product gives (R75). -/
def stOf : Val → Special
  | .num _ _ _ => .finite
  | .inf false => .posInf
  | .inf true => .negInf
  | .nan => .nan

/-- What a group of products adds: the sum of their q, the number dropped, and their special state. -/
def gather (anchor : Int) : List Val → Int × Nat × Special
  | [] => (0, 0, .finite)
  | v :: vs =>
    let (q, d, st) := gather anchor vs
    match v with
    | .num neg m e =>
      let (q', lost) := truncAt neg m e anchor
      (q + q', d + (if lost then 1 else 0), st)
    | v => (q, d, joinSt (stOf v) st)

/-- Add a group of products in one addition: none on an overflow (R74), else the accumulator and the drops. -/
def addGroup (a : Acc) (anchor : Int) (ps : List Val) : Option (Acc × Nat) :=
  let (q, d, st) := gather anchor ps
  let w := a.w + q
  if -wMax ≤ w ∧ w ≤ wMax then some ({ w := w, st := joinSt a.st st }, d) else none

/-- The accumulator's value at an anchor (R77). -/
def value (a : Acc) (anchor : Int) : Val :=
  match a.st with
  | .finite => Val.ofInt a.w anchor
  | .posInf => .inf false
  | .negInf => .inf true
  | .nan => .nan

/-- The wide partial's code (Table 2-7). -/
def wideCode (a : Acc) : Nat :=
  match a.st with
  | .finite => Bytes.unsigned 64 a.w
  | .posInf => 0x7FFFFFFFFFFFFFFF
  | .negInf => 0x8000000000000001
  | .nan => 0x8000000000000000

/-- What a wide partial's code stands for at the anchor of its trailer (Table 2-7). -/
def wideVal (code : Nat) (anchor : Int) : Val :=
  if code = 0x7FFFFFFFFFFFFFFF then .inf false
  else if code = 0x8000000000000001 then .inf true
  else if code = 0x8000000000000000 then .nan
  else Val.ofInt (Bytes.signed 64 code) anchor

end Acc

/-- The mixing function of R96. -/
def mix64 (x : Nat) : Nat :=
  let m := 2 ^ 64
  let x := x % m
  let x := (x ^^^ (x / 2 ^ 30)) * 0xBF58476D1CE4E5B9 % m
  let x := (x ^^^ (x / 2 ^ 27)) * 0x94D049BB133111EB % m
  x ^^^ (x / 2 ^ 31)

end Sys2Proof
end

