-- ==== Sys2Proof/Config.lean ====
section
/-!
DEFINITION. What one module or one firmware fixes, and the free values.
Every constant here is opaque: nothing can be proved about its value, so a claim that holds for the model holds whatever
the value is.
-/
namespace Sys2Proof.Config

/-! ## Free values -/

/-- A byte the spec calls undefined (R58 step 4, R314): the n-th drawn. -/
opaque freeByte : Nat → Byte
/-- A value the spec leaves open: the n-th drawn. -/
opaque freeNat : Nat → Nat
/-- What a DRAM byte reads as that nothing has written since the die's key was drawn (R462): by key generation and
allocating-view address. -/
opaque dramByte : Nat → Nat → Byte
/-- Whether such a byte's 64-byte unit reads poisoned (R462), by key generation and first address of the unit. -/
opaque dramPoison : Nat → Nat → Bool
/-- What host memory holds where no command has said what it holds (R148): by host address. -/
opaque hostByte : Nat → Byte
/-- The n-th draw of the security engine's random generator, 384 bits (Table 9-5, Table 9-6 index 10). -/
opaque random : Nat → BitVec 384

/-! ## Facts of the part (Tables 0-1, 7-3, 7-12, 13-2) -/

opaque serial : BitVec 64
opaque revision : BitVec 8
/-- True for the GLC-40M-64 (Table 0-1). -/
opaque variant64 : Bool
opaque vendorId : BitVec 16
/-- Capacity of each DIMM in GB (R149). -/
opaque dimmGB : Nat
/-- True when all sixteen channels are populated, false for the eight of R149. -/
opaque sixteen : Bool
/-- Blocks of one flash die (Table 4-7). -/
opaque flashBlocks : Nat
/-- Trim of the voltage of each operating point, in millivolts below Table 11-2 (R389). -/
opaque trimMilliVolts : Nat → Nat
/-- The learned powers that the fuses hold, in milliwatts, by phase and point (R397). -/
opaque fuseMilliWatts : Nat → Nat → Nat
/-- The version of the pilot firmware that slot 0 is shipped with, and its security version (R349). -/
opaque factoryFw : BitVec 32
opaque factorySvn : BitVec 32
/-- Its digest. -/
opaque factoryDigest : BitVec 384
/-- The stripe that the k-th write of a stripe on a flash die takes (R159 says that it is an erased one), and the block that a stripe's
pages lie in (R158, R163: the spec gives blocks no geometry). -/
opaque stripeAt : Nat → Nat → Nat
opaque blockOf : Nat → Nat
/-- The set of the shared cache that a 256-byte line maps to (R152 gives the number of sets, not the mapping). -/
opaque cacheSet : Nat → Nat
/-- SPD serial of each channel's DIMM (R375). -/
opaque spdSerial : Nat → BitVec 64

/-! ## Cryptography (the standards that the spec names; no value of theirs is computed here) -/

/-- SHA-384. -/
opaque sha384 : List Byte → BitVec 384
/-- Whether an ECDSA P-384 signature verifies: public key, signed bytes, signature (R342, R304). -/
opaque sigVerifies : List Byte → List Byte → List Byte → Bool
/-- The vendor's public keys behind the four hashes in fuses (R340, R346). -/
opaque vendorKey : Nat → List Byte
/-- The UDS: a secret in fuses (Table 9-5). -/
opaque uds : List Byte
/-- The ECDSA P-384 public key of a private key made from 48 bytes, and a signature with that private key (R347, R351). -/
opaque ecdsaPublic : List Byte → List Byte
opaque signWith : List Byte → List Byte → List Byte
/-- The boot ROM's template of an alias certificate filled in (R347): the alias public key, the serial, and measurements 1 to 9. -/
opaque aliasTbs : List Byte → BitVec 64 → List Byte → List Byte
/-- The X.509 v3 certificate of what was signed and its signature. -/
opaque x509 : List Byte → List Byte → List Byte
/-- The public key of an ephemeral ECDH P-384 private key, and the shared secret of a private key with a peer's public key (R207). -/
opaque ecdhPublic : BitVec 384 → List Byte
opaque ecdhShared : BitVec 384 → List Byte → List Byte
/-- AES-256-GCM: key, IV, additional data and plaintext give the ciphertext and the tag (R212). -/
opaque gcmSeal : List Byte → List Byte → List Byte → List Byte → List Byte × List Byte
/-- The chain from the Oromond root through the identity certificate to an alias certificate (R347, R351). -/
opaque certChain : List Byte → List Byte
/-- AES-256-XTS (R356): the key by die and generation, the tweak and a data unit give the ciphertext. -/
opaque xtsSeal : Nat → Nat → BitVec 128 → List Byte → List Byte
/-- The last 272 bytes of an escrow blob (Table 9-9): the flash keys of a generation under the sealing key of an epoch, with the
blob's first 48 bytes as additional data, and the tag. -/
opaque escrowSeal : Nat → Nat → List Byte → List Byte
/-- The digests of the boot ROM, and of the stage-1 firmware and the microcode that come with an image (Table 9-6). -/
opaque romDigest : BitVec 384
opaque stageOneDigest : BitVec 384 → BitVec 384
opaque microcodeDigest : BitVec 384 → BitVec 384
/-- The I3C provisional identifier and the SMBus UDID that a module derives from its serial (R430, which does not say how). -/
opaque provisionalId : BitVec 64 → BitVec 48
opaque udid : BitVec 64 → BitVec 128
/-- An SPDM response body that the SPDM standard lays out: the request code and a session number (R351). -/
opaque spdmBody : Nat → Nat → List Byte

/-! ## What the spec does not lay out -/

/-- What a dword of PCIe configuration space reads as, by its offset and what was last written there (Table 7-1 names the
capabilities; their layout is the PCIe specification's). -/
opaque cfgDword : Nat → BitVec 32 → BitVec 32
/-- Offsets of the Power Management, MSI-X and PCI Express capabilities, and of the Device Serial Number, DOE and IDE extended
capabilities, in configuration space. -/
opaque pmCap : Nat
opaque msixCap : Nat
opaque expressCap : Nat
opaque serialCap : Nat
opaque doeCap : Nat
opaque ideCap : Nat
/-- The node identifier and ring sizes that the firmware writes at start-up (R221 names no source for them). -/
opaque fabNode : BitVec 12
opaque fabDim : BitVec 16
/-- Bytes in use of a pipeline stage on a memory die as a telemetry sample finds them (R197): the n-th reading. -/
opaque stageBytes : Nat → Nat
/-- The cores that work for a stage of the image with a digest (R197; PHASE_LIST has no layout). -/
opaque stageCores : Nat → Nat → List Nat

/-- Sections of a job image whose record layout the spec does not give (Table 7-14): TENSOR_MAP windows, forward-copy slots
(first, second, length), whether two tensors share a parameter or a byte (R105). -/
opaque mapWindows : List Byte → List (Nat × Nat)
opaque mapCopies : List Byte → List (Nat × Nat × Nat)
opaque mapTied : List Byte → Bool
/-- Objects of a TENSOR_MAP (R147), each with whether the map pins it (R166). -/
opaque mapObjects : List Byte → List (Nat × Bool)
/-- SEMAPHORES: core, 64 initial values, four class words. -/
opaque semaphores : List Byte → List (Nat × List (BitVec 16) × List (BitVec 64))
/-- Where the local gradient of a TIER = 1 descriptor lies (R111 names a gradient buffer and no address), by PBASE. -/
opaque gradBuffer : Nat → Nat
/-- LAYOUT: groups (identifier, members), FAB_DIM, replica group, and whether it is in range (R227). -/
opaque layoutGroups : List Byte → List (Nat × List (BitVec 12))
opaque layoutReplicas : List Byte → List (BitVec 12)
opaque layoutDim : List Byte → BitVec 16
opaque layoutOk : List Byte → Bool
/-- BUDGETS: stage, die, bytes. -/
opaque budgets : List Byte → List (Nat × Nat × Nat)
/-- STREAM_TABLE: per stream, core index and START_PC. -/
opaque streamTable : List Byte → List (List (Nat × Nat))
/-- HOST_REGIONS: region, declared length, permissions. -/
opaque hostRegions : List Byte → List (Nat × Nat × BitVec 2)

end Sys2Proof.Config
end

