-- ==== Sys2Proof/Machine/Tbl.lean ====
section
/-!
DEFINITION. Sparse tables: a list of (key, value) pairs in one canonical form, keys strictly rising and, where the table
has a default, no entry equal to the default. Every memory and every large register file of the model is one of these.
-/
namespace Sys2Proof

/-- A sparse table from natural-number keys. -/
structure Tbl (α : Type) where
  entries : List (Nat × α)
  deriving DecidableEq, Repr

namespace Tbl

/-- Look a key up in a list of pairs with rising keys. -/
def findIn (k : Nat) : List (Nat × α) → Option α
  | [] => none
  | (j, v) :: rest => if k = j then some v else if k < j then none else findIn k rest

/-- Insert or replace a pair, keeping the keys rising. -/
def putIn (k : Nat) (v : α) : List (Nat × α) → List (Nat × α)
  | [] => [(k, v)]
  | (j, u) :: rest =>
    if k < j then (k, v) :: (j, u) :: rest
    else if k = j then (k, v) :: rest
    else (j, u) :: putIn k v rest

/-- Remove a key. -/
def dropIn (k : Nat) : List (Nat × α) → List (Nat × α)
  | [] => []
  | (j, u) :: rest => if k = j then rest else if k < j then (j, u) :: rest else (j, u) :: dropIn k rest

/-- The empty table. -/
def empty : Tbl α := { entries := [] }

/-- The value stored at a key, if any. -/
def find? (t : Tbl α) (k : Nat) : Option α := findIn k t.entries

/-- Store a value whatever it is. -/
def put (t : Tbl α) (k : Nat) (v : α) : Tbl α := { entries := putIn k v t.entries }

/-- Remove a key. -/
def drop (t : Tbl α) (k : Nat) : Tbl α := { entries := dropIn k t.entries }

/-- Read a key of a table whose unlisted keys read as `d`. -/
def get (d : α) (t : Tbl α) (k : Nat) : α := (t.find? k).getD d

/-- Write a key of a table whose unlisted keys read as `d`: writing `d` removes the entry. -/
def set [DecidableEq α] (d : α) (t : Tbl α) (k : Nat) (v : α) : Tbl α :=
  if v = d then t.drop k else t.put k v

/-- The values, in rising order of their keys. -/
def vals (t : Tbl α) : List α := t.entries.map Prod.snd

/-- The keys, rising. -/
def keys (t : Tbl α) : List Nat := t.entries.map Prod.fst

/-- Change every value. -/
def mapVals (f : Nat → α → α) (t : Tbl α) : Tbl α :=
  { entries := t.entries.map fun p => (p.1, f p.1 p.2) }

/-- Keep the entries that satisfy `p`. -/
def keep (p : Nat → α → Bool) (t : Tbl α) : Tbl α := { entries := t.entries.filter fun e => p e.1 e.2 }

/-- Keys strictly rising. -/
def risingIn : List (Nat × α) → Bool
  | [] => true
  | [_] => true
  | (j, _) :: (k, v) :: rest => decide (j < k) && risingIn ((k, v) :: rest)

/-- The canonical form: keys strictly rising, no entry equal to the default. -/
def wf [DecidableEq α] (d : α) (t : Tbl α) : Bool :=
  risingIn t.entries && t.entries.all (fun e => decide (e.2 ≠ d))

/-- The keys are strictly rising (for a table whose unlisted keys have no stored default). -/
def rising (t : Tbl α) : Bool := risingIn t.entries

end Tbl
end Sys2Proof
end

