-- ==== Sys2Proof/Machine/State.lean ====
section
/-!
DEFINITION. The state of the GLC-40M: every register, queue, buffer, counter and mode that the spec gives the part, as plain
data, the queue of waiting commands, and the state after reset.
Fields that are the model's own (not the spec's) say so: `free` counts free values drawn, `out` lists what the part put on
its edges.
-/
namespace Sys2Proof.Machine

/-! ## The Churn core -/

/-- CORE_STATUS.STATE (Table 1-21). -/
inductive CoreMode where
  | idle | run | fault
  deriving DecidableEq, Repr

/-- Operand formats of LDS and PASS (Tables 1-12, 1-15). -/
inductive OpFmt where
  | f8 | g8 | h16
  deriving DecidableEq, Repr

/-- Dataflow modes (Table 1-1). -/
inductive FlowMode where
  | outer | statRow | statCol
  deriving DecidableEq, Repr

/-- Drain forms (Table 1-6). -/
inductive OutForm where
  | wide | narrow | f8 | g8 | h16
  deriving DecidableEq, Repr

/-- The post that an operation asks for on retire: the semaphore to post 1 to (PEN and PSEM). -/
abbrev PostReq := Option (BitVec 6)

/-- Fields of LDS (Table 1-12). -/
structure LdsOp where
  bank  : Bool
  fmt   : OpFmt
  addr  : Nat
  saddr : Nat
  post  : PostReq
  deriving DecidableEq, Repr

/-- Fields of ACCLD (Table 1-13). -/
structure AccldOp where
  narrow : Bool
  dir    : Bool
  addr   : Nat
  taddr  : Nat
  post   : PostReq
  deriving DecidableEq, Repr

/-- Fields of ANCH (Table 1-14). -/
structure AnchOp where
  scan    : Bool
  anchor  : BitVec 10
  saAddr  : Nat
  saLines : Nat
  sbAddr  : Nat
  sbLines : Nat
  deriving DecidableEq, Repr

/-- Fields of PASS (Table 1-15); `steps` is the number of steps, STEPS + 1. -/
structure PassOp where
  mode   : FlowMode
  bank   : Bool
  clr    : Bool
  fmtA   : OpFmt
  fmtB   : OpFmt
  sxe    : Bool
  post   : PostReq
  steps  : Nat
  aAddr  : Nat
  saAddr : Nat
  bAddr  : Nat
  sbAddr : Nat
  deriving DecidableEq, Repr

/-- Fields of DRAIN (Table 1-16). -/
structure DrainOp where
  dir   : Bool
  form  : OutForm
  addr  : Nat
  saddr : Nat
  taddr : Nat
  post  : PostReq
  deriving DecidableEq, Repr

/-- Fields of QUANT (Table 1-17). -/
structure QuantOp where
  ifmt  : OutForm
  ofmt  : OutForm
  rows  : Nat
  src   : Nat
  dst   : Nat
  sdst  : Nat
  taddr : Nat
  post  : PostReq
  deriving DecidableEq, Repr

/-- Fields of MOVE (Table 1-18); `len` is the number of bytes, LEN + 1; `remote` is RCORE and RSEM when RPEN = 1. -/
structure MoveOp where
  inbound : Bool
  len     : Nat
  laddr   : Nat
  raddr   : Nat
  post    : PostReq
  remote  : Option (BitVec 8 × BitVec 6)
  deriving DecidableEq, Repr

/-- A decoded operation (Tables 1-9 to 1-18). -/
inductive CoreOp where
  | nop | endOp | sync
  | jump (target : BitVec 19)
  | phase (code : BitVec 3)
  | wait (bar : Bool) (sem : BitVec 6) (count : BitVec 16)
  | post (core : BitVec 8) (sem : BitVec 6) (count : BitVec 16)
  | lds (o : LdsOp)
  | accld (o : AccldOp)
  | anch (o : AnchOp)
  | pass (o : PassOp)
  | drain (o : DrainOp)
  | quant (o : QuantOp)
  | move (o : MoveOp)
  deriving DecidableEq, Repr

/-- Core fault causes (Table 1-23). -/
inductive CoreCause where
  | illegalOpcode | illegalField | addrRange | align | illegalForPhase | format | noAnchor | tileTooLong | replayLimit
  | tileState | semOvf | waitTimeout | scratchUe | poisonRead | meshError | halted
  deriving DecidableEq, Repr

/-- A fetched operation of the 16-entry buffer: its operation address, its bits, and the fault that its fetch met (R19). -/
structure Fetched where
  addr : Nat
  word : BitVec 128
  bad  : Option CoreCause
  deriving DecidableEq, Repr

/-- An issued operation in a unit's queue: its place in issue order, its operation address, and its tile (identifiers start
at 1; 0 is none). -/
structure Issued (α : Type) where
  seq  : Nat
  pc   : Nat
  tile : Nat
  op   : α
  deriving DecidableEq, Repr

/-- A MOVE in the mesh queue, with the bytes of it that have moved, in ascending order (R27). -/
structure MoveEntry where
  seq   : Nat
  pc    : Nat
  op    : MoveOp
  moved : Nat
  deriving DecidableEq, Repr

/-- A PASS in the array queue: the steps issued, the cycles granted to a wide step (R40), the scale lines of A and of B that it has
read ahead (R16), and whether it issues again for a replay, its retirement already waiting for the capture (R35). -/
structure PassEntry where
  seq   : Nat
  pc    : Nat
  tile  : Nat
  op    : PassOp
  begun : Bool
  next  : Nat
  sub   : Nat
  sa    : List (List Byte)
  sb    : List (List Byte)
  redo  : Bool
  deriving DecidableEq, Repr

/-- An operation that has finished its own work and has not retired (R22): an LDS, an ACCLD or a PASS. `tile` is the tile
whose capture retires it, if one names it. -/
structure Unretired where
  seq  : Nat
  pc   : Nat
  tile : Option Nat
  bank : Option Bool
  post : PostReq
  deriving DecidableEq, Repr

/-- A sequencer operation held at issue (R20), the arith cycles it has waited, and, for a satisfied WAIT with BAR = 1, the
cycles of its start-stagger hold that are left (R42). -/
structure Held where
  seq     : Nat
  pc      : Nat
  op      : CoreOp
  waited  : Nat
  stagger : Option Nat
  deriving DecidableEq, Repr

/-- An entry of the tile log (R24): an LDS, an ACCLD, or a PASS with the LDS whose bank it names. -/
inductive LogItem where
  | lds (e : Issued LdsOp)
  | accld (e : Issued AccldOp)
  | pass (e : PassEntry) (src : Option LdsOp)
  deriving DecidableEq, Repr

/-- A tile in stream order, from its opening until its capture (R23, R52): its log, its anchor once placed, and what its
trailer will report (R32, R76). -/
structure Tile where
  id        : Nat
  byAccld   : Bool
  log       : List LogItem
  active    : Bool
  drained   : Bool
  anchor    : Int
  replays   : Nat
  dropped   : BitVec 32
  dropSat   : Bool
  nonfinite : Bool
  wide      : Bool
  sxeDrawn  : Bool
  passes    : Nat
  deriving DecidableEq, Repr


/-- The pending anchor (R33, R78). -/
inductive PendAnchor where
  | imm (a : Int)
  | scan (t : Int)
  deriving DecidableEq, Repr

/-- One stationary bank of the whole array (R10): operands by 64 * row + column, one scale a column block, its format, and the place
in issue order of the LDS that filled it. -/
structure Bank where
  seq    : Nat
  fmt    : OpFmt
  valid  : Bool
  vals   : Tbl Val
  deriving DecidableEq, Repr

/-- A step whose products are in the pipeline or the tree: its decoded vectors and the bank it multiplies by as its broadcast found
it (R11, R35); `lds` is the LDS that the tile log names for it (R97). -/
structure StepVec where
  tile  : Nat
  seq   : Nat
  pc    : Nat
  k     : Nat
  mode  : FlowMode
  bank  : Bool
  stat  : Bank
  a     : List Val
  b     : List Val
  lds   : Option LdsOp
  deriving DecidableEq, Repr

/-- A replay in progress (R35): the logged operations still to issue again, the pass or ACCLD that overflowed, the banks as the
replay found them, and the lines that an LDS or ACCLD at the head of `items` has read again (R27). -/
structure Replay where
  tile   : Nat
  items  : List LogItem
  target : Nat
  banks  : Tbl Bank
  buf    : Tbl (List Byte)
  deriving DecidableEq, Repr

/-- The drain shadows after a capture (R29): the accumulators as captured, and the trailer they are written with,
and the lines still to write, in order (R27). -/
structure Shadow where
  acc     : Tbl Acc
  anchor  : Int
  trailer : List Byte
  entry   : Issued DrainOp
  left    : List (Nat × List Byte)
  deriving DecidableEq, Repr

/-- The core control block of Tables 1-19 to 1-22 with the stall counter block of Table 4-13. -/
structure CoreRegs where
  mode       : CoreMode
  startPc    : BitVec 19
  pc         : Nat
  phase      : BitVec 3
  done       : Bool
  faulted    : Bool
  wrapped    : Bool
  faultCause : BitVec 8
  faultPc    : BitVec 19
  stag       : BitVec 3
  wdog       : BitVec 6
  busy       : BitVec 48
  replays    : Cnt32
  doneCnt    : Cnt32
  faultCnt   : Cnt32
  wrapCnt    : Cnt32
  eccCorr    : Cnt32
  sems       : Tbl (BitVec 16)
  stall      : Tbl Cnt64
  classes    : Tbl (BitVec 64)
  deriving DecidableEq, Repr

/-- The issue side of a core: fetch buffer, queues, held operation; a fault that waits for earlier operations, and whether the latest
fault arose in this arith cycle (R16, R20 to R23, R58, R461); the lines that the operations at
the heads of the load, anchor and convert queues have read, by line, and the lines that the QUANT has still to write (R27). -/
structure CorePipe where
  fetch     : List Fetched
  fetchPc   : Nat
  issued    : Nat
  held      : Option Held
  faulting  : Option (Nat × CoreCause × Nat)
  faultNow  : Bool
  loadQ     : List (Issued CoreOp)
  anchQ     : Option (Issued AnchOp)
  arrayQ    : List PassEntry
  drainQ    : List (Issued DrainOp)
  quantQ    : List (Issued QuantOp)
  moveQ     : List MoveEntry
  unretired : List Unretired
  lastLds   : Tbl (Issued LdsOp)
  anchSince : Bool
  loadBuf   : Tbl (List Byte)
  anchBuf   : Tbl (List Byte)
  quantBuf  : Tbl (List Byte)
  quantOut  : Option (List (Nat × List Byte))
  deriving DecidableEq, Repr

/-- The array side of a core: stationary registers, accumulators, drain shadows, tiles, the activity ramp (R10, R35, R39). -/
structure CoreArray where
  banks     : Tbl Bank
  acc       : Tbl Acc
  shadow    : Option Shadow
  pend      : Option PendAnchor
  tiles     : List Tile
  tileNext  : Nat
  tileSeq   : BitVec 64
  flying    : List StepVec
  replay    : Option Replay
  level     : Nat
  credit    : Nat
  idleFor   : Nat
  cycle4    : Nat
  deriving DecidableEq, Repr

/-- A memory: its listed bytes, and the first addresses of its poisoned 64-byte units, rising (R19, R153). -/
structure Mem where
  bytes  : Tbl Byte
  poison : Tbl Bool
  deriving DecidableEq, Repr

/-- One Churn core with its scratchpad (R10, R14). `was` holds the core's two sides as the first fault of this arith cycle found them: an
operation that the fault took from its unit may still raise a fault of a lower code in that cycle (R461). -/
structure Core where
  regs    : CoreRegs
  pipe    : CorePipe
  arr     : CoreArray
  scratch : Mem
  was     : Option (CorePipe × CoreArray)
  deriving DecidableEq, Repr

/-- A post travelling through the low-latency class (R48), and the core, the place in issue order and the operation address
that answer for its overflow, if a core issued it. `holds` tells a POST, which retires only on delivery (R22), from the post
of a MOVE. -/
structure RemotePost where
  target : Nat
  sem    : BitVec 6
  count  : Nat
  source : Option (Nat × Nat × Nat)
  holds  : Bool
  deriving DecidableEq, Repr

/-! ## Compute dies -/

/-- A tile that a Sextant follows (R96, R97): the N32 sums are kept as codes; THRESH.EXP, LOG_EN and VAL_LOG are those of the draw
(R100). -/
structure Probe where
  core    : Nat
  tile    : Nat
  seq     : BitVec 64
  row     : Nat
  col     : Nat
  s       : BitVec 32
  m       : BitVec 32
  pc      : Nat
  phase   : BitVec 3
  ready   : Bool
  exp     : Nat
  logEn   : Bool
  valLog  : Bool
  deriving DecidableEq, Repr

/-- The Sextant block of Tables 2-11 to 2-13. -/
structure Sextant where
  nExp      : BitVec 5
  valLog    : Bool
  logEn     : Bool
  en        : Bool
  thresh    : BitVec 5
  seed      : BitVec 64
  mismatch  : Bool
  sampled   : Cnt32
  skipped   : Cnt32
  mismatchCnt : Cnt32
  lastSeq   : BitVec 64
  errExp    : BitVec 8
  posCore   : BitVec 3
  posPhase  : BitVec 3
  posRow    : BitVec 6
  posCol    : BitVec 6
  probe     : Option Probe
  deriving DecidableEq, Repr

/-- A change of operating point in progress (R390): slewing the voltage up, relocking, or slewing it down. -/
inductive PointChange where
  | slewUp (target : BitVec 4)
  | relock (target : BitVec 4)
  | slewDown (target : BitVec 4)
  deriving DecidableEq, Repr

/-- A compute die: whether start-up left it out, its operating point, a change of point and the newer target that waits for it
(R389 to R391), Helm's last decision for it with the heading and phase that decision saw (R393, R398), the limits of R400, R405
and the droop response (R401), the updated entries of its learned powers in milliwatts by 16 * phase + point (R397), RUN cycles and real steps by phase
of this window and of the last (R398), and its Sextant. -/
structure ComputeDie where
  inService   : Bool
  point       : BitVec 4
  change      : Option PointChange
  pendingPt   : Option (BitVec 4)
  fabricClk   : Bool
  chosen      : BitVec 4
  target      : BitVec 4
  phaseAt     : BitVec 3
  lmaxHelm    : Nat
  phaseMoved  : Bool
  burstShare  : Frac
  burstSeen   : Bool
  lmaxBurst   : Bool
  throttlePt  : Option (BitVec 4)
  critical    : Bool
  droopOn     : Bool
  droopClear  : Nat
  learned     : Tbl Frac
  onePhase    : Option (BitVec 3 × BitVec 4)
  runCycles   : Tbl Nat
  realSteps   : Tbl Nat
  lastRun     : Tbl Nat
  lastReal    : Tbl Nat
  clkAcc      : Nat
  sxt         : Sextant
  deriving DecidableEq, Repr

/-! ## Memory dies -/

/-- A scale-pass descriptor (Table 2-3). -/
structure SpuDesc where
  at_    : Nat
  src    : Nat
  dst    : Nat
  sdst   : Nat
  n32    : Bool
  g8     : Bool
  vecLay : Bool
  pcore  : BitVec 8
  blocks : Nat
  psem   : BitVec 6
  deriving DecidableEq, Repr

/-- A scale-pass unit (Tables 2-16, 2-17). -/
structure Spu where
  en         : Bool
  poison     : Bool
  reject     : Bool
  done       : Bool
  queue      : List Addr
  running    : Option SpuDesc
  lastCode   : BitVec 8
  lastAddr   : Addr
  blocks     : Cnt64
  doneCnt    : Cnt32
  rejectCnt  : Cnt32
  poisonCnt  : Cnt32
  deriving DecidableEq, Repr

/-- SEP_STATUS.STATE (Table 3-12). -/
inductive SepMode where
  | idle | run | wait
  deriving DecidableEq, Repr

/-- Optimizer kinds (Table 3-7, OPT). -/
inductive OptKind where
  | am | msgd | fact
  deriving DecidableEq, Repr

/-- An update descriptor (Table 3-7). -/
structure UpdDesc where
  master   : Nat
  mom1     : Nat
  mom2     : Nat
  colf     : Nat
  ema      : Nat
  grad     : Nat
  f8dst    : Nat
  f8sdst   : Nat
  pbase    : BitVec 64
  count    : Nat
  rows     : Nat
  opt      : Option OptKind
  flash    : Bool
  vecLay   : Bool
  emaEn    : Bool
  nesterov : Bool
  mom1En   : Bool
  f8En     : Bool
  first    : Bool
  last     : Bool
  shard    : BitVec 16
  lrScale  : BitVec 32
  decay    : BitVec 32
  eps      : BitVec 32
  emaDecay : BitVec 32
  emaInt   : BitVec 16
  pcore    : BitVec 8
  psem     : BitVec 6
  dgst     : Nat
  rsvZero  : Bool
  deriving DecidableEq, Repr

/-- The Separator's own buffer for a factored update (R126): factors read at the start of the descriptor, and the
accumulators sr and sc, as N32 codes; `bad` tells that a factor read poisoned. -/
structure FactBuf where
  rf   : Tbl (BitVec 32)
  cf   : Tbl (BitVec 32)
  rsum : BitVec 32
  sr   : Tbl (BitVec 32)
  sc   : Tbl (BitVec 32)
  bad  : Bool
  deriving DecidableEq, Repr

/-- A reduced gradient segment waiting in the parking area (R135): its step, the parameter index of its first element, and
its G16 codes. -/
structure Parked where
  job   : BitVec 16
  step  : BitVec 64
  pbase : BitVec 64
  grads : List (BitVec 16)
  deriving DecidableEq, Repr

/-- A staged buffer of flash-tier state (R134): the object and range it holds, where it lies, whether the Separator has
written its results into it, the step that it was staged for, and whether it holds a staging credit (Table 4-4, GATE). -/
structure Staged where
  oid     : Nat
  offset  : Nat
  len     : Nat
  dst     : Nat
  written : Bool
  step    : BitVec 64
  credit  : Bool
  deriving DecidableEq, Repr

/-- A Separator (Tables 3-10 to 3-13) with its place in the list and its parking area. -/
structure Sep where
  mode      : SepMode
  done      : Bool
  poison    : Bool
  nonfinite : Bool
  list      : Addr
  listLen   : BitVec 16
  step      : BitVec 64
  t         : BitVec 64
  seed      : BitVec 64
  unscale   : BitVec 8
  gscale    : BitVec 32
  lr        : BitVec 32
  beta1     : BitVec 32
  beta2     : BitVec 32
  bc1       : BitVec 32
  bc2       : BitVec 32
  bc2p      : BitVec 32
  digest    : BitVec 64
  params    : Cnt64
  parkStall : Cnt64
  parkPeak  : BitVec 32
  doneCnt   : Cnt32
  poisonCnt : Cnt32
  nonfinCnt : Cnt32
  descIndex : Nat
  segIndex  : Nat
  abortReq  : Bool
  cur       : Option UpdDesc
  fact      : Option FactBuf
  parked    : List Parked
  parkWait  : Bool
  staged    : List Staged
  stagingCredits : Nat
  deriving DecidableEq, Repr

/-- The memory die controls block (Tables 4-14, 4-15), its shared cache (R152), and what start-up found of it. -/
structure MemDie where
  overdue    : Bool
  ue         : Bool
  rate       : BitVec 8
  inService  : BitVec 4
  ueAddr     : Addr
  scrubPos   : BitVec 40
  scrubStart : BitVec 64
  ueCnt      : Cnt32
  ovdCnt     : Cnt32
  overdueHrs : Nat
  cacheHit   : Cnt64
  cacheMiss  : Cnt64
  cacheWb    : Cnt64
  ceCnt      : Tbl Cnt32
  cache      : Tbl (List (Nat × Bool))
  keyGen     : Nat
  dimmGB     : Nat
  populated  : BitVec 4
  area       : List (Nat × Nat)
  copies     : List (Nat × Nat)
  limited    : Bool
  deriving DecidableEq, Repr

/-- Skimmer states (Table 6-8). -/
inductive SkmMode where
  | idle | load | scan | merge
  deriving DecidableEq, Repr

/-- A Skimmer (Tables 6-7, 6-8): its queue holds query numbers, with the submissions a full queue holds back (R264). `qdata` and
`qscl` are the query vectors and their scales as it has read them (R259), each byte with its poison. -/
structure Skimmer where
  en        : Bool
  poison    : Bool
  done      : Bool
  mode      : SkmMode
  queue     : List Nat
  waiting   : List Nat
  running   : Option Nat
  qdata     : List (Byte × Bool)
  qscl      : List (Byte × Bool)
  bytes     : Cnt64
  vecs      : Cnt64
  doneCnt   : Cnt32
  poisonCnt : Cnt32
  deriving DecidableEq, Repr

/-- A translation entry (R162, R356): where the seven data pages of its stripe unit lie, each a stripe and a channel, and the key bit,
set when the unit was written under the debug flash key. -/
structure UnitEntry where
  pages : List (Nat × Nat)
  debug : Bool
  deriving DecidableEq, Repr

/-- A flash die (Tables 4-6, 4-7). `waiting` tells that a write waits for free blocks (R163). `tabA` and `tabB` are the primary and the
secondary copy of its translation tables (R162): for each stripe unit of a committed generation the stripe and channel of each of its
seven data pages (R158, R161); `secondary` tells that start-up mounted the second. `taken` counts the stripes taken, `openStripe` is one
that is not full with the data pages it holds, `reads` the page reads of each block's channel since its last program (R163). -/
structure FlashDie where
  inService  : Bool
  poison     : Bool
  channels   : BitVec 8
  floor      : BitVec 10
  low        : BitVec 10
  freeBlocks : BitVec 32
  blocks     : Nat
  wearMax    : BitVec 16
  wearUsed   : BitVec 16
  rebuildCnt : Cnt32
  poisonCnt  : Cnt32
  refreshCnt : Cnt32
  wstall     : Cnt64
  secondary  : Bool
  limited    : Bool
  waiting    : Bool
  tabA       : Tbl UnitEntry
  tabB       : Tbl UnitEntry
  taken      : Nat
  openStripe : Option (Nat × Nat)
  reads      : Tbl Nat
  deriving DecidableEq, Repr

/-! ## Objects -/

/-- Home tiers (R165). -/
inductive Home where
  | dram | flash | host
  deriving DecidableEq, Repr

/-- Object states (Table 4-8); a FREE object is one the map does not list. -/
inductive ObjMode where
  | writing | home | promoting | resident | poisoned
  deriving DecidableEq, Repr

/-- A write that has not committed (R159, R168): its range, the bytes from the host (read when it takes effect, unless
already read), and the command that completes at its commit, if any (queue and tag). -/
structure PendingWrite where
  whole  : Bool
  offset : Nat
  len    : Nat
  haddr  : BitVec 64
  bytes  : List Byte
  began  : Bool
  tag    : Option (QueueId × Tag)
  deriving DecidableEq, Repr

/-- An object of the object map (R165 to R168). `data` holds a flash-home object's committed bytes; `bad` the first offsets
of its poisoned stripe units; `next` a generation being written back by the Almanac (R134), with its job;
`promoteTags` the commands
that wait for its promotion; `created` the length it was created with (R298). -/
structure Obj where
  home      : Home
  len       : Nat
  gen       : Nat
  mode      : ObjMode
  addr      : Nat
  data      : Tbl Byte
  bad       : Tbl Bool
  committed : Bool
  resident  : Option Nat
  refs      : Nat
  evictPend : Bool
  delPend   : Bool
  writes    : List PendingWrite
  next      : Option (BitVec 16 × Tbl Byte × Tbl Bool)
  promoteTags : List (QueueId × Tag)
  created   : Nat
  deriving DecidableEq, Repr

/-- An OBJ_EVICT that has reached an object in the present control cycle (R168): the object, the address of the copy that it dropped at
once, if it did, its record, and whether EVICT_PENDING was set before it. -/
structure Evict where
  oid   : Nat
  was   : Option Nat
  queue : QueueId
  n     : Nat
  pend  : Bool := false
  deriving DecidableEq, Repr

/-! ## The Almanac -/

/-- An Almanac entry (Table 4-4) with what the scheduler knows of it once placed. -/
structure AlmEntry where
  job       : BitVec 16
  kind      : BitVec 2
  srcObj    : Bool
  versioned : Bool
  noAlloc   : Bool
  dlReport  : Bool
  gate      : BitVec 2
  notify    : BitVec 2
  len       : BitVec 32
  step      : BitVec 64
  src       : Addr
  offset    : Addr
  dst       : Addr
  deadline  : Addr
  fullCore  : BitVec 8
  fullSem   : BitVec 6
  emptyCore : BitVec 8
  emptySem  : BitVec 6
  seq       : BitVec 32
  rsvZero   : Bool
  deriving DecidableEq, Repr

/-- An entry in the Almanac table (R175). `gated` tells that its gate has been taken (R181), `rebuilding` that a read of it has met a
parity rebuild after a page-ECC failure (R160, R189). -/
structure Placed where
  id       : Nat
  e        : AlmEntry
  gated    : Bool
  launched : Bool
  cancelled : Bool
  tlate    : Bool
  rebuildFailed : Bool
  rebuilding : Bool := false
  deriving DecidableEq, Repr

/-- A job slot of the Almanac (R178, Table 4-11). -/
structure AlmSlot where
  valid  : Bool
  job    : BitVec 16
  step   : BitVec 64
  clk    : BitVec 48
  pvalid : Bool
  pstep  : BitVec 63
  pclk   : BitVec 48
  deriving DecidableEq, Repr

/-- The Almanac block (Tables 4-10, 4-11) and its table. -/
structure Almanac where
  en        : Bool
  poison    : Bool
  tlate     : Bool
  late      : Bool
  cancelJob : BitVec 16
  cancelling : Bool
  guard     : BitVec 24
  latFlash  : BitVec 24
  latHost   : BitVec 16
  latDram   : BitVec 16
  rateScratch : BitVec 16
  rateHost  : BitVec 16
  rateFlash : BitVec 16
  rateDram  : BitVec 16
  peak      : BitVec 13
  launched  : Cnt64
  lateCnt   : Cnt32
  tlateCnt  : Cnt32
  poisonCnt : Cnt32
  cancelCnt : Cnt32
  discard   : Cnt64
  slots     : Vector AlmSlot 8
  table     : List Placed
  nextId    : Nat
  deriving DecidableEq, Repr

/-! ## Meridian links and collectives -/

/-- Port states (Table 5-2). -/
inductive PortMode where
  | off | dark | train | attest | up | retrain | out
  deriving DecidableEq, Repr

/-- A session of a port (R206 to R208): its protection mode, the key and the IV salt of each direction, how many times each key has
been updated, and the key phases. `oldRxKey` is the receive key of the old phase, kept until its frames are acknowledged. -/
structure Session where
  integrity : Bool
  keyed     : Bool
  txKey     : List Byte
  rxKey     : List Byte
  txSalt    : List Byte
  rxSalt    : List Byte
  txKeys    : Nat
  rxKeys    : Nat
  keyFrames : Nat
  keySince  : Nat
  txPhase   : Bool
  rxPhase   : Bool
  oldRxKey  : Option (List Byte)
  deriving DecidableEq, Repr

/-- A sequenced frame held in a retry buffer until it is acknowledged, with the bytes that it was first sent as (R208, R217). -/
structure Held2 where
  frno  : Nat
  frame : Frame
  wire  : List Byte
  deriving DecidableEq, Repr

/-- A sequenced frame that waits at its port for credits (R214). A frame that came by another port still holds its place in that
port's receive pool: `hold` is the port and the pool. -/
structure Waiting where
  frame : Frame
  hold  : Option (Nat × Nat)
  deriving DecidableEq, Repr

/-- The owner policy (Table 9-8). -/
structure Policy where
  signedImages : Bool
  requireIde   : Bool
  valLogAllow  : Bool
  debugPeers   : Bool
  anyOwner     : Bool
  integrity    : Bool
  minPeerSvn   : BitVec 32
  peerOwner    : BitVec 384
  deriving DecidableEq, Repr

/-- A port's handshake (R206, R207): this module's nonce, its ephemeral private key until FINISH has been sent, the keys that KEYX has
given, the bytes of each message sent and received, the frames it has sent, and the owner policy as the handshake found it (R357). -/
structure Shake where
  nonce : BitVec 384
  eph   : Option (BitVec 384)
  keys  : Option Session
  sent  : List (List Byte)
  got   : List (List Byte)
  frames : Nat
  policy : Policy
  deriving DecidableEq, Repr

/-- A Meridian port (Tables 5-2, 5-12) with its link layer: the handshake messages seen (R206), transmit and receive frame
numbers, the retry buffer, credits by pool held and owed (Table 5-6), the frame slots of R215, the NAK gap, and the times of recent tag failures (R220). -/
structure Port where
  mode      : PortMode
  peer      : BitVec 12
  cause     : BitVec 4
  keyphase  : Bool
  extSrc    : Bool
  prot      : Bool
  lanes     : BitVec 4
  width     : BitVec 2
  fecCorr   : Cnt64
  fecUnc    : Cnt32
  retryCnt  : Cnt32
  authCnt   : Cnt32
  linkdnCnt : Cnt32
  txFrames  : Cnt64
  rxFrames  : Cnt64
  trainFails : Nat
  wasExt    : Bool
  bank      : Bool
  handshake : Nat
  rehandshake : Bool
  peerNonce : BitVec 384
  shake     : Shake
  since     : Nat
  session   : Option Session
  txFrno    : Nat
  txUnseq   : Nat
  rxFrno    : Nat
  rxUnseq   : Nat
  acked     : Nat
  sinceAck  : Nat
  gap       : Bool
  gapSince  : Nat
  noProgress : Nat
  progressAt : Nat
  retry     : List Held2
  waitTx    : List Waiting
  credits   : Tbl Nat
  owed      : Tbl Nat
  slot      : Nat
  lowSlots  : Nat
  authTimes : List Nat
  deriving DecidableEq, Repr

/-- An optical engine (Tables 5-11, 5-12). -/
structure Engine where
  elsAllow  : Bool
  en        : Bool
  timeout   : Bool
  unroute   : Bool
  laggard   : Bool
  stale     : Bool
  auth      : Vector Bool 2
  linkdn    : Vector Bool 2
  node      : BitVec 12
  dim       : BitVec 16
  epoch     : BitVec 16
  ackFrames : BitVec 8
  limit     : BitVec 4
  timeoutUs : BitVec 8
  mcHold    : BitVec 16
  collTimeout : BitVec 16
  staleCnt  : Cnt32
  lagCnt    : Cnt32
  unrouteCnt : Cnt32
  timeoutCnt : Cnt32
  thermal   : BitVec 2
  tuned     : Nat
  deriving DecidableEq, Repr

/-- Collective operations (Table 5-7). -/
inductive CollOp where
  | reduceScatter | allGather | allReduce | broadcast | multicast
  deriving DecidableEq, Repr

/-- Element formats of collectives (Table 7-10, IFMT and OFMT). -/
inductive ElFmt where
  | g16 | s16 | n32 | f8 | m40 | bytes
  deriving DecidableEq, Repr

/-- What one member has contributed to a collective: its bytes, by offset. -/
structure Contrib where
  node : BitVec 12
  got  : Tbl Byte
  deriving DecidableEq, Repr

/-- A collective in progress (R228 to R238). `contribs` holds what members have contributed of the elements that this member reduces or
takes, `arrivals` the pieces (member, offset, length) in the order of arrival; `results` holds the bytes of the output that have been
reduced, by this member once `summed`, by others as they deliver theirs (R231); `gsq` is the part of GSQ of what this member reduced. For
a gradient collective `grad` names the update descriptor, `reduced` is the whole output, and `lsq` this member's squares; `read` and
`done` are the engines that have read their share of the input and reduced their share of the slice (R226). -/
structure Coll where
  id       : Nat
  job      : BitVec 16
  op       : CollOp
  group    : List (BitVec 12)
  epoch    : BitVec 16
  ifmt     : ElFmt
  ofmt     : ElFmt
  root     : Nat
  stream   : BitVec 16
  n        : Nat
  src      : Nat
  dst      : Nat
  grad     : Option UpdDesc
  step     : BitVec 64
  contribs : List Contrib
  arrivals : List (BitVec 12 × Nat × Nat)
  results  : Tbl Byte
  summed   : Bool
  gsq      : Nat
  verdict  : Bool
  discard  : Bool
  reduced  : List (BitVec 16)
  parkedSegs : Nat
  throughput : Bool
  progress : Nat
  tag      : Option (QueueId × Tag)
  poisoned : Bool
  contributed : Bool
  lsq      : Nat := 0
  read     : List Nat := []
  done     : List Nat := []
  deriving DecidableEq, Repr

/-- An outgoing branch of a multicast stream at this module (R245, R246). -/
structure McBranch where
  port    : Nat
  nodes   : List (BitVec 12)
  credits : Nat
  pos     : Nat
  lagging : Bool
  gone    : Bool
  deriving DecidableEq, Repr

/-- A multicast stream on this module (R244 to R247): `avail` bytes of its `total` have come (at the root all), `head` of them have
gone on to the branches; `replay` holds what lagging branches still want. `joins` tells that the host has rejoined this receiver, so that
the stream begins for it where its first bytes stand (R247). The bytes of a repair multicast (R331) stand in `held`, in the device area, and
those of any other stream at `src` or `dst`. -/
structure McStream where
  stream  : BitVec 16
  job     : BitVec 16
  root    : BitVec 12
  head    : Nat
  cap     : Nat
  replay  : Tbl (Byte × Bool)
  dst     : Nat
  receiving : Bool
  total   : Nat
  src     : Nat
  avail   : Nat
  group   : List (BitVec 12)
  holdFrom : Option Nat
  joins   : Bool
  branches : List McBranch
  tag     : Option (QueueId × Tag)
  held    : Option (Tbl (Byte × Bool)) := none
  deriving DecidableEq, Repr

/-- A pipeline queue record (Table 5-10). -/
structure QueueRec where
  qid     : BitVec 16
  pNode   : BitVec 12
  cNode   : BitVec 12
  pCore   : BitVec 8
  cCore   : BitVec 8
  entry   : Nat
  depth   : Nat
  outDepth : Nat
  pCredit : BitVec 6
  pReady  : BitVec 6
  cFull   : BitVec 6
  cFree   : BitVec 6
  cBase   : Nat
  pBase   : Nat
  rsvZero : Bool
  deriving DecidableEq, Repr

/-- A pipeline queue at run time (R250): queue credits, entries handed to the fabric, and the bytes of the entry arriving. `ready` tells
that the producer engine has taken P_READY for the next entry and waits for a queue credit; `cut` that a frame of the queue was discarded
here (R225), `progress` when the queue last moved. -/
structure PipeQ where
  job     : BitVec 16
  rec_    : QueueRec
  credits : Nat
  peakUsed : Nat
  sent    : Nat
  arrived : Nat
  got     : Nat
  ready   : Bool
  cut     : Bool
  progress : Nat
  lost    : Bool
  deriving DecidableEq, Repr

/-- The fabric of the module: engines, ports, the epoch's groups (R227), peers opened (R239) with the frames
held until they are, frames that came before their collective, epochs abandoned (R241), a RESHARD that waits (R240), lasers
(R200, R201): `loop` tells that the module closes the external source's interlock loop. -/
structure Fabric where
  engines  : Vector Engine 4
  ports    : Vector Port 8
  opened   : List (BitVec 12)
  openLost : List (BitVec 12)
  waitOpen : List (BitVec 12 × BitVec 16 × PortId × Nat)
  heldTo   : List Frame
  early    : List Frame
  abandoned : List (BitVec 16)
  reshard  : Option (QueueId × Tag × List Byte)
  elsPresent : Bool
  elsClosed : Bool
  elsWorks : Bool
  loop     : Bool
  colls    : List Coll
  collNext : Nat
  streams  : List McStream
  removed  : List (BitVec 16)
  queues   : List PipeQ
  deriving DecidableEq, Repr

/-! ## Jobs, steps, serving groups -/

/-- The PARAMS record (Table 7-16). -/
structure Params where
  eInit     : BitVec 8
  eMin      : BitVec 8
  eMax      : BitVec 8
  rule      : BitVec 8
  growth    : BitVec 32
  stallLim  : BitVec 16
  digestInt : BitVec 16
  throughput : BitVec 8
  partials  : BitVec 8
  gateSem   : BitVec 8
  clip      : BitVec 64
  seed      : BitVec 64
  beta1     : BitVec 32
  beta2     : BitVec 32
  tokens    : BitVec 32
  smooth    : BitVec 64
  micro     : BitVec 16
  park      : List (BitVec 32)
  rsvZero   : Bool
  deriving DecidableEq, Repr

/-- The training-state record (Table 3-16). -/
structure TrainState where
  step     : BitVec 64
  t        : BitVec 64
  skipped  : BitVec 64
  clean    : BitVec 32
  consec   : BitVec 16
  lsExp    : BitVec 8
  rule     : BitVec 8
  seed     : BitVec 64
  version  : BitVec 64
  diverged : BitVec 16
  deriving DecidableEq, Repr

/-- A host region of a job or group (R148, R308): declared length and permissions, and the mapping once made. -/
structure Region where
  declLen  : Nat
  declPerm : BitVec 2
  mapped   : Bool
  hbase    : BitVec 64
  len      : Nat
  perm     : BitVec 2
  deriving DecidableEq, Repr

/-- A window of a job's map (R147): a range of device addresses, or of an object. -/
structure Window where
  base : Nat
  len  : Nat
  deriving DecidableEq, Repr

/-- A core's stream (CORE_STREAMS, Table 7-14). -/
structure CoreStream where
  core     : Nat
  startPc  : Nat
  stepLine : Nat
  loadLine : Nat
  dataOff  : Nat
  dataLen  : Nat
  deriving DecidableEq, Repr

/-- A shard of a job (R104), with its digest, that of the update in progress, its DIVERGED mark, and the majority node that repairs it (R141). -/
structure Shard where
  num      : BitVec 16
  die      : MemId
  listAddr : Nat
  descs    : List UpdDesc
  digest   : BitVec 64
  newDigest : BitVec 64
  diverged : Bool
  repair   : Option (BitVec 12)
  finished : Bool
  deriving DecidableEq, Repr

/-- A seal record (Table 5-8), its norms as binary64 codes. -/
structure SealRec where
  step    : BitVec 64
  verdict : Bool
  lsq     : BitVec 64
  gsq     : BitVec 64
  deriving DecidableEq, Repr

/-- Where a step stands (Table 3-3): running its passes, its collectives and seal, its update, or over. -/
inductive Stage where
  | passes | update | exchange
  deriving DecidableEq, Repr

/-- A training step in flight (R108 to R117). `lsExp` is the loss-scale exponent of its backward passes; `gated` tells
that its step gate has been posted (R110), `contributed` that its gradients have left for their collectives; `causeAt` the mesh cycle of its local cause. -/
structure StepRun where
  n        : BitVec 64
  queue    : QueueId
  tag      : Tag
  lr       : BitVec 32
  micro    : BitVec 16
  lsExp    : BitVec 8
  gated    : Bool
  contributed : Bool
  stage    : Stage
  cause    : Option (BitVec 8)
  causeAt  : Nat
  latched  : Bool
  sealAt   : Nat
  final    : Option Bool
  seals    : List (BitVec 12 × SealRec)
  lsq      : BitVec 64
  gsq      : BitVec 64
  poisoned : Bool
  tornDown : Bool
  deriving DecidableEq, Repr

/-- The two slots of a forward copy (R132, R175). -/
structure Slots where
  first  : Nat
  second : Nat
  len    : Nat
  deriving DecidableEq, Repr

/-- A declared stage budget (R196). -/
structure Budget where
  stage : Nat
  die   : Nat
  bytes : Nat
  peak  : Nat
  deriving DecidableEq, Repr

/-- A repair multicast of an open FIX (R141, R331): its shard, its stream, the digest that the shard takes, whether this replica receives
it, and its bytes once the multicast has completed here. -/
structure Repair where
  shard  : BitVec 16
  stream : BitVec 16
  digest : BitVec 64
  take   : Bool
  bytes  : Option (Tbl (Byte × Bool))
  deriving DecidableEq, Repr

/-- A training job (R304 to R309): the objects of its map (R147), the pins that it holds (R166), its training state, the loss-scale exponent of its last
completed step (GRAD_EXP of an export, R143), and its steps in flight. `clearing` tells that the firmware has halted the job's cores
to clear them (R325) and clears each once it has entered FAULT; `fixSent` is the place in its queue of the FIX whose digests have left for
the other replicas (R140, R331), at device time `fixAt`, and `repairs` holds the repairs of that FIX once they have begun. -/
structure Job where
  id       : BitVec 16
  queue    : QueueId
  dies     : BitVec 22
  slot     : Fin 8
  digest   : BitVec 384
  params   : Params
  windows  : List Window
  objects  : List Nat
  pins     : List Nat
  regions  : Tbl Region
  streams  : List CoreStream
  shards   : List Shard
  schedule : List AlmEntry
  toPlace  : List AlmEntry
  copies   : List Slots
  newest   : Bool
  older    : Bool
  replicas : List (BitVec 12)
  groups   : Tbl (List (BitVec 12)) := Tbl.empty
  budgets  : List Budget
  train    : TrainState
  gradExp  : BitVec 8
  fixSent  : Option Nat
  fixAt    : Nat := 0
  repairs  : Option (List Repair) := none
  steps    : List StepRun
  submitted : Bool
  stopped  : Bool
  clearing : Bool
  sBar     : BitVec 64
  tBar     : BitVec 64
  bCrit    : BitVec 64
  soundStep : BitVec 64
  deriving DecidableEq, Repr

/-- A SERVING image held in the device area (R309). -/
structure Image where
  id     : BitVec 16
  dies   : Nat
  digest : BitVec 384
  bytes  : List Byte
  deriving DecidableEq, Repr

/-- An operation of a serving request (Table 6-9). -/
structure ServeOp where
  skim    : Bool
  dlOff   : BitVec 32
  arg     : BitVec 48
  started : Bool
  overdue : Bool
  startedAt : BitVec 64
  stallAt : List Nat
  deriving DecidableEq, Repr

/-- A serving request (R274, R275). -/
structure Request where
  queue   : QueueId
  tag     : Tag
  seq     : BitVec 64
  accept  : BitVec 64
  ops     : List ServeOp
  cur     : Nat
  running : Bool
  query   : Option Nat
  reports : Nat
  failed  : Option (BitVec 8 × BitVec 16)
  deriving DecidableEq, Repr

/-- A serving group (R270, R309); `clearing` as in `Job` (R276, R323). -/
structure Group where
  id      : BitVec 8
  queue   : QueueId
  image   : BitVec 16
  dies    : BitVec 22
  slot    : Fin 8
  windows : List Window
  objects : List Nat
  pins    : List Nat
  regions : Tbl Region
  streams : List (List (Nat × Nat))
  requests : List Request
  completed : Cnt64
  schedule : List AlmEntry
  toPlace  : List AlmEntry
  clearing : Bool
  deriving DecidableEq, Repr

/-- A result candidate of a query (R261): score code, vector identifier, segment index, position. -/
structure Cand where
  score : BitVec 32
  vid   : BitVec 64
  seg   : Nat
  pos   : Nat
  deriving DecidableEq, Repr

/-- A segment record (Table 6-2). -/
structure Segment where
  src    : Nat
  offset : Nat
  scl    : Nat
  isObj  : Bool
  count  : Nat
  idBase : BitVec 64
  rsvZero : Bool
  deriving DecidableEq, Repr

/-- A query descriptor (Table 6-3). -/
structure QueryDesc where
  job     : BitVec 16
  metric  : BitVec 2
  s16     : Bool
  prio    : Bool
  nq      : Nat
  dim     : Nat
  k       : Nat
  kmax    : Nat
  home    : Fin 4
  nseg    : Nat
  qaddr   : Nat
  qsaddr  : Nat
  seglist : Nat
  result  : Nat
  deadline : BitVec 64
  seq     : BitVec 64
  pcore   : BitVec 8
  psem    : BitVec 6
  rsvZero : Bool
  deriving DecidableEq, Repr

/-- What a Skimmer reports of its share, for one query vector (Table 6-5), with the anchor its scores were made at (R259). -/
structure ShareRes where
  cands   : List Cand
  scanned : Nat
  dropped : Nat
  nanVecs : Nat
  overVecs : Nat
  poisonVecs : Nat
  anchor : Int
  deriving DecidableEq, Repr

/-- A query in progress (R257 to R266). -/
structure Query where
  id      : Nat
  d       : QueryDesc
  segs    : List Segment
  refs    : List (BitVec 32)
  todo    : List Nat
  shares  : List (List ShareRes)
  tag     : Option (QueueId × Tag)
  group   : Option (BitVec 8)
  deriving DecidableEq, Repr

/-! ## The host's side -/

/-- A completion record before it is written (Table 7-6), with the command's place since the queue was enabled and whether it
is a FENCE's, or the job of a FIX. `held` tells that it has found no room once (Q_HOLD_CNT). -/
structure Record where
  n      : Nat
  fence  : Bool
  cid    : BitVec 16
  status : BitVec 8
  detail : BitVec 16
  tag    : Tag
  r0     : BitVec 32
  r1     : BitVec 64
  time   : BitVec 64
  irq    : Bool
  held   : Bool
  fix    : Option (BitVec 16) := none
  deriving DecidableEq, Repr

/-- A command in flight (R290, R311): its place since the queue was enabled, its tag, its descriptor bytes, whether it has
started, and the status and detail of a command that its checks refused or that R300 stopped, until its turn comes. -/
structure Flight where
  n       : Nat
  tag     : Tag
  desc    : List Byte
  started : Bool
  refused : Option (BitVec 8 × BitVec 16)
  holds   : List Nat := []
  taken   : BitVec 64 := 0
  deriving DecidableEq, Repr

/-- A queue pair (Table 7-4) and the firmware's record of it (R285 to R292): `ended` holds the statuses of commands
completed since the last enable, by place; `draining` tells that ENABLE = 0 has been written since, so that nothing more is fetched
(R286). -/
structure HostQ where
  sqBase   : BitVec 52
  cqBase   : BitVec 52
  imodTime : BitVec 16
  imodCount : BitVec 8
  vector   : BitVec 6
  cqLog2   : BitVec 4
  sqLog2   : BitVec 4
  enable   : Bool
  err      : Bool
  error    : BitVec 4
  phase    : Bool
  cqTail   : BitVec 8
  enabled  : Bool
  draining : Bool
  holdCnt  : Cnt32
  errCnt   : Cnt32
  igndbCnt : Cnt32
  tail     : Nat
  fetchPos : Nat
  head     : Nat
  fetched  : Nat
  flights  : List Flight
  ended    : Tbl (BitVec 8)
  waiting  : List Record
  unsig    : Nat
  unsigAt  : Nat
  fenceFails : Nat
  deriving DecidableEq, Repr

/-- DEV_STATE.STATE (Table 7-3). -/
inductive DevMode where
  | booting | ready | halted | fatal | resetting
  deriving DecidableEq, Repr

/-- The BAR0 device registers of Table 7-3, MSI-X with the Enable and Function Mask bits of its capability, and the PCIe function
(Table 7-1, R289, R368). -/
structure Bar where
  mode      : DevMode
  bootStep  : BitVec 4
  degraded  : Bool
  sec       : BitVec 2
  fatalCode : BitVec 16
  fw        : BitVec 32
  icEvent   : Bool
  icQerr    : Bool
  icFatal   : Bool
  icState   : Bool
  intEnable : BitVec 4
  stateCnt  : Cnt32
  fatalCnt  : Cnt32
  qerrCnt   : Cnt32
  eventCnt  : Cnt32
  msix      : Tbl (BitVec 32)
  msixPend  : BitVec 64
  msixOn    : Bool
  msixAll   : Bool
  msixWait  : List (BitVec 6)
  linkUp    : Bool
  linkWidth : BitVec 8
  linkRate  : BitVec 8
  cfgServed : Bool
  d3        : Bool
  cfg       : Tbl (BitVec 32)
  deriving DecidableEq, Repr

/-! ## Interrupts, events -/

/-- A source of the interrupt controller (Table 12-3). `pulse` is a pulse not yet sampled; `line` the last sample. -/
structure IcSrc where
  nomod   : Bool
  targets : BitVec 4
  prio    : BitVec 4
  sense   : BitVec 2
  line    : Bool
  insvc   : Option PilotId
  latched : Bool
  enable  : Bool
  pulse   : Nat
  deriving DecidableEq, Repr

/-- A pilot's side of the interrupt controller (Table 12-3). -/
structure IcPilot where
  all     : Bool
  thresh  : BitVec 4
  interval : BitVec 16
  asleep  : Bool
  spurCnt : Cnt32
  wakeCnt : Cnt32
  modHold : Cnt64
  modLeft : Nat
  halted  : Bool
  deriving DecidableEq, Repr

/-- The interrupt controller (Table 12-2), the device-time comparators (R410), and the reads of IC_CLAIM of the present control cycle (R413). -/
structure Ic where
  srcs   : Vector IcSrc 512
  pilots : Vector IcPilot 4
  mergeCnt : Cnt32
  comparators : Tbl (BitVec 64)
  claims : List PilotId
  deriving DecidableEq, Repr

/-- An event record (Table 12-5) with its 32-byte payload. -/
structure Event where
  seq     : BitVec 64
  time    : BitVec 64
  code    : BitVec 16
  cls     : BitVec 8
  idx     : BitVec 8
  host    : Bool
  retained : Bool
  pilot   : BitVec 8
  job     : BitVec 16
  payload : List Byte
  deriving DecidableEq, Repr

/-- The event log (R420, R421). `queued` counts the records of the input queue that the log has not moved out of it. -/
structure EventLog where
  retained : List Event
  ring     : List Event
  nextSeq  : BitVec 64
  overflow : Cnt32
  drops    : Cnt32
  queued   : Nat
  overwrote : Bool
  deriving DecidableEq, Repr

/-! ## Secrecy -/

/-- An SPDM session (R351). -/
structure SpdmSession where
  ch          : SpdmChan
  reqId       : BitVec 16
  established : Bool
  keyUpdates  : Nat
  deriving DecidableEq, Repr

/-- Security states (R339). -/
inductive SecMode where
  | unowned | owned | debug
  deriving DecidableEq, Repr

/-- An IDE stream (R353): its keys programmed, whether it is Secure, and whether it was Secure and has left that state (R354). -/
structure IdeStream where
  keyed  : Bool
  secure : Bool
  left   : Bool
  deriving DecidableEq, Repr

/-- A signed block that has reached the binnacle and is not done with (R345): the OWNERSHIP command that carries it, by queue and place,
or none for OWNER_BLOCK; and its bytes. -/
structure OwnerChange where
  cmd   : Option (QueueId × Nat)
  block : List Byte
  deriving DecidableEq, Repr

/-- The ownership record, the fuses, the keys by generation, measurements, SPDM and IDE (R339 to R363). A key is held as the
number of its generation, but for those that the key hierarchy makes from others (Table 9-5): CDI_0 and CDI_1, of which the alias key is
made. `aliasCert` is the certificate that the security engine issued last, `slotCert` the one in SPDM slot 0 (R347). `keyNext` counts the
generations of flash keys. `changes` are the signed blocks waiting their turn, in the order in which they came (R345). -/
structure Security where
  mode      : SecMode
  primaryOk : Bool
  secondaryOk : Bool
  ownerKey  : List Byte
  policy    : Policy
  ownerSeq  : BitVec 64
  scope     : BitVec 64
  epochFuses : Nat
  rollFuses : Nat
  fwSvn     : BitVec 32
  slots     : Vector FwImage 2
  activeSlot : Bool
  flashKeyGen : Nat
  heldFlashKey : Option Nat
  keyNext   : Nat
  metaKeyGen : Nat
  cdi0      : Option (List Byte)
  cdi1      : Option (List Byte)
  aliasCert : List Byte
  slotCert  : List Byte
  vendorHashes : Vector (BitVec 384) 4
  revoked   : BitVec 4
  fwRevokes : BitVec 4
  nonce     : BitVec 384
  nonceNext : Nat
  meas      : Tbl (List Byte)
  sessions  : List SpdmSession
  versionSet : Vector Bool 2
  algsSet   : Vector Bool 2
  linkIde   : IdeStream
  selIde    : IdeStream
  escrow    : Option (List Byte)
  recordBad : Bool
  changes   : List OwnerChange
  ownerHold : Bool
  jtagOpen  : Bool
  bypass    : Bool
  deriving DecidableEq, Repr

/-! ## Start-up, power -/

/-- CONSEC and FLOOR of a step and unit (R370, R372). -/
structure Ladder where
  consec : BitVec 8
  floor  : BitVec 8
  deriving DecidableEq, Repr

/-- A Logbook record (Table 10-3). -/
structure LogRec where
  seq       : BitVec 64
  start     : BitVec 32
  kind      : BitVec 8
  step      : BitVec 8
  unit      : UnitId
  rung      : BitVec 8
  result    : BitVec 8
  consec    : BitVec 8
  floor     : BitVec 8
  cause     : BitVec 16
  resetType : BitVec 8
  elapsed   : BitVec 32
  detail    : BitVec 128
  deriving DecidableEq, Repr

/-- Start-up (R367 to R383): the step running, the units still to pass it, the ladders, the Logbook's two copies, the
records (by SEQ) whose CRC fails in each, and whether one cannot be read at all (R383). -/
structure Startup where
  step      : BitVec 4
  todo      : List UnitId
  ladders   : Tbl Ladder
  leftOut   : List (UnitId × BitVec 8 × BitVec 16)
  waitPerst : Bool
  starts    : BitVec 32
  resetType : BitVec 8
  began     : Nat
  watchHalf : Bool
  latchedOut : List LogRec
  logA      : List LogRec
  logB      : List LogRec
  badA      : List (BitVec 64)
  badB      : List (BitVec 64)
  deadA     : Bool
  deadB     : Bool
  logSeq    : BitVec 64
  training  : Tbl (BitVec 64)
  skipped10 : Bool
  deriving DecidableEq, Repr

/-- The input, the rails and the pins (R427 to R453). `alertEdges` are the changes of PWR_ALERT_N that no firmware has recorded yet (R404). -/
structure Power where
  p40v      : Bool
  hotSwapOff : Bool
  standby   : Bool
  rails     : Bool
  dimmRail  : Bool
  flashRail : Bool
  failing   : Bool
  wpN       : Bool
  perst     : Bool
  tripped   : Bool
  pinAlert  : Bool
  underAlert : Bool
  alertWait : Option Nat
  returning : Option Nat
  alertEdges : List Bool
  sideband  : Option Bool
  sideAddr  : Option (BitVec 7)
  deriving DecidableEq, Repr

/-- Why a phase is below its heading (R399). -/
structure Shortfall where
  active   : Bool
  below    : Bool
  cause    : BitVec 8
  belowMin : Bool
  point    : BitVec 4
  windows  : Cnt32
  deriving DecidableEq, Repr

/-- Helm (R392 to R408): the heading table in force and the one that the next decision takes up, the sums of this window's samples and of the last complete window with their counts
(R396), the sums of the running 10 µs sample and the latest 1,024 of them (R408), its budget in milliwatts, its counters, the
temperatures as the latest check read them and as telemetry samples them once a second (R365), and the thermal actions in force by
4 * part + level (R405). -/
structure Helm where
  point     : Vector (BitVec 4) 8
  minPt     : Vector (BitVec 4) 8
  table     : Option (Vector (BitVec 4) 8 × Vector (BitVec 4) 8)
  sum       : PowerReading
  count     : Nat
  last      : PowerReading
  lastCount : Nat
  windowAt  : Nat
  fineCount : Nat
  finePack  : Nat
  fineInput : Nat
  fine      : List (BitVec 64)
  limitMod  : Bool
  budget    : Frac
  shortfall : Vector Shortfall 8
  droopCnt  : Cnt32
  alertCnt  : Cnt32
  thermCnt  : Cnt32
  limitedCnt : Cnt32
  temps     : Temperatures
  tempsSec  : Temperatures
  tempsAt   : Option Nat
  thermal   : Tbl Bool
  deriving DecidableEq, Repr

/-- Telemetry sampling (R425, R426): samples lost, the end of the last window sampled, the 64-bit busy sums by core and the
CORE_BUSY they hold, deadline reports by 4 * group + kind (R278), and the entries of pages 0x02 to 0x06 as the last sample took
them (0x12: page 0x02 by core). -/
structure Telemetry where
  lost     : Cnt32
  sampleAt : Nat
  busySums : Tbl Cnt64
  busyLast : Tbl (BitVec 48)
  kinds    : Tbl Cnt64
  pages    : Tbl (List (List Byte))
  deriving DecidableEq, Repr

/-- What the part puts on its edges, in order. The model's own record, for statements about what leaves the part. -/
inductive Out where
  | value (v : BitVec 64)
  | msix (vector : BitVec 6)
  | record (q : QueueId) (slot : Nat) (r : Record) (phase : Bool)
  | poisonTlp (addr : Nat)
  | frame (p : PortId) (f : Frame) (wire : List Byte)
  | spdm (ch : SpdmChan) (code : BitVec 8) (body : List Byte)
  | mctp (code : BitVec 8) (body : List Byte)
  | config (served : Bool) (value : BitVec 32)
  | doe (vendor : BitVec 16) (type : BitVec 8) (next : BitVec 8)
  | jtag (v : BitVec 64)
  | bench (body : List Byte)
  | claim (p : PilotId) (source : BitVec 10)
  | sideId (id : BitVec 128)
  | pin (name : String) (level : Bool)
  deriving DecidableEq, Repr

/-- The state of the part. `pending` is the queue of waiting commands, first in, first out. -/
structure State where
  pending  : List Instr
  ticks    : Nat
  devTime  : Nat
  free     : Nat
  out      : List Out
  cores    : Vector Core 176
  posts    : List RemotePost
  dies     : Vector ComputeDie 22
  spus     : Vector Spu 4
  seps     : Vector Sep 4
  mems     : Vector MemDie 4
  flashes  : Vector FlashDie 4
  skms     : Vector Skimmer 8
  dram     : Mem
  host     : Mem
  objs     : Tbl Obj
  evicts   : List Evict
  alm      : Almanac
  fab      : Fabric
  jobs     : List Job
  images   : List Image
  groups   : List Group
  queries  : List Query
  queryNext : Nat
  queues   : Vector HostQ 8
  visit    : QueueId × Nat
  bar      : Bar
  ic       : Ic
  log      : EventLog
  sec      : Security
  boot     : Startup
  power    : Power
  helm     : Helm
  tlm      : Telemetry
  fresh    : List (Nat × Nat)
  deriving DecidableEq, Repr

/-- Why the machine stops with a fault. -/
inductive Fault where
  /-- The input voltage is raised above the operating range of Table 13-2 and stays within the absolute limits of Table 13-3:
  the spec says that operation there is not specified (R433). Raised by P40V_APPLIED only. Safe: the model stops. -/
  | outsideOperatingConditions
  deriving DecidableEq, Repr

/-- Why a command has no meaning. -/
inductive Refusal where
  /-- The command has no meaning in this model yet. Raised by the arms of `exec` that name it. Safe: the model stops. -/
  | notModelled (mnemonic : String)
  deriving DecidableEq, Repr

/-! ## Reset -/

/-- A vector built from a function of the index. -/
def tabulate (n : Nat) (f : Nat → α) : Vector α n :=
  Vector.mk ((List.range n).map f).toArray (by simp)

/-- A memory in which nothing is listed. -/
def Mem.empty : Mem := { bytes := Tbl.empty, poison := Tbl.empty }

/-- Reset values of Tables 1-19 to 1-22 and 4-13; CORE_STAG.GROUP resets to the core's index on its die (R42). -/
def CoreRegs.reset (c : Nat) : CoreRegs :=
  { mode := .idle, startPc := 0, pc := 0, phase := 0, done := false, faulted := false, wrapped := false, faultCause := 0,
    faultPc := 0, stag := BitVec.ofNat 3 (c % 8), wdog := 0x20, busy := 0, replays := 0, doneCnt := 0, faultCnt := 0,
    wrapCnt := 0, eccCorr := 0, sems := Tbl.empty, stall := Tbl.empty, classes := Tbl.empty }

/-- A bank that no LDS has filled. -/
def Bank.none : Bank := { seq := 0, fmt := .f8, valid := false, vals := Tbl.empty }

/-- Every queue empty, no operation fetched. -/
def CorePipe.reset : CorePipe :=
  { fetch := [], fetchPc := 0, issued := 0, held := none, faulting := none, faultNow := false, loadQ := [],
    anchQ := none, arrayQ := [], drainQ := [], quantQ := [], moveQ := [], unretired := [], lastLds := Tbl.empty, anchSince := false,
    loadBuf := Tbl.empty, anchBuf := Tbl.empty, quantBuf := Tbl.empty, quantOut := none }

/-- Banks invalid, no tile, activity level 0. -/
def CoreArray.reset : CoreArray :=
  { banks := Tbl.empty, acc := Tbl.empty, shadow := none, pend := none, tiles := [], tileNext := 0, tileSeq := 0,
    flying := [], replay := none, level := 0, credit := 0, idleFor := 0, cycle4 := 0 }

/-- A core after a reset of its die; its scratchpad is zero-filled at start-up step 5 (R14). -/
def Core.reset (c : Nat) : Core :=
  { regs := CoreRegs.reset c, pipe := CorePipe.reset, arr := CoreArray.reset, scratch := Mem.empty, was := none }

/-- Reset values of Tables 2-12 and 2-13. -/
def Sextant.reset : Sextant :=
  { nExp := 0xC, valLog := false, logEn := true, en := true, thresh := 0xA, seed := 0, mismatch := false, sampled := 0,
    skipped := 0, mismatchCnt := 0, lastSeq := 0, errExp := 0, posCore := 0, posPhase := 0, posRow := 0, posCol := 0,
    probe := none }

/-- A compute die at power-on: point 0, its own loop, L_max 8 (R395), learned powers as the fuses hold them (R397). -/
def ComputeDie.reset : ComputeDie :=
  { inService := true, point := 0, change := none, pendingPt := none, fabricClk := false, chosen := 0, target := 0, phaseAt := 0,
    lmaxHelm := 8, phaseMoved := false, burstShare := Frac.zero, burstSeen := false, lmaxBurst := false, throttlePt := none, critical := false,
    droopOn := false, droopClear := 0, learned := Tbl.empty, onePhase := none, runCycles := Tbl.empty,
    realSteps := Tbl.empty, lastRun := Tbl.empty, lastReal := Tbl.empty, clkAcc := 0, sxt := Sextant.reset }

/-- Reset values of Table 2-17. -/
def Spu.reset : Spu :=
  { en := true, poison := false, reject := false, done := false, queue := [], running := none, lastCode := 0, lastAddr := 0,
    blocks := 0, doneCnt := 0, rejectCnt := 0, poisonCnt := 0 }

/-- Reset values of Tables 3-11 to 3-13. -/
def Sep.reset : Sep :=
  { mode := .idle, done := false, poison := false, nonfinite := false, list := 0, listLen := 0, step := 0, t := 0, seed := 0,
    unscale := 0, gscale := 0x3F800000, lr := 0, beta1 := 0, beta2 := 0, bc1 := 0x3F800000, bc2 := 0x3F800000,
    bc2p := 0x3F800000, digest := 0, params := 0, parkStall := 0, parkPeak := 0, doneCnt := 0, poisonCnt := 0,
    nonfinCnt := 0, descIndex := 0, segIndex := 0, abortReq := false, cur := none, fact := none, parked := [],
    parkWait := false, staged := [], stagingCredits := 0 }

/-- Reset values of Table 4-15; the population is the board's (R149). -/
def MemDie.reset : MemDie :=
  { overdue := false, ue := false, rate := 0, inService := 0, ueAddr := 0, scrubPos := 0, scrubStart := 0, ueCnt := 0,
    ovdCnt := 0, overdueHrs := 0, cacheHit := 0, cacheMiss := 0, cacheWb := 0, ceCnt := Tbl.empty, cache := Tbl.empty,
    keyGen := 0, dimmGB := Config.dimmGB, populated := if Config.sixteen then 0xF else 0x3, area := [], copies := [],
    limited := false }

/-- Reset values of Table 6-8. -/
def Skimmer.reset : Skimmer :=
  { en := true, poison := false, done := false, mode := .idle, queue := [], waiting := [], running := none, qdata := [],
    qscl := [], bytes := 0, vecs := 0, doneCnt := 0, poisonCnt := 0 }

/-- Reset values of Table 4-7. -/
def FlashDie.reset : FlashDie :=
  { inService := true, poison := false, channels := 0xFF, floor := 0x5, low := 0x1E, freeBlocks := 0,
    blocks := 0, wearMax := 0, wearUsed := 0, rebuildCnt := 0, poisonCnt := 0, refreshCnt := 0, wstall := 0,
    secondary := false, limited := false, waiting := false, tabA := Tbl.empty, tabB := Tbl.empty, taken := 0, openStripe := none,
    reads := Tbl.empty }

/-- An empty job slot (Table 4-11). -/
def AlmSlot.reset : AlmSlot :=
  { valid := false, job := 0, step := 0, clk := 0, pvalid := false, pstep := 0, pclk := 0 }

/-- Reset values of Table 4-11. -/
def Almanac.reset : Almanac :=
  { en := false, poison := false, tlate := false, late := false, cancelJob := 0, cancelling := false, guard := 0x578,
    latFlash := 0x7B0C, latHost := 0xAF0, latDram := 0xD2, rateScratch := 0x20, rateHost := 0xAC, rateFlash := 0x8F,
    rateDram := 0x192, peak := 0, launched := 0, lateCnt := 0, tlateCnt := 0, poisonCnt := 0, cancelCnt := 0, discard := 0,
    slots := Vector.replicate 8 AlmSlot.reset, table := [], nextId := 0 }

/-- The policy of an Unowned module (R357). -/
def Policy.default : Policy :=
  { signedImages := false, requireIde := false, valLogAllow := false, debugPeers := false, anyOwner := false,
    integrity := false, minPeerSvn := 0, peerOwner := 0 }

/-- No handshake has begun. -/
def Shake.reset : Shake := { nonce := 0, eph := none, keys := none, sent := [], got := [], frames := 0, policy := Policy.default }

/-- Reset values of Table 5-12 for a port. -/
def Port.reset : Port :=
  { mode := .off, peer := 0, cause := 0, keyphase := false, extSrc := false, prot := false, lanes := 0, width := 0,
    fecCorr := 0, fecUnc := 0, retryCnt := 0, authCnt := 0, linkdnCnt := 0, txFrames := 0, rxFrames := 0, trainFails := 0,
    wasExt := false, bank := false, handshake := 0, rehandshake := false, peerNonce := 0, shake := Shake.reset, since := 0, session := none, txFrno := 0,
    txUnseq := 0, rxFrno := 0, rxUnseq := 0, acked := 0, sinceAck := 0, gap := false, gapSince := 0, noProgress := 0, progressAt := 0,
    retry := [], waitTx := [], credits := Tbl.empty, owed := Tbl.empty, slot := 0,
    lowSlots := 0, authTimes := [] }

/-- Reset values of Table 5-12 for an engine. -/
def Engine.reset : Engine :=
  { elsAllow := true, en := false, timeout := false, unroute := false, laggard := false, stale := false,
    auth := Vector.replicate 2 false, linkdn := Vector.replicate 2 false, node := 0, dim := 0x1111, epoch := 0,
    ackFrames := 0x40, limit := 0x8, timeoutUs := 0x14, mcHold := 0x7D0, collTimeout := 0x64, staleCnt := 0, lagCnt := 0,
    unrouteCnt := 0, timeoutCnt := 0, thermal := 0, tuned := 0 }

/-- No link, no group, no external laser source. -/
def Fabric.reset : Fabric :=
  { engines := Vector.replicate 4 Engine.reset, ports := Vector.replicate 8 Port.reset, opened := [], openLost := [],
    waitOpen := [], heldTo := [], early := [], abandoned := [], reshard := none, elsPresent := false, elsClosed := false, elsWorks := false, loop := false, colls := [], collNext := 0,
    streams := [], removed := [], queues := [] }

/-- Reset values of Table 7-4; the vector of queue q resets to q + 1. -/
def HostQ.reset (q : Nat) : HostQ :=
  { sqBase := 0, cqBase := 0, imodTime := 0, imodCount := 1, vector := BitVec.ofNat 6 (q + 1), cqLog2 := 0, sqLog2 := 0,
    enable := false, err := false, error := 0, phase := true, cqTail := 0, enabled := false, draining := false, holdCnt := 0, errCnt := 0,
    igndbCnt := 0, tail := 0, fetchPos := 0, head := 0, fetched := 0, flights := [], ended := Tbl.empty, waiting := [],
    unsig := 0, unsigAt := 0, fenceFails := 0 }

/-- Reset values of Table 7-3; MSI-X vectors reset masked, as the PCIe specification gives them. -/
def Bar.reset : Bar :=
  { mode := .booting, bootStep := 0, degraded := false, sec := 0, fatalCode := 0, fw := 0, icEvent := false, icQerr := false,
    icFatal := false, icState := false, intEnable := 0, stateCnt := 0, fatalCnt := 0, qerrCnt := 0, eventCnt := 0,
    msix := Tbl.empty, msixPend := 0, msixOn := false, msixAll := false, msixWait := [], linkUp := false, linkWidth := 0, linkRate := 0, cfgServed := false, d3 := false,
    cfg := Tbl.empty }

/-- Reset values of Table 12-3 for a source. -/
def IcSrc.reset : IcSrc :=
  { nomod := false, targets := 0, prio := 0, sense := 0, line := false, insvc := none, latched := false, enable := false,
    pulse := 0 }

/-- Reset values of Table 12-3 for a pilot. -/
def IcPilot.reset : IcPilot :=
  { all := true, thresh := 0, interval := 0, asleep := false, spurCnt := 0, wakeCnt := 0, modHold := 0, modLeft := 0,
    halted := false }

/-- The interrupt controller after a reset. -/
def Ic.reset : Ic :=
  { srcs := tabulate 512 fun _ => IcSrc.reset, pilots := Vector.replicate 4 IcPilot.reset, mergeCnt := 0,
    comparators := Tbl.empty, claims := [] }

/-- An empty log; SEQ starts at 1 at power-on (R420). -/
def EventLog.reset : EventLog :=
  { retained := [], ring := [], nextSeq := 1, overflow := 0, drops := 0, queued := 0, overwrote := false }

/-- A stream that was never Secure. -/
def IdeStream.reset : IdeStream := { keyed := false, secure := false, left := false }

/-- The module as manufactured: Unowned, no fuse burned, a vendor image in both firmware slots (R339, R349, Table 13-8). -/
def Security.reset : Security :=
  { mode := .unowned, primaryOk := true, secondaryOk := true, ownerKey := [], policy := Policy.default, ownerSeq := 0,
    scope := 0, epochFuses := 0, rollFuses := 0, fwSvn := 0,
    slots := Vector.replicate 2 { signer := some 0, revokes := 0, svn := Config.factorySvn, fw := Config.factoryFw, digest := Config.factoryDigest },
    activeSlot := false, flashKeyGen := 0, heldFlashKey := none, keyNext := 1, metaKeyGen := 0, cdi0 := none, cdi1 := none,
    aliasCert := [], slotCert := [], vendorHashes := tabulate 4 fun k => Config.sha384 (Config.vendorKey k), revoked := 0, fwRevokes := 0, nonce := 0, nonceNext := 0, meas := Tbl.empty, sessions := [],
    versionSet := Vector.replicate 2 false, algsSet := Vector.replicate 2 false,
    linkIde := IdeStream.reset, selIde := IdeStream.reset, escrow := none,
    recordBad := false, changes := [], ownerHold := false, jtagOpen := false, bypass := false }

/-- No start yet: the Logbook is empty, every count and floor is 0. -/
def Startup.reset : Startup :=
  { step := 0, todo := [], ladders := Tbl.empty, leftOut := [], waitPerst := false, starts := 0, resetType := 0, began := 0,
    watchHalf := false, latchedOut := [], logA := [], logB := [], badA := [], badB := [], deadA := false, deadB := false,
    logSeq := 0, training := Tbl.empty,
    skipped10 := false }

/-- The module without its input (Table 13-10, Unpowered): every rail off, WP_N asserted, the platform holding PERST_N. -/
def Power.reset : Power :=
  { p40v := false, hotSwapOff := false, standby := false, rails := false, dimmRail := false, flashRail := false,
    failing := false, wpN := true, perst := true, tripped := false, pinAlert := false, underAlert := false, alertWait := none,
    returning := none, alertEdges := [], sideband := none, sideAddr := none }

/-- No shortfall. -/
def Shortfall.reset : Shortfall :=
  { active := false, below := false, cause := 0, belowMin := false, point := 0, windows := 0 }

/-- No reading. -/
def PowerReading.zero : PowerReading := { input := 0, dimm := 0, flash := 0, other := 0, compute := [] }

/-- The default heading table (Table 11-3) and empty counters. -/
def Helm.reset : Helm :=
  { point := #v[0, 15, 15, 15, 0, 0, 10, 15], minPt := Vector.replicate 8 0, table := none, sum := PowerReading.zero, count := 0,
    last := PowerReading.zero, lastCount := 0, windowAt := 0, fineCount := 0, finePack := 0, fineInput := 0, fine := [],
    limitMod := false, budget := Frac.zero, shortfall := Vector.replicate 8 Shortfall.reset, droopCnt := 0, alertCnt := 0,
    thermCnt := 0, limitedCnt := 0, temps := { dies := [], dimms := [], flash := [] },
    tempsSec := { dies := [], dimms := [], flash := [] }, tempsAt := none, thermal := Tbl.empty }

/-- No sample yet. -/
def Telemetry.reset : Telemetry :=
  { lost := 0, sampleAt := 0, busySums := Tbl.empty, busyLast := Tbl.empty, kinds := Tbl.empty, pages := Tbl.empty }

/-- The machine right after reset: as manufactured and without its input, every register at its reset value, every memory
with nothing listed, no command waiting. The first thing that happens to it is P40V_APPLIED (R434). -/
def State.reset : State :=
  { pending := [], ticks := 0, devTime := 0, free := 0, out := [], cores := tabulate 176 Core.reset, posts := [],
    dies := Vector.replicate 22 ComputeDie.reset, spus := Vector.replicate 4 Spu.reset, seps := Vector.replicate 4 Sep.reset,
    mems := Vector.replicate 4 MemDie.reset, flashes := Vector.replicate 4 FlashDie.reset,
    skms := Vector.replicate 8 Skimmer.reset, dram := Mem.empty, host := Mem.empty, objs := Tbl.empty, evicts := [],
    alm := Almanac.reset,
    fab := Fabric.reset, jobs := [], images := [], groups := [], queries := [], queryNext := 0,
    queues := tabulate 8 HostQ.reset, visit := (0, 0), bar := Bar.reset, ic := Ic.reset, log := EventLog.reset, sec := Security.reset,
    boot := Startup.reset, power := Power.reset, helm := Helm.reset, tlm := Telemetry.reset, fresh := [] }

end Sys2Proof.Machine
end

