-- ==== Sys2Proof/Machine/Ops.lean ====
section
/-!
DEFINITION. The named operations over the state: one accessor and one update per unit, device time, free values, interrupt
pulses, the event log, INT_CAUSE and MSI-X, and every read and write of scratchpad, DRAM and host memory.
-/
namespace Sys2Proof.Machine

/-! ## Vectors of units -/

/-- Element `i`, or `d` where there is none. -/
def vget (d : α) (v : Vector α n) (i : Nat) : α := v[i]?.getD d

/-- Change element `i`, if there is one. -/
def vmod (v : Vector α n) (i : Nat) (f : α → α) : Vector α n := if h : i < n then v.set i (f v[i]) else v

namespace State

/-- Core `c`. -/
def core (s : State) (c : Nat) : Core := vget (Core.reset c) s.cores c
/-- Change core `c`. -/
def modCore (s : State) (c : Nat) (f : Core → Core) : State := { s with cores := vmod s.cores c f }
/-- Compute die `d`. -/
def die (s : State) (d : Nat) : ComputeDie := vget ComputeDie.reset s.dies d
/-- Change compute die `d`. -/
def modDie (s : State) (d : Nat) (f : ComputeDie → ComputeDie) : State := { s with dies := vmod s.dies d f }
/-- The scale-pass unit of memory die `m`. -/
def spu (s : State) (m : Nat) : Spu := vget Spu.reset s.spus m
/-- Change a scale-pass unit. -/
def modSpu (s : State) (m : Nat) (f : Spu → Spu) : State := { s with spus := vmod s.spus m f }
/-- The Separator of memory die `m`. -/
def sep (s : State) (m : Nat) : Sep := vget Sep.reset s.seps m
/-- Change a Separator. -/
def modSep (s : State) (m : Nat) (f : Sep → Sep) : State := { s with seps := vmod s.seps m f }
/-- The controls of memory die `m`. -/
def memDie (s : State) (m : Nat) : MemDie := vget MemDie.reset s.mems m
/-- Change a memory die. -/
def modMem (s : State) (m : Nat) (f : MemDie → MemDie) : State := { s with mems := vmod s.mems m f }
/-- Flash die `f`. -/
def flash (s : State) (i : Nat) : FlashDie := vget FlashDie.reset s.flashes i
/-- Change a flash die. -/
def modFlash (s : State) (i : Nat) (f : FlashDie → FlashDie) : State := { s with flashes := vmod s.flashes i f }
/-- Skimmer `k`: 0 to 3 of the memory dies, 4 to 7 of the flash dies. -/
def skm (s : State) (k : Nat) : Skimmer := vget Skimmer.reset s.skms k
/-- Change a Skimmer. -/
def modSkm (s : State) (k : Nat) (f : Skimmer → Skimmer) : State := { s with skms := vmod s.skms k f }
/-- Queue pair `q`. -/
def queue (s : State) (q : Nat) : HostQ := vget (HostQ.reset q) s.queues q
/-- Change a queue pair. -/
def modQueue (s : State) (q : Nat) (f : HostQ → HostQ) : State := { s with queues := vmod s.queues q f }
/-- Meridian port `p`. -/
def port (s : State) (p : Nat) : Port := vget Port.reset s.fab.ports p
/-- Change a port. -/
def modPort (s : State) (p : Nat) (f : Port → Port) : State := { s with fab := { s.fab with ports := vmod s.fab.ports p f } }
/-- Optical engine `e`. -/
def engine (s : State) (e : Nat) : Engine := vget Engine.reset s.fab.engines e
/-- Change an engine. -/
def modEngine (s : State) (e : Nat) (f : Engine → Engine) : State :=
  { s with fab := { s.fab with engines := vmod s.fab.engines e f } }
/-- Change the fabric. -/
def modFab (s : State) (f : Fabric → Fabric) : State := { s with fab := f s.fab }
/-- Source `n` of the interrupt controller. -/
def src (s : State) (n : Nat) : IcSrc := vget IcSrc.reset s.ic.srcs n
/-- Change a source. -/
def modSrc (s : State) (n : Nat) (f : IcSrc → IcSrc) : State := { s with ic := { s.ic with srcs := vmod s.ic.srcs n f } }
/-- Pilot `p`'s side of the controller. -/
def pilot (s : State) (p : Nat) : IcPilot := vget IcPilot.reset s.ic.pilots p
/-- Change a pilot's side. -/
def modPilot (s : State) (p : Nat) (f : IcPilot → IcPilot) : State :=
  { s with ic := { s.ic with pilots := vmod s.ic.pilots p f } }
/-- Change the Almanac. -/
def modAlm (s : State) (f : Almanac → Almanac) : State := { s with alm := f s.alm }
/-- Job slot `j` of the Almanac. -/
def almSlot (s : State) (j : Nat) : AlmSlot := vget AlmSlot.reset s.alm.slots j
/-- Change a job slot. -/
def modSlot (s : State) (j : Nat) (f : AlmSlot → AlmSlot) : State :=
  { s with alm := { s.alm with slots := vmod s.alm.slots j f } }
/-- Change the BAR0 registers. -/
def modBar (s : State) (f : Bar → Bar) : State := { s with bar := f s.bar }
/-- Change the ownership and secrecy record. -/
def modSec (s : State) (f : Security → Security) : State := { s with sec := f s.sec }
/-- Change start-up's record. -/
def modBoot (s : State) (f : Startup → Startup) : State := { s with boot := f s.boot }
/-- Change the power state. -/
def modPower (s : State) (f : Power → Power) : State := { s with power := f s.power }
/-- Change Helm. -/
def modHelm (s : State) (f : Helm → Helm) : State := { s with helm := f s.helm }

/-- Put something on an edge of the part. -/
def emit (s : State) (o : Out) : State := { s with out := s.out ++ [o] }

/-- Device time in ns; the model counts it in fourteenths of a nanosecond, so that every clock divides it. -/
def ns (s : State) : Nat := s.devTime / 14

/-- Device time as a 64-bit register (DEV_TIME). -/
def now (s : State) : BitVec 64 := BitVec.ofNat 64 s.ns

/-! ## Free values -/

/-- Draw a value that the spec leaves open. -/
def drawNat (s : State) : Nat × State := (Config.freeNat s.free, { s with free := s.free + 1 })

/-- `n` undefined bytes, from the `k`-th draw on. -/
def freeBytes (k : Nat) : Nat → List Byte
  | 0 => []
  | n + 1 => Config.freeByte k :: freeBytes (k + 1) n

/-- Draw `n` undefined bytes (R58, R314). -/
def drawBytes (s : State) (n : Nat) : List Byte × State := (freeBytes s.free n, { s with free := s.free + n })

end State

/-! ## W1C bits (R8, R418) -/

/-- Key of register `r` of block `b`, instance `i` of the device address map (Table 4-3). -/
def regKey (b i r : Nat) : Nat := b * 0x100000 + i * 0x1000 + r

/-- Key of SKM_STATUS of Skimmer `k` (R269). -/
def skmKey (k : Nat) : Nat := if k < 4 then regKey 5 k 0x808 else regKey 6 (k - 4) 0x808

/-- Key of the BAR0 register at an offset. -/
def barKey (r : Nat) : Nat := 0x1000000 + r

namespace State

/-- Hardware sets a W1C bit in the present cycle of the register's clock domain (R8). -/
def occur (s : State) (key bit : Nat) : State :=
  { s with fresh := if s.fresh.contains (key, bit) then s.fresh else (key, bit) :: s.fresh }

/-- The bits of a register that hardware has set in the present cycle: a clear leaves them set (R8). -/
def freshBits (s : State) (key : Nat) : BitVec 64 :=
  s.fresh.foldl (fun m p => if p.1 = key then m ||| (1#64 <<< p.2) else m) 0

/-- A written value without the clears that a set of the same cycle dominates (Table 0-6). -/
def clears (s : State) (key : Nat) (v : BitVec 64) : BitVec 64 := v &&& ~~~s.freshBits key

/-! ## Interrupt sources, INT_CAUSE, the event log -/

/-- A pulse of source `n` (R409): the controller samples it at its next control clock edge (R411). -/
def pulse (s : State) (n : Nat) : State := s.modSrc n fun x => { x with pulse := x.pulse + 1 }

end State

/-- A dword of the MSI-X table; the vector control of an entry resets to masked, as the PCIe specification has it. -/
def Bar.msixDword (b : Bar) (i : Nat) : BitVec 32 := (b.msix.find? i).getD (if i % 4 = 3 then 1 else 0)

/-- Whether a vector is masked: by Function Mask, or in its own entry. -/
def Bar.masked (b : Bar) (v : Nat) : Bool := b.msixAll || (b.msixDword (4 * v + 3)).getLsbD 0

namespace State

/-- Whether an IDE stream that carried the device's traffic has left the Secure state and no stream is Secure, so that no TLP leaves
(R354). -/
def ideStall (s : State) : Bool :=
  (s.sec.linkIde.left || s.sec.selIde.left) && !s.sec.linkIde.secure && !s.sec.selIde.secure

/-- BAR0 is served (R368, R378, Table 7-1): the link is up, configuration space is served, and the function is in D0. -/
def barServed (s : State) : Bool := s.power.rails && s.bar.linkUp && s.bar.cfgServed && !s.bar.d3

/-- Send an MSI-X vector, or set its pending bit while it is masked (R280, R289). Without MSI-X Enable no message leaves; while no TLP may
leave, it waits (R354). -/
def sendMsix (s : State) (v : BitVec 6) : State :=
  if !s.bar.msixOn then s
  else if s.bar.masked v.toNat then s.modBar fun b => { b with msixPend := b.msixPend ||| (1#64 <<< v.toNat) }
  else if s.ideStall then
    if s.bar.msixWait.contains v then s else s.modBar fun b => { b with msixWait := b.msixWait ++ [v] }
  else s.emit (.msix v)

/-- The messages that waited for a Secure stream leave (R354). -/
def flushMsix (s : State) : State :=
  if s.ideStall then s else s.bar.msixWait.foldl sendMsix (s.modBar fun b => { b with msixWait := [] })

/-- INT_CAUSE bits (Table 7-3). -/
inductive Cause where
  | state | fatal | qerr | event
  deriving DecidableEq, Repr

/-- Set a bit of INT_CAUSE, count it, and send vector 0 if it is enabled (R282). -/
def raiseCause (s : State) (c : Cause) : State :=
  match c with
  | .state =>
    let s := s.modBar fun b => { b with icState := true, stateCnt := Word.satInc b.stateCnt }
    let s := s.occur (barKey 0x0040) 0
    if s.bar.intEnable.getLsbD 0 then s.sendMsix 0 else s
  | .fatal =>
    let s := s.modBar fun b => { b with icFatal := true, fatalCnt := Word.satInc b.fatalCnt }
    let s := s.occur (barKey 0x0040) 1
    if s.bar.intEnable.getLsbD 1 then s.sendMsix 0 else s
  | .qerr =>
    let s := s.modBar fun b => { b with icQerr := true, qerrCnt := Word.satInc b.qerrCnt }
    let s := s.occur (barKey 0x0040) 2
    if s.bar.intEnable.getLsbD 2 then s.sendMsix 0 else s
  | .event =>
    let s := s.modBar fun b => { b with icEvent := true, eventCnt := Word.satInc b.eventCnt }
    let s := s.occur (barKey 0x0040) 3
    if s.bar.intEnable.getLsbD 3 then s.sendMsix 0 else s

/-- Set DEV_STATE.STATE; a change sets INT_CAUSE.STATE (Table 7-3). -/
def setMode (s : State) (m : DevMode) : State :=
  if s.bar.mode = m then s else (s.modBar fun b => { b with mode := m }).raiseCause .state

/-- Set DEV_STATE.DEGRADED; a change sets INT_CAUSE.STATE. -/
def setDegraded (s : State) : State :=
  if s.bar.degraded then s else (s.modBar fun b => { b with degraded := true }).raiseCause .state

/-- Set DEV_STATE.SEC; a change sets INT_CAUSE.STATE. -/
def setSecCode (s : State) (c : BitVec 2) : State :=
  if s.bar.sec = c then s else (s.modBar fun b => { b with sec := c }).raiseCause .state

/-- Write an event record (R419 to R423): it enters the log in SEQ order, or is dropped and counted when 256 records already
wait in the input queue. The first 1,024 are retained, later ones go into the ring of 7,168. -/
def event (s : State) (code cls idx : Nat) (host : Bool) (pilot : Nat) (job : Nat) (payload : List Byte) : State :=
  let l := s.log
  if 256 ≤ l.queued then { s with log := { l with drops := Word.satInc l.drops } }
  else
    let ret := decide (l.retained.length < 1024)
    let full := !ret && decide (7168 ≤ l.ring.length)
    let e : Event :=
      { seq := l.nextSeq, time := s.now, code := BitVec.ofNat 16 code, cls := BitVec.ofNat 8 cls, idx := BitVec.ofNat 8 idx,
        host := host, retained := ret, pilot := BitVec.ofNat 8 pilot, job := BitVec.ofNat 16 job,
        payload := Bytes.fit 32 payload }
    let l' : EventLog :=
      { l with
        retained := if ret then l.retained ++ [e] else l.retained
        ring := if ret then l.ring else (if full then l.ring.drop 1 else l.ring) ++ [e]
        nextSeq := l.nextSeq + 1
        overflow := if full then Word.satInc l.overflow else l.overflow
        overwrote := l.overwrote || full
        queued := l.queued + 1 }
    let s := { s with log := l' }
    let s := if full && !l.overwrote then s.pulse 0x161 else s
    if host then (s.pulse 0x160).raiseCause .event else s

/-- A record that the firmware writes: class 0x11 of the pilot that writes it. The model's firmware writes as pilot 0. -/
def fwEvent (s : State) (code : Nat) (host : Bool) (job : Nat) (payload : List Byte) : State :=
  s.event code 0x11 0 host 0 job payload

end State

/-! ## The device address map (Table 4-3) -/

/-- What a device address names. -/
inductive Place where
  | dram (die off : Nat) (alloc : Bool)
  | scratch (core off : Nat)
  | regs (off : Nat)
  | window (region off : Nat)
  | unmapped
  deriving DecidableEq, Repr

/-- Number of ones in a mask. -/
def popcount (m : BitVec n) : Nat := ((List.range n).filter fun i => m.getLsbD i).length

/-- Populated capacity in service of a memory die in bytes (R149, R151; R6: decimal gigabytes). -/
def MemDie.capacity (d : MemDie) : Nat := popcount d.inService * d.dimmGB * 1000000000

/-- One terabyte region of each memory die. -/
def dieSpan : Nat := 0x10000000000

/-- Size of a scratchpad in bytes (R14). -/
def scratchBytes : Nat := 0x600000

namespace State

/-- What a device address names (Table 4-3); DRAM offsets at or above the die's capacity are unmapped (R150). -/
def placeOf (s : State) (a : Nat) : Place :=
  if a < 0x80000000000 then
    let b := a % 0x40000000000
    let m := b / dieSpan
    let o := b % dieSpan
    if o < (s.memDie m).capacity then .dram m o (decide (a < 0x40000000000)) else .unmapped
  else if 0x100000000000 ≤ a ∧ a < 0x100058000000 then
    let o := a - 0x100000000000
    if o % 0x800000 < scratchBytes then .scratch (o / 0x800000) (o % 0x800000) else .unmapped
  else if 0x110000000000 ≤ a ∧ a < 0x110001000000 then .regs (a - 0x110000000000)
  else if 0x200000000000 ≤ a ∧ a < 0x300000000000 then
    let o := a - 0x200000000000
    .window (o / 0x1000000000) (o % 0x1000000000)
  else .unmapped

end State

/-- Whether two places lie in one unit, so that everything between them does. -/
def Place.together : Place → Place → Bool
  | .dram m _ v, .dram n _ w => m == n && v == w
  | .scratch c _, .scratch d _ => c == d
  | .regs _, .regs _ => true
  | .window r _, .window q _ => r == q
  | _, _ => false

/-- A region that nothing declares. -/
def Region.absent : Region := { declLen := 0, declPerm := 0, mapped := false, hbase := 0, len := 0, perm := 0 }

namespace State

/-- Whether `n` bytes at `a` are mapped memory for a requester with these host regions (R147, R148): one unit, not a register
block, and within a mapped region that permits the access. -/
def mappedRange (s : State) (regions : Tbl Region) (a n : Nat) (write : Bool) : Bool :=
  let p := s.placeOf a
  let q := s.placeOf (a + n - 1)
  decide (0 < n) && p.together q &&
  match p with
  | .dram _ _ _ => true
  | .scratch _ _ => true
  | .window r o =>
    let g := regions.get Region.absent r
    g.mapped && decide (o + n ≤ g.len) && g.perm.getLsbD (if write then 1 else 0)
  | .regs _ => false
  | .unmapped => false

end State

/-- The end of the longest run of windows that covers memory from `a` on; `fuel` bounds the number of windows used. -/
def coverEnd (ws : List Window) : Nat → Nat → Nat
  | 0, a => a
  | fuel + 1, a =>
    match ws.find? (fun w => decide (w.base ≤ a ∧ a < w.base + w.len)) with
    | some w => coverEnd ws fuel (w.base + w.len)
    | none => a

/-- Whether `n` bytes at `a` lie within the windows (R147). -/
def inWindows (ws : List Window) (a n : Nat) : Bool := decide (a + n ≤ coverEnd ws (ws.length + 1) a)

/-! ## Bytes with their poison -/

/-- A byte as it is read: its value and whether it is marked poisoned (R153). -/
abbrev Cell := Byte × Bool

/-- The values of cells. -/
def cellBytes (cs : List Cell) : List Byte := cs.map Prod.fst

/-- Whether any cell is poisoned. -/
def anyPoison (cs : List Cell) : Bool := cs.any Prod.snd

/-- Clean cells. -/
def cleanCells (bs : List Byte) : List Cell := bs.map fun b => (b, false)

namespace Mem

/-- The listed byte at `k`, else `d`. -/
def byteAt (m : Mem) (d : Nat → Byte) (k : Nat) : Byte := (m.bytes.find? k).getD (d k)

/-- The poison mark of the 64-byte unit that holds `k`, else `d` of the unit's first byte. -/
def markAt (m : Mem) (d : Nat → Bool) (k : Nat) : Bool := (m.poison.find? (k / 64 * 64)).getD (d (k / 64 * 64))

/-- Read `n` cells from `k` on. -/
def cells (m : Mem) (db : Nat → Byte) (dp : Nat → Bool) (k n : Nat) : List Cell :=
  (List.range n).map fun i => (m.byteAt db (k + i), m.markAt dp (k + i))

/-- Write bytes one after another with a byte writer. -/
def putBytes (wr : Mem → Nat → Byte → Mem) (m : Mem) (k : Nat) : List Byte → Mem
  | [] => m
  | b :: bs => putBytes wr (wr m k b) (k + 1) bs

/-- The first addresses of the 64-byte units that `n` bytes at `k` touch. -/
def units (k n : Nat) : List Nat :=
  if n = 0 then [] else (List.range ((k + n - 1) / 64 - k / 64 + 1)).map fun i => (k / 64 + i) * 64

/-- The mark of unit `u` after cells are written from `k` on: poisoned if a poisoned byte falls in it, clean if the cells cover
it whole, else as it was (R19, R153, R462). -/
def newMark (cs : List Cell) (k u : Nat) (old : Bool) : Bool :=
  let inside := (cs.drop (u - k)).take (64 - (k - u))
  if anyPoison inside then true
  else if k ≤ u ∧ u + 64 ≤ k + cs.length then false
  else old

end Mem

/-! ### Scratchpad (R14, R19) -/

namespace Core

/-- Read cells of the scratchpad; a byte that nothing has written since start-up reads as zero (R14). -/
def readScratch (c : Core) (k n : Nat) : List Cell := c.scratch.cells (fun _ => 0) (fun _ => false) k n

/-- Write cells into the scratchpad, marking and clearing the poison of its lines (R19). -/
def writeScratch (c : Core) (k : Nat) (cs : List Cell) : Core :=
  let m := c.scratch
  let bytes := Mem.putBytes (fun m k b => { m with bytes := m.bytes.set 0 k b }) m k (cellBytes cs)
  let poison := (Mem.units k cs.length).foldl
    (fun t u => t.set false u (Mem.newMark cs k u (t.get false u))) m.poison
  { c with scratch := { bytes := bytes.bytes, poison := poison } }

/-- Bytes of a line. -/
def line (c : Core) (l : Nat) : List Byte := cellBytes (c.readScratch (64 * l) 64)

/-- Write whole lines of bytes at a line address. -/
def writeLines (c : Core) (l : Nat) (bs : List Byte) : Core := c.writeScratch (64 * l) (cleanCells bs)

end Core

/-! ### DRAM (R152, R153, R462) -/

/-- Local channel and channel offset of byte offset `x` of a die's region (R150, R151): over four channels, over a pair, over a pair
and then the surviving channel of the other, or on one. -/
def MemDie.channelPlace (d : MemDie) (x : Nat) : Nat × Nat :=
  let four := ((Bytes.bits x 8 2) ^^^ (Bytes.bits x 20 2), x / 1024 * 256 + x % 256)
  let pair (base : Nat) : Nat × Nat := (base + ((Bytes.bits x 8 1) ^^^ (Bytes.bits x 20 1)), x / 512 * 256 + x % 256)
  let lone := ((List.range 4).filter fun i => d.inService.getLsbD i).headD 0
  let low := d.inService.getLsbD 0 && d.inService.getLsbD 1
  let high := d.inService.getLsbD 2 && d.inService.getLsbD 3
  match popcount d.inService with
  | 4 => four
  | 3 =>
    let two := 2 * d.dimmGB * 1000000000
    if x < two then pair (if low then 0 else 2)
    else (if low then (if d.inService.getLsbD 2 then 2 else 3) else (if d.inService.getLsbD 0 then 0 else 1), x - two)
  | 2 => if low then pair 0 else if high then pair 2 else (lone, x)
  | _ => (lone, x)

/-- Local channel of a byte offset. -/
def MemDie.channelOf (d : MemDie) (x : Nat) : Nat := (d.channelPlace x).1

namespace MemDie

/-- One access of the shared cache to a 256-byte line (R152): a hit moves the line to the front of its set; an allocating miss
evicts the least recently used of sixteen, which a dirty line writes back; a non-allocating miss goes to DRAM. -/
def cacheLine (d : MemDie) (write alloc : Bool) (ln : Nat) : MemDie :=
  let set := Config.cacheSet ln % 32768
  let ways := d.cache.get [] set
  let hit := ways.find? fun w => w.1 == ln
  let dirty := hit.isNone && alloc && decide (16 ≤ ways.length) && (ways.getLastD (0, false)).2
  { d with
    cacheHit := if hit.isSome then Word.satInc d.cacheHit else d.cacheHit
    cacheMiss := if hit.isSome then d.cacheMiss else Word.satInc d.cacheMiss
    cacheWb := if dirty then Word.satInc d.cacheWb else d.cacheWb
    cache := match hit with
      | some w => d.cache.set [] set ((ln, w.2 || write) :: ways.filter fun v => v.1 != ln)
      | none => if alloc then d.cache.set [] set ((ln, write) :: ways.take 15) else d.cache }

/-- An access of `n` bytes at offset `o` of the die's region. -/
def cacheAccess (d : MemDie) (write alloc : Bool) (o n : Nat) : MemDie :=
  if n = 0 then d
  else ((List.range ((o + n - 1) / 256 - o / 256 + 1)).map fun i => o / 256 + i).foldl (cacheLine · write alloc ·) d

end MemDie

namespace State

/-- Read cells of DRAM at an allocating-view address. -/
def dramCells (s : State) (a n : Nat) : List Cell :=
  let g := (s.memDie (a / dieSpan)).keyGen
  s.dram.cells (Config.dramByte g) (Config.dramPoison g) a n

/-- Write cells of DRAM at an allocating-view address. -/
def dramWrite (s : State) (a : Nat) (cs : List Cell) : State :=
  let g := (s.memDie (a / dieSpan)).keyGen
  let m := s.dram
  let bytes := Mem.putBytes (fun m k b => { m with bytes := m.bytes.put k b }) m a (cellBytes cs)
  let poison := (Mem.units a cs.length).foldl
    (fun t u => t.put u (Mem.newMark cs a u ((t.find? u).getD (Config.dramPoison g u)))) m.poison
  { s with dram := { bytes := bytes.bytes, poison := poison } }

/-- Read bytes of host memory (R148). -/
def hostBytes (s : State) (h n : Nat) : List Byte := cellBytes (s.host.cells Config.hostByte (fun _ => false) h n)

/-- Write bytes of host memory. -/
def hostPut (s : State) (h : Nat) (bs : List Byte) : State :=
  let m := Mem.putBytes (fun m k b => { m with bytes := m.bytes.put k b }) s.host h bs
  { s with host := m }

/-- Write cells to host memory (R148): a 64-byte unit that holds poison goes out as a poisoned TLP whose data is zero, and the
other units are written. -/
def hostWrite (s : State) (h : Nat) (cs : List Cell) : State :=
  (Mem.units h cs.length).foldl
    (fun s u =>
      let lo := max u h
      let part := (cs.drop (lo - h)).take (u + 64 - lo)
      if anyPoison part then s.emit (.poisonTlp u) else s.hostPut lo (cellBytes part))
    s

end State

namespace Obj

/-- The object without its resident copy (R169, R193): back to HOME, unless its home is poisoned. -/
def dropCopy (o : Obj) : Obj :=
  { o with resident := none, mode := if o.mode = .resident then .home else o.mode }

/-- Whether a range of the object's resident copy holds allocating-view address `a`. -/
def copyHolds (o : Obj) (a : Nat) : Bool :=
  match o.resident with
  | some r => decide (o.mode = .resident ∧ r ≤ a ∧ a < r + o.len)
  | none => false

/-- Whether a DRAM-home object's bytes hold allocating-view address `a`. -/
def homeHolds (o : Obj) (a : Nat) : Bool := decide (o.home = .dram ∧ o.addr ≤ a ∧ a < o.addr + o.len)

end Obj

namespace State

/-- Remove a placed copy's range from the die's device area (R298). -/
def freeCopy (s : State) (a : Nat) : State :=
  s.modMem (a / dieSpan) fun d => { d with copies := d.copies.filter fun c => c.1 != a }

/-- Mark the 64-byte units that `n` bytes at an allocating-view address touch poisoned. -/
def poisonRange (s : State) (a n : Nat) : State :=
  { s with dram := { s.dram with poison := (Mem.units a n).foldl (fun t u => t.put u true) s.dram.poison } }

/-- The object with an identifier; a FREE one is none. -/
def obj? (s : State) (oid : Nat) : Option Obj := s.objs.find? oid

/-- An uncorrectable DRAM error in the 64-byte unit at an allocating-view address (R153, R155, R193): the unit is poisoned,
MEM_STATUS.UE and MEM_UE_ADDR tell, a resident copy that holds it is poisoned and dropped, a DRAM-home object that holds it is POISONED,
every byte of it. -/
def dramUe (s : State) (unit : Nat) : State :=
  let u := unit / 64 * 64
  let m := u / dieSpan
  let s := { s with dram := { s.dram with poison := s.dram.poison.put u true } }
  let s := s.modMem m fun d =>
    { d with ue := true, ueAddr := BitVec.ofNat 48 u, ueCnt := Word.satInc d.ueCnt }
  let s := s.occur (regKey 5 m 0) 0
  let s := s.pulse (0x0E4 + m)
  let hit (o : Obj) : Bool := o.homeHolds u && o.mode != .writing
  let dropped := s.objs.vals.filterMap fun o => if o.copyHolds u || hit o then o.resident else none
  let spoilt := s.objs.vals.filterMap fun o =>
    if o.copyHolds u then o.resident.map fun r => (r, o.len) else if hit o then some (o.addr, o.len) else none
  let s := spoilt.foldl (fun s p => s.poisonRange p.1 p.2) (dropped.foldl freeCopy s)
  { s with objs := s.objs.mapVals fun _ o =>
      if o.copyHolds u then o.dropCopy
      else if hit o then
        { o with mode := .poisoned, resident := none, refs := if o.mode = .promoting then o.refs - 1 else o.refs }
      else o }

/-- A corrected DRAM error (R155). -/
def dramCe (s : State) (m ch : Nat) : State :=
  s.modMem m fun d => { d with ceCnt := d.ceCnt.set 0 ch (Word.satInc (d.ceCnt.get 0 ch)) }

/-- The ECC errors that a read of `n` bytes at device address `a` meets (R19, R153). Scratchpad errors of an outbound MOVE and
of other readers of a line set its poison bit or count as corrected; the reader faults by what it then reads. -/
def meetEcc (s : State) (x : Env) (a n : Nat) : State :=
  x.ecc.foldl
    (fun s h =>
      if h.unit < a / 64 * 64 ∨ a + n ≤ h.unit then s
      else
        match s.placeOf h.unit with
        | .dram m o _ =>
          let u := m * dieSpan + o
          if h.ue then s.dramUe u else s.dramCe m ((s.memDie m).channelOf o)
        | .scratch c o =>
          s.modCore c fun k =>
            if h.ue then { k with scratch := { k.scratch with poison := k.scratch.poison.set false (o / 64 * 64) true } }
            else { k with regs := { k.regs with eccCorr := Word.satInc k.regs.eccCorr } }
        | _ => s)
    s

/-- What the outside answers: host memory holds the bytes that the command's environment names (R148). -/
def withEnv (s : State) (x : Env) : State := x.host.foldl (fun s p => s.hostPut p.1 p.2) s

/-- Read `n` cells at a device address that a check has found mapped, with these host regions. A host access that fails
brings undefined bytes that read poisoned. -/
def load (s : State) (x : Env) (regions : Tbl Region) (a n : Nat) : List Cell × State :=
  let s := s.meetEcc x a n
  match s.placeOf a with
  | .dram m o v =>
    let s := s.modMem m fun d => d.cacheAccess false v o n
    (s.dramCells (m * dieSpan + o) n, s)
  | .scratch c o => ((s.core c).readScratch o n, s)
  | .window r o =>
    if x.hostErr.isSome then
      let (bs, s) := s.drawBytes n
      (bs.map fun b => (b, true), s)
    else (cleanCells (s.hostBytes ((regions.get Region.absent r).hbase.toNat + o) n), s)
  | _ => ([], s)

/-- Write cells at a device address that a check has found mapped. -/
def store (s : State) (regions : Tbl Region) (a : Nat) (cs : List Cell) : State :=
  match s.placeOf a with
  | .dram m o v =>
    let s := s.modMem m fun d => d.cacheAccess true v o cs.length
    s.dramWrite (m * dieSpan + o) cs
  | .scratch c o => s.modCore c fun k => k.writeScratch o cs
  | .window r o => s.hostWrite ((regions.get Region.absent r).hbase.toNat + o) cs
  | _ => s

/-- The module runs: its package rails are up, the trip latch is open, and PERST_N is not asserted (R438, R444, R452). -/
def runs (s : State) : Bool := s.power.rails && !s.power.tripped && !s.power.perst

/-! ## Whose map -/

/-- The training job whose compute dies hold die `d`. -/
def jobOfDie (s : State) (d : Nat) : Option Job := s.jobs.find? fun j => j.dies.getLsbD d

/-- The serving group whose compute dies hold die `d`. -/
def groupOfDie (s : State) (d : Nat) : Option Group := s.groups.find? fun g => g.dies.getLsbD d

/-- The job with an identifier. -/
def job? (s : State) (id : BitVec 16) : Option Job := s.jobs.find? fun j => j.id == id

/-- The group with an identifier. -/
def group? (s : State) (id : BitVec 8) : Option Group := s.groups.find? fun g => g.id == id

/-- Change the job with an identifier. -/
def modJob (s : State) (id : BitVec 16) (f : Job → Job) : State :=
  { s with jobs := s.jobs.map fun j => if j.id == id then f j else j }

/-- Change the group with an identifier. -/
def modGroup (s : State) (id : BitVec 8) (f : Group → Group) : State :=
  { s with groups := s.groups.map fun g => if g.id == id then f g else g }

/-- Windows and host regions of a work identifier: a group below 0x00FF, else a job (Table 7-5). -/
def mapOf (s : State) (work : BitVec 16) : List Window × Tbl Region :=
  if work.toNat < 0xFF then
    match s.group? (work.setWidth 8) with
    | some g => (g.windows, g.regions)
    | none => ([], Tbl.empty)
  else
    match s.job? work with
    | some j => (j.windows, j.regions)
    | none => ([], Tbl.empty)

/-- Work identifier of the job or group that owns a core; 0xFFFF for none. -/
def workOfCore (s : State) (c : Nat) : BitVec 16 :=
  match s.jobOfDie (c / 8) with
  | some j => j.id
  | none =>
    match s.groupOfDie (c / 8) with
    | some g => g.id.setWidth 16
    | none => 0xFFFF

/-- Whether a mesh stop lets the work's request for `n` bytes at `a` through (R147). -/
def permitted (s : State) (work : BitVec 16) (a n : Nat) (write : Bool) : Bool :=
  let (ws, rs) := s.mapOf work
  s.mappedRange rs a n write && inWindows ws a n

/-- The host regions of a work identifier. -/
def regionsOf (s : State) (work : BitVec 16) : Tbl Region := (s.mapOf work).2

end State
end Sys2Proof.Machine
end

