-- ==== Sys2Proof/Machine/Flags.lean ====
section
/-!
DEFINITION. Flag computations: the signal that each unit's status bits drive to the interrupt controller (R409, Table 12-1), what
the controller makes of it (R411, R412), and the W1C rule (R8, R418).
-/
namespace Sys2Proof.Machine

/-- A W1C bit after a write of `w`: a 1 clears it, a 0 leaves it (Table 0-6). -/
def w1c (old : Bool) (w : BitVec 64) (i : Nat) : Bool := old && !w.getLsbD i

/-- Throttle limit of the die at place `i` of Table 11-7 (Table 11-5). -/
def throttleLimit (i : Nat) : Nat := if i < 22 then 95 else if 30 ≤ i ∧ i < 38 then 80 else 100

namespace State

/-- PWR_ALERT_N is asserted: by a regulator, or by the input's undervoltage (R431, R436). -/
def alerted (s : State) : Bool := s.power.pinAlert || s.power.underAlert

/-- The level signal of source `n`; pulse sources and numbers that Table 12-1 does not list are low. -/
def srcLine (s : State) (n : Nat) : Bool :=
  if n < 0x0B0 then
    let r := (s.core n).regs
    r.done || r.faulted || r.wrapped
  else if n < 0x0C6 then (s.die (n - 0x0B0)).sxt.mismatch
  else if n < 0x0DC then false
  else if n < 0x0E0 then
    let u := s.sep (n - 0x0DC)
    u.done || u.poison || u.nonfinite
  else if n < 0x0E8 then false
  else if n < 0x0EC then (s.skm (n - 0x0E8)).done || (s.skm (n - 0x0E8)).poison
  else if n < 0x0F0 then (s.flash (n - 0x0EC)).poison
  else if n < 0x0F4 then (s.skm (n - 0x0F0 + 4)).done || (s.skm (n - 0x0F0 + 4)).poison
  else if n < 0x0F8 then
    let e := s.engine (n - 0x0F4)
    e.timeout || e.unroute || e.laggard || e.stale || vget false e.auth 0 || vget false e.auth 1 || vget false e.linkdn 0 ||
    vget false e.linkdn 1
  else if n = 0x0F8 then s.alm.late || s.alm.tlate || s.alm.poison
  else if n = 0x114 then s.alerted
  else if n < 0x118 then false
  else if n < 0x140 then decide (throttleLimit (n - 0x118) ≤ s.helm.temps.dies.getD (n - 0x118) 0)
  else if n < 0x150 then decide (85 ≤ s.helm.temps.dimms.getD (n - 0x140) 0)
  else if n < 0x154 then decide (70 ≤ s.helm.temps.flash.getD (n - 0x150) 0)
  else false

/-- Whether Table 12-1 lists a source. -/
def srcListed (n : Nat) : Bool :=
  decide (n < 0x0F9 ∨ (0x100 ≤ n ∧ n < 0x116) ∨ (0x118 ≤ n ∧ n < 0x164))

end State

namespace IcSrc

/-- Whether a source is pending (R411): a LEVEL source while its last sample was high, an edge source while latched. -/
def pending (x : IcSrc) : Bool := if x.sense = 0 then x.line else x.latched

/-- Whether a source is eligible for pilot `p` whose side of the controller is `q` (R412). -/
def eligible (x : IcSrc) (p : Nat) (q : IcPilot) : Bool :=
  x.enable && x.targets.getLsbD p && x.pending && x.insvc.isNone && decide (q.thresh.toNat < x.prio.toNat) && !q.all

/-- Whether a source wakes pilot `p` (R416). -/
def wakes (x : IcSrc) (p : Nat) : Bool := x.enable && x.targets.getLsbD p && x.pending && x.insvc.isNone

/-- One sample of a source's signal (R411): whether an edge merged, and the source after it. A pulse is one edge however often
it came since the last sample. -/
def sample (x : IcSrc) (signal : Bool) : Bool × IcSrc :=
  let now := signal || decide (0 < x.pulse)
  let rise := decide (0 < x.pulse) || (now && !x.line)
  let fall := !now && x.line
  let edge := match x.sense.toNat with
    | 0 => false
    | 1 => rise
    | 2 => fall
    | _ => rise || fall
  (edge && (x.latched || x.insvc.isSome), { x with line := now, pulse := 0, latched := x.latched || edge })

end IcSrc

namespace State

/-- The eligible source with the highest PRIO, the lowest number among equals (R413). -/
def bestSource (s : State) (p : Nat) : Option Nat :=
  let q := s.pilot p
  let best := s.ic.srcs.toList.zipIdx.foldl
    (fun best x =>
      if x.1.eligible p q then
        match best with
        | some b => if b.1.prio.toNat < x.1.prio.toNat then some x else best
        | none => some x
      else best)
    none
  best.map Prod.snd

/-- Whether a moderated source is eligible for pilot `p` (R415). -/
def moderatedWaits (s : State) (p : Nat) : Bool :=
  s.ic.srcs.toList.any fun x => x.eligible p (s.pilot p) && !x.nomod

/-- IC_PSTATUS_p.NOTIFY (R412, R415). -/
def notified (s : State) (p : Nat) : Bool :=
  let q := s.pilot p
  s.ic.srcs.toList.any fun x => x.eligible p q && (x.nomod || q.modLeft == 0 || q.asleep)

/-- One control cycle of pilot `p`'s moderation interval (R415). -/
def modCycle (s : State) (p : Nat) : State :=
  let q := s.pilot p
  if q.modLeft = 0 then s
  else
    let held := s.moderatedWaits p && !q.asleep
    s.modPilot p fun q =>
      { q with modLeft := q.modLeft - 1, modHold := if held then Word.satInc q.modHold else q.modHold }

/-- The controller samples every source at a control clock edge (R411), and each pilot's moderation advances. -/
def icEdge (s : State) : State :=
  let s := [0, 1, 2, 3].foldl modCycle s
  (List.range 512).foldl
    (fun s n =>
      let x := s.src n
      let (merged, y) := x.sample (srcListed n && s.srcLine n)
      if y = x ∧ merged = false then s
      else
        let s := s.modSrc n fun _ => y
        if merged then { s with ic := { s.ic with mergeCnt := Word.satInc s.ic.mergeCnt } } else s)
    s

/-- A listed bit cleared by a W1C write of a core's CORE_STATUS (Table 1-21). -/
def clearCoreStatus (s : State) (c : Nat) (w : BitVec 64) : State :=
  s.modCore c fun k =>
    { k with regs := { k.regs with
        wrapped := w1c k.regs.wrapped w 15
        faulted := w1c k.regs.faulted w 14
        done := w1c k.regs.done w 13 } }

end State
end Sys2Proof.Machine
end

