-- ==== Sys2Proof/Machine/Flash.lean ====
section
/-!
DEFINITION. What flash holds and how it is read (R158 to R163): pages, stripes and parity, the translation tables in their two copies,
the placing of stripe units, the reads that rebuild a page, and refresh.
-/
namespace Sys2Proof.Machine

/-! ## Stripe units, pages, parity (R158) -/

/-- Bytes of a page. -/
def pageBytes : Nat := 16384

/-- Bytes of a stripe unit: the seven data pages of a stripe. -/
def unitBytes : Nat := 7 * pageBytes

/-- The tweak of data unit `n` of 4 KiB of an object (R356): the object identifier in bits 95:64, the unit's number in bits 63:0. -/
def flashTweak (oid n : Nat) : BitVec 128 := BitVec.ofNat 128 (oid * 2 ^ 64 + n)

/-- The ciphertext of stripe unit `u` of an object's bytes under a flash die's key (R356): 28 data units of 4 KiB; a final partial unit is
padded with zeros. -/
def unitCipher (die key oid : Nat) (data : Tbl Byte) (u : Nat) : List Byte :=
  (List.range 28).flatMap fun i =>
    let n := 28 * u + i
    Config.xtsSeal die key (flashTweak oid n) ((List.range 4096).map fun k => data.get 0 (4096 * n + k))

/-- Byte `i` of data page `k` of a stripe unit that holds `bytes`. -/
def pageByte (bytes : List Byte) (k i : Nat) : Byte := bytes.getD (k * pageBytes + i) 0

/-- Byte `i` of the parity page of a stripe unit: the XOR of the seven data pages. -/
def parityByte (bytes : List Byte) (i : Nat) : Byte := (List.range 7).foldl (fun x k => x ^^^ pageByte bytes k i) 0

/-- Byte `i` of page `k` of a stripe unit rebuilt from the parity page and the other six data pages (R160). -/
def rebuiltByte (bytes : List Byte) (k i : Nat) : Byte :=
  ((List.range 7).filter fun j => j != k).foldl (fun x j => x ^^^ pageByte bytes j i) (parityByte bytes i)

/-- Stripe units that `len` bytes at `off` of an object touch. -/
def unitsOf (off len : Nat) : List Nat :=
  if len = 0 then [] else (List.range ((off + len - 1) / unitBytes - off / unitBytes + 1)).map fun i => off / unitBytes + i

/-- Data pages that `len` bytes at `off` of an object touch, numbered from the object's first. -/
def pagesOf (off len : Nat) : List Nat :=
  if len = 0 then [] else (List.range ((off + len - 1) / pageBytes - off / pageBytes + 1)).map fun i => off / pageBytes + i

/-- Flash dies that `len` bytes at `off` touch: unit u is on die u mod 4. -/
def diesOf (off len : Nat) : List Nat := [0, 1, 2, 3].filter fun f => (unitsOf off len).any fun u => u % 4 == f

/-- Key of a stripe unit in a translation table (R162). -/
def unitKey (oid u : Nat) : Nat := oid * 0x100000000 + u

namespace FlashDie

/-- Channels in service. -/
def live (d : FlashDie) : List Nat := (List.range 8).filter fun c => d.channels.getLsbD c

/-- Channel of the parity page of stripe `s` (R158: s mod 8). DESIGN CHOICE (log 82): with channels out of service the s-th in turn of
those that remain. -/
def parityChannel (d : FlashDie) (s : Nat) : Nat := d.live.getD (s % max 1 d.live.length) 0

/-- Channels of the data pages of stripe `s`: seven, or one less for each channel out of service (R161). -/
def dataChannels (d : FlashDie) (s : Nat) : List Nat := d.live.filter fun c => c != d.parityChannel s

/-- The mounted copy of the translation tables (R162). -/
def table (d : FlashDie) : Tbl UnitEntry := if d.secondary then d.tabB else d.tabA

/-- Change both copies of the tables, the primary first (R162). -/
def modTables (d : FlashDie) (f : Tbl UnitEntry → Tbl UnitEntry) : FlashDie :=
  let d := { d with tabA := f d.tabA }
  { d with tabB := f d.tabB }

/-- Key of a block's channel in the counts of reads. -/
def readKey (s ch : Nat) : Nat := Config.blockOf s * 8 + ch

/-- A page read (R163). -/
def countRead (d : FlashDie) (s ch : Nat) : FlashDie :=
  { d with reads := d.reads.set 0 (readKey s ch) (d.reads.get 0 (readKey s ch) + 1) }

/-- The stripe that is being filled, and how many of its data pages are. A full one, or none, gives way to a new stripe, whose block is
programmed, which begins its count of reads anew. -/
def filling (d : FlashDie) (f : Nat) : (Nat × Nat) × FlashDie :=
  let full := match d.openStripe with | some (s, k) => decide ((d.dataChannels s).length ≤ k) | none => true
  let s := Config.stripeAt f d.taken
  (if full then (s, 0) else d.openStripe.getD (s, 0),
   { d with taken := if full then d.taken + 1 else d.taken
            reads := if full then (List.range 8).foldl (fun t c => t.set 0 (readKey s c) 0) d.reads else d.reads })

/-- The place of the next data page that is written: in the stripe that is not full, else in a new one. -/
def takePage (d : FlashDie) (f : Nat) : (Nat × Nat) × FlashDie :=
  let (p, d) := d.filling f
  ((p.1, (d.dataChannels p.1).getD p.2 0), { d with openStripe := some (p.1, p.2 + 1) })

/-- Places for `n` data pages. -/
def takePages (f : Nat) : Nat → FlashDie → List (Nat × Nat) × FlashDie
  | 0, d => ([], d)
  | n + 1, d =>
    let (p, d) := d.takePage f
    let (ps, d) := takePages f n d
    (p :: ps, d)

/-- A stripe unit is written and its translation entry replaced in both copies, with its key bit. -/
def writeUnit (d : FlashDie) (f key : Nat) (debug : Bool) : FlashDie :=
  let (ps, d) := takePages f 7 d
  d.modTables fun t => t.put key { pages := ps, debug := debug }

/-- Where data page `k` of a stripe unit lies. -/
def pageAt (d : FlashDie) (key k : Nat) : Option (Nat × Nat) := (d.table.find? key).bind fun e => e.pages[k]?

/-- A read of data page `k` of a stripe unit: from its channel, or, where the channel is out of service, by a rebuild from the stripe's
other pages (R160, R161). -/
def readPage (d : FlashDie) (key k : Nat) : FlashDie :=
  match d.pageAt key k with
  | none => d
  | some (s, ch) =>
    if d.channels.getLsbD ch then d.countRead s ch
    else d.live.foldl (fun d c => d.countRead s c) { d with rebuildCnt := Word.satInc d.rebuildCnt }

/-- Whether a read of data page `k` of a unit is a rebuild because its channel is out of service (R161). -/
def rebuilds (d : FlashDie) (key k : Nat) : Bool :=
  match d.pageAt key k with
  | some (_, ch) => !d.channels.getLsbD ch
  | none => false

/-- The reads of a rebuild of data page `k` of a unit (R160): of the other pages of its stripe. -/
def readOthers (d : FlashDie) (key k : Nat) : FlashDie :=
  match d.pageAt key k with
  | some (s, ch) => (d.live.filter fun c => c != ch).foldl (fun d c => d.countRead s c) d
  | none => d

/-- The first block with a channel that has been read 100,000 times since its last program (R163). -/
def refreshDue (d : FlashDie) : Option Nat := (d.reads.entries.find? fun p => decide (100000 ≤ p.2)).map fun p => p.1 / 8

/-- A due block is refreshed (R163): the units with a page in it are written again elsewhere, and it is counted. -/
def refresh (d : FlashDie) (f : Nat) : FlashDie :=
  match d.refreshDue with
  | none => d
  | some b =>
    let moved := d.table.entries.filter fun p => p.2.pages.any fun q => Config.blockOf q.1 == b
    let d := moved.foldl (fun d p => d.writeUnit f p.1 p.2.debug) d
    { d with refreshCnt := Word.satInc d.refreshCnt, reads := d.reads.keep fun k _ => k / 8 != b }

end FlashDie

namespace State

/-- Free blocks after a die is written: how many erased blocks a write takes, the spec leaves open. -/
def takeBlocks (s : State) (f : Nat) : State :=
  let (n, s) := s.drawNat
  s.modFlash f fun d => { d with freeBlocks := BitVec.ofNat 32 (n % (d.freeBlocks.toNat + 1)) }

/-- The units of a new generation replace the old in the translation tables (R159, R162), written under the key of the moment (R356). -/
def mapUnits (s : State) (oid : Nat) (us : List Nat) : State :=
  us.foldl (fun s u => s.modFlash (u % 4) fun d => d.writeUnit (u % 4) (unitKey oid u) (s.sec.mode == .debug)) s

/-- A unit is written elsewhere as it is, its key bit kept. -/
def moveUnit (s : State) (oid u : Nat) : State :=
  s.modFlash (u % 4) fun d =>
    d.writeUnit (u % 4) (unitKey oid u) (match d.table.find? (unitKey oid u) with | some e => e.debug | none => s.sec.mode == .debug)

/-- The key bits of an object's translation entries (R356). -/
def unitBits (s : State) (oid : Nat) : List Bool :=
  [0, 1, 2, 3].flatMap fun f => ((s.flash f).table.entries.filter fun p => p.1 / 0x100000000 == oid).map fun p => p.2.debug

/-- Some of an object's current generation was written under the debug flash key (R356, R362). -/
def debugWritten (s : State) (oid : Nat) : Bool := (s.unitBits oid).any fun b => b

/-- A flash die may begin a program or an erase: its rails are on, its packages' WP_N is released and no power-fail sequence runs (R437,
R448). -/
def mayProgram (s : State) : Bool := s.power.flashRail && !s.power.wpN && !s.power.failing

/-- The units of an object leave the translation tables. -/
def unmapUnits (s : State) (oid : Nat) : State :=
  { s with flashes := s.flashes.map fun d => d.modTables fun t => t.keep fun k _ => k / 0x100000000 != oid }

/-- A read of `n` bytes at `off` of a flash-home object reads its pages (R160, R161, R163). -/
def flashRead (s : State) (oid off n : Nat) : State :=
  (pagesOf off n).foldl (fun s p => s.modFlash (p / 7 % 4) fun d => d.readPage (unitKey oid (p / 7)) (p % 7)) s

/-- Whether a read of a range of a flash-home object rebuilds a page (R161). -/
def flashRebuilds (s : State) (oid off n : Nat) : Bool :=
  (pagesOf off n).any fun p => (s.flash (p / 7 % 4)).rebuilds (unitKey oid (p / 7)) (p % 7)

end State
end Sys2Proof.Machine
end

