-- ==== Sys2Proof/Machine/Mailbox.lean ====
section
/-!
DEFINITION. Rings, descriptors, records and the order of commands within a stream (chapter 7, R281 to R296; chapter 8, R310 to
R319), and the meanings of the mailbox's own rows.
-/
namespace Sys2Proof.Machine

/-! ## Status codes (Table 7-7) -/

namespace Status
def ok : BitVec 8 := 0x00
def deferred : BitVec 8 := 0x01
def deadlineMiss : BitVec 8 := 0x02
def voided : BitVec 8 := 0x03
def poisoned : BitVec 8 := 0x10
def skipped : BitVec 8 := 0x11
def fabricLost : BitVec 8 := 0x12
def removedFromGroup : BitVec 8 := 0x13
def stopped : BitVec 8 := 0x14
def failed : BitVec 8 := 0x15
def invalidOpcode : BitVec 8 := 0x20
def invalidField : BitVec 8 := 0x21
def notPermitted : BitVec 8 := 0x22
def notFound : BitVec 8 := 0x23
def inUse : BitVec 8 := 0x24
def noResource : BitVec 8 := 0x25
def mapViolation : BitVec 8 := 0x26
def imageInvalid : BitVec 8 := 0x27
def signatureFailed : BitVec 8 := 0x28
def wrongQueue : BitVec 8 := 0x29
def hostDmaError : BitVec 8 := 0x2A
/-- Whether a command that depends on one of this status runs. -/
def runs (s : BitVec 8) : Bool := decide (s.toNat < 0x10)
end Status

/-! ## Descriptors (Table 7-5) -/

namespace Flight
/-- A little-endian field of the descriptor. -/
def arg (f : Flight) (off len : Nat) : Nat := Bytes.field f.desc off len
/-- OPC. -/
def opc (f : Flight) : Nat := f.arg 0 1
/-- IRQ. -/
def irq (f : Flight) : Bool := Bytes.bit (f.arg 1 1) 0
/-- CID. -/
def cid (f : Flight) : BitVec 16 := BitVec.ofNat 16 (f.arg 2 2)
/-- DEP_BACK. -/
def dep (f : Flight) : Nat := f.arg 4 1
/-- JOB. -/
def job (f : Flight) : BitVec 16 := BitVec.ofNat 16 (f.arg 6 2)
end Flight

/-- Command codes of Tables 7-8 to 7-11. -/
def commandCodes : List Nat :=
  [0x01, 0x02, 0x03, 0x04, 0x05, 0x06, 0x07, 0x0F, 0x10, 0x11, 0x12, 0x13, 0x14, 0x15, 0x16, 0x20, 0x21, 0x22, 0x23, 0x24,
   0x25, 0x26, 0x27, 0x28, 0x29, 0x2A, 0x2B, 0x2C, 0x30, 0x31, 0x32, 0x33, 0x34]

/-- Argument bytes that a command assigns: (offset, length, mask of assigned bits of each byte) (Tables 7-8 to 7-11). -/
def argFields : Nat → List (Nat × Nat × Nat)
  | 0x01 => [(8, 8, 0xFF)]
  | 0x02 => [(8, 8, 0xFF), (16, 4, 0xFF), (20, 1, 0xFF)]
  | 0x03 => [(8, 8, 0xFF), (16, 4, 0xFF), (24, 8, 0xFF)]
  | 0x05 => [(8, 8, 0xFF), (16, 4, 0xFF)]
  | 0x06 => [(8, 2, 0xFF)]
  | 0x07 => [(8, 1, 0xFF), (16, 8, 0xFF), (24, 4, 0xFF)]
  | 0x0F => [(8, 4, 0xFF)]
  | 0x10 => [(8, 4, 0xFF), (12, 1, 0xFF), (16, 8, 0xFF), (24, 8, 0xFF)]
  | 0x11 => [(8, 4, 0xFF), (12, 1, 0x01), (16, 8, 0xFF), (24, 8, 0xFF), (32, 8, 0xFF)]
  | 0x12 => [(8, 4, 0xFF), (16, 8, 0xFF), (24, 8, 0xFF), (32, 8, 0xFF)]
  | 0x13 => [(8, 4, 0xFF)]
  | 0x14 => [(8, 4, 0xFF), (16, 6, 0xFF)]
  | 0x15 => [(8, 4, 0xFF)]
  | 0x16 => [(8, 4, 0xFF)]
  | 0x20 => [(8, 8, 0xFF), (16, 8, 0xFF)]
  | 0x21 => [(8, 1, 0xFF), (9, 1, 0x03), (16, 8, 0xFF), (24, 8, 0xFF)]
  | 0x24 => [(8, 4, 0xFF), (12, 2, 0xFF), (16, 8, 0xFF), (24, 4, 0xFF)]
  | 0x26 => [(8, 1, 0xFF), (9, 1, 0xFF), (16, 8, 0xFF), (24, 6, 0xFF), (32, 8, 0xFF)]
  | 0x27 => [(8, 1, 0xFF), (9, 1, 0xFF), (10, 1, 0x77), (12, 2, 0xFF), (14, 2, 0xFF), (16, 8, 0xFF), (24, 6, 0xFF),
             (32, 6, 0xFF), (40, 4, 0xFF)]
  | 0x28 => [(8, 2, 0xFF), (10, 2, 0xFF)]
  | 0x29 => [(8, 1, 0x01), (16, 8, 0xFF), (24, 4, 0xFF)]
  | 0x2A => [(8, 1, 0xFF), (9, 1, 0xFF), (12, 4, 0xFF), (16, 8, 0xFF), (24, 8, 0xFF), (32, 4, 0xFF)]
  | 0x2B => [(8, 1, 0xFF), (9, 1, 0xFF), (12, 4, 0xFF), (16, 8, 0xFF), (24, 8, 0xFF), (32, 4, 0xFF)]
  | 0x2C => [(8, 1, 0x01), (9, 1, 0xFF), (12, 2, 0xFF), (14, 2, 0xFF), (16, 8, 0xFF)]
  | 0x30 => [(8, 2, 0xFF), (12, 4, 0xFF)]
  | 0x32 => [(8, 8, 0xFF), (16, 2, 0xFF)]
  | 0x33 => [(8, 8, 0xFF)]
  | 0x34 => [(8, 8, 0xFF)]
  | _ => []

/-- Bits of descriptor byte `i` that may be other than zero. -/
def byteMask (opc i : Nat) : Nat :=
  if i = 1 then 0x01
  else if i = 5 then 0
  else if i < 8 then 0xFF
  else (argFields opc).foldl (fun m p => if p.1 ≤ i ∧ i < p.1 + p.2.1 then m ||| p.2.2 else m) 0

/-- Offset of the first byte that breaks R9: a reserved bit or byte that is not zero. -/
def reservedAt (desc : List Byte) : Option Nat :=
  let opc := Bytes.field desc 0 1
  (List.range 64).find? fun i =>
    let b := Bytes.field desc i 1
    b &&& byteMask opc i != b

/-- Device and object commands carry JOB = 0xFFFF (Tables 7-8, 7-9). -/
def wantsNoJob (opc : Nat) : Bool := decide (opc < 0x20)

namespace State

/-! ## The stream -/

/-- Commands that R353 lets through without a Secure stream. -/
def ideExempt (desc : List Byte) : Bool :=
  let opc := Bytes.field desc 0 1
  opc == 0x01 || opc == 0x07 || opc == 0x0F || (opc == 0x02 && Bytes.field desc 20 1 == 0)

/-- What the checks of a fetched descriptor find: INVALID_OPCODE, INVALID_FIELD (R9, R291, R292), NOT_PERMITTED (R353). `n` is
the command's place since the queue was enabled. -/
def fetchCheck (s : State) (q : HostQ) (n : Nat) (desc : List Byte) : Option (BitVec 8 × BitVec 16) :=
  let opc := Bytes.field desc 0 1
  let dep := Bytes.field desc 4 1
  if !commandCodes.contains opc then some (Status.invalidOpcode, 0)
  else
    match reservedAt desc with
    | some i => some (Status.invalidField, BitVec.ofNat 16 i)
    | none =>
      if 2 ^ q.sqLog2.toNat ≤ dep ∨ n < dep then some (Status.invalidField, 4)
      else if wantsNoJob opc && Bytes.field desc 6 2 != 0xFFFF then some (Status.invalidField, 6)
      else if s.sec.policy.requireIde && !s.sec.linkIde.secure && !s.sec.selIde.secure && !ideExempt desc then
        some (Status.notPermitted, 0x06)
      else none

/-- The status of the command that a flight depends on, once its record is written (R292). -/
def depStatus (q : HostQ) (f : Flight) : Option (BitVec 8) := if f.dep = 0 then some Status.ok else q.ended.find? (f.n - f.dep)

/-- A FENCE of the queue has not completed (R316). -/
def fenceOpen (q : HostQ) : Bool := q.waiting.any fun r => r.fence

/-- The first command of the queue that has not started (R312). -/
def front (q : HostQ) : Option Flight := q.flights.find? fun f => !f.started

/-- A command of queue `q` completes: its record waits to be written (R311, R313), with device time now. -/
def complete (s : State) (q : Nat) (f : Flight) (status : BitVec 8) (detail : BitVec 16) (r0 : BitVec 32) (r1 : BitVec 64) :
    State :=
  let r : Record :=
    { n := f.n, fence := f.opc == 0x25, cid := f.cid, status := status, detail := detail, tag := f.tag, r0 := r0, r1 := r1,
      time := s.now, irq := f.irq, held := false, fix := if f.opc == 0x2A then some f.job else none }
  s.modQueue q fun h =>
    { h with
      flights := h.flights.filter fun g => g.n != f.n
      waiting := h.waiting ++ [r]
      fenceFails := if Status.runs status then h.fenceFails else h.fenceFails + 1 }

/-- A FENCE while an earlier command of its stream has not completed: it completes after them, however it ends (R316). -/
def fenceEarly (h : HostQ) (f : Flight) : Bool := f.opc == 0x25 && h.flights.any fun g => decide (g.n < f.n)

/-- Commands whose turn has come and that will not run complete, in submission order: those that their checks refused or that
R300 stopped, and those that depend on a failed command (R292, R319). A FENCE among them waits for the commands before it (R316). -/
def advance (q : Nat) : Nat → State → State
  | 0, s => s
  | k + 1, s =>
    let h := s.queue q
    if fenceOpen h then s
    else
      match front h with
      | none => s
      | some f =>
        if fenceEarly h f then s
        else match f.refused with
        | some (st, det) => advance q k (s.complete q f st det 0 0)
        | none =>
          match depStatus h f with
          | some st => if Status.runs st then s else advance q k (s.complete q f Status.skipped 0 0 0)
          | none => s

/-- Let the stream of queue `q` go on. -/
def stream (s : State) (q : Nat) : State := advance q ((s.queue q).flights.length) s

/-- Complete a command and let its stream go on. -/
def finish (s : State) (q : Nat) (f : Flight) (status : BitVec 8) (detail : BitVec 16) (r0 : BitVec 32) (r1 : BitVec 64) :
    State :=
  (s.complete q f status detail r0 r1).stream q

/-- Complete OK. -/
def finishOk (s : State) (q : Nat) (f : Flight) (r0 : BitVec 32) (r1 : BitVec 64) : State := s.finish q f Status.ok 0 r0 r1

/-- Complete with a failure that carries no result. -/
def refuse (s : State) (q : Nat) (f : Flight) (status : BitVec 8) (detail : Nat) : State :=
  s.finish q f status (BitVec.ofNat 16 detail) 0 0

/-- The in-flight command that holds a tag, with its queue. -/
def flightOf (s : State) (t : Tag) : Option (Nat × Flight) :=
  (List.range 8).findSome? fun q => ((s.queue q).flights.find? fun f => f.tag == t).map fun f => (q, f)

/-- A command may start: the device is READY, it is the first of its stream that has not started, the command it depends on
has completed so that it may run, no earlier FENCE is open, and (`host`) TLPs may leave the module. -/
def mayStart (s : State) (q : Nat) (f : Flight) (host : Bool) : Bool :=
  let h := s.queue q
  s.bar.mode == .ready && (front h == some f) && f.refused.isNone && !fenceOpen h &&
  (match depStatus h f with | some st => Status.runs st | none => false) && !(host && s.ideStall)

/-- Mark a command started (R311). -/
def markStarted (s : State) (q : Nat) (f : Flight) : State :=
  s.modQueue q fun h => { h with flights := h.flights.map fun g => if g.n == f.n then { g with started := true } else g }

/-- Run the in-flight command of a tag if it is of this code and may start; `body` gets its queue and descriptor. -/
def runCmd (s : State) (t : Tag) (opc : Nat) (host : Bool) (body : State → Nat → Flight → State) : State :=
  match s.flightOf t with
  | none => s
  | some (q, f) =>
    if f.opc == opc && s.mayStart q f host then (body (s.markStarted q f) q f).stream q else s

/-- A range of host memory holds undefined bytes: a failed command was to write it (R314). -/
def spoilRange (s : State) (h n : Nat) : State :=
  let (bs, s) := s.drawBytes n
  s.hostPut h bs

/-- The same at a command's HADDR; a misaligned one is no destination. -/
def spoilHost (s : State) (h n : Nat) : State := if h % 64 ≠ 0 then s else s.spoilRange h n

/-- Run a command whose host accesses the environment answers: its bytes stand in host memory first, and a failed access
completes it HOST_DMA_ERROR (Table 7-7), after `spoil` has left undefined bytes in the command's destination (R314). -/
def runHostCmd (s : State) (t : Tag) (opc : Nat) (x : Env) (body : State → Nat → Flight → State)
    (spoil : State → Flight → State := fun s _ => s) : State :=
  s.runCmd t opc true fun s q f =>
    match x.hostErr with
    | some e => (spoil s f).refuse q f Status.hostDmaError e.toNat
    | none => body (s.withEnv x) q f

/-- Objects that the commands in flight hold references on while they wait (R166). -/
def heldObjs (s : State) : List Nat := (List.range 8).flatMap fun q => (s.queue q).flights.flatMap fun f => f.holds

/-- References on an object (R166): the entries, promotions, writes, queries and pins that hold one, and the commands that wait. -/
def refsOf (s : State) (oid : Nat) (o : Obj) : Nat := o.refs + s.heldObjs.count oid

/-- A command that has started and must wait holds references on the objects that it names until it completes (R166). -/
def holdObjs (s : State) (q : Nat) (f : Flight) (oids : List Nat) : State :=
  s.modQueue q fun h => { h with flights := h.flights.map fun g => if g.n == f.n then { g with holds := oids } else g }

/-- Complete the command of a queue and tag, wherever it is, if it is still in flight. -/
def finishTag (s : State) (t : Option (QueueId × Tag)) (status : BitVec 8) (detail : Nat) (r0 : BitVec 32) (r1 : BitVec 64) :
    State :=
  match t with
  | none => s
  | some (q, t) =>
    match (s.queue q).flights.find? fun f => f.tag == t with
    | some f => s.finish q f status (BitVec.ofNat 16 detail) r0 r1
    | none => s

/-! ## Queue errors, enable and disable -/

/-- A queue enters an error state (Table 7-4). -/
def queueError (s : State) (q : Nat) (code : BitVec 4) : State :=
  ((s.modQueue q fun h => { h with error := code, err := true, errCnt := Word.satInc h.errCnt }).occur
    (barKey (0x1020 + 0x80 * q)) 32).raiseCause .qerr

/-- A disabled queue whose last record has been posted reads ENABLED = 0 (R286). -/
def drainOff (s : State) (q : Nat) : State :=
  s.modQueue q fun h =>
    if h.enabled && h.draining && h.flights.isEmpty && h.waiting.isEmpty then { h with enabled := false, draining := false } else h

/-- ENABLE = 1: the firmware checks the registers and starts the queue, or sets ERROR to CONFIG (R285). A queue that still drains goes on
draining, and what it had not fetched is never fetched (R286). DESIGN CHOICE (log 90): it then reads ENABLED = 0 until ENABLE = 1 is
written once more. -/
def enableQueue (s : State) (q : Nat) : State :=
  let s := (s.modQueue q fun h => { h with enable := true }).pulse (0x108 + q)
  let h := s.queue q
  if s.bar.mode ≠ .ready ∨ h.enabled then s
  else
    let sizes := decide (1 ≤ h.sqLog2.toNat ∧ h.sqLog2.toNat ≤ 8 ∧ 1 ≤ h.cqLog2.toNat ∧ h.cqLog2.toNat ≤ 8)
    if sizes && h.sqBase != 0 && h.cqBase != 0 then
      s.modQueue q fun h =>
        { h with
          enabled := true, draining := false, error := 0, phase := true, cqTail := 0, tail := 0, fetchPos := 0, head := 0, fetched := 0
          flights := [], ended := Tbl.empty, waiting := [], unsig := 0, unsigAt := 0, fenceFails := 0 }
    else s.queueError q 3

/-- ENABLE = 0 stops fetching (R286). -/
def disableQueue (s : State) (q : Nat) : State :=
  let s := (s.modQueue q fun h => { h with enable := false, draining := h.enabled }).pulse (0x108 + q)
  if s.bar.mode = .ready then s.drainOff q else s

/-- A tail doorbell (R287). -/
def tailDb (s : State) (q : Nat) (tail : BitVec 8) : State :=
  let s := s.pulse (0x100 + q)
  let h := s.queue q
  if !h.enabled then s.modQueue q fun h => { h with igndbCnt := Word.satInc h.igndbCnt }
  else if 2 ^ h.sqLog2.toNat ≤ tail.toNat then s.queueError q 1
  else s.modQueue q fun h => { h with tail := tail.toNat }

/-- A head doorbell (R287, R288). -/
def headDb (s : State) (q : Nat) (head : BitVec 8) : State :=
  let s := s.pulse (0x108 + q)
  let h := s.queue q
  if !h.enabled then s.modQueue q fun h => { h with igndbCnt := Word.satInc h.igndbCnt }
  else if 2 ^ h.cqLog2.toNat ≤ head.toNat then s.queueError q 1
  else s.modQueue q fun h => { h with head := head.toNat }

/-- Entering FATAL, HALTED or RESETTING, and a function-level reset, stop every queue: commands in flight get no record (R283). -/
def stopQueues (s : State) : State :=
  { s with queues := s.queues.map fun h =>
      { h with enabled := false, draining := false, flights := [], waiting := [], ended := Tbl.empty, unsig := 0 } }

/-! ## Fetch and posting -/

/-- Commands of a queue in flight: tags it holds (R290). -/
def inFlight (h : HostQ) : Nat := h.flights.length + h.waiting.length

/-- Tags in use by every queue. -/
def tagsUsed (s : State) : List Tag :=
  (List.range 8).flatMap fun q =>
    let h := s.queue q
    h.flights.map (·.tag) ++ h.waiting.map (·.tag)

/-- Tags held in reserve for the enabled queues with fewer than sixteen commands in flight (R290). -/
def reserved (s : State) : Nat :=
  ((List.range 8).map fun q =>
    let h := s.queue q
    if h.enabled then 16 - inFlight h else 0).foldl (· + ·) 0

/-- A tag for queue `q`: from its reserve, or from the shared tags when its own reserve is used (R290). -/
def tagFor (s : State) (q : Nat) : Option Tag :=
  let used := s.tagsUsed
  if inFlight (s.queue q) < 16 ∨ used.length + s.reserved < 1024 then
    (List.range 1024).findSome? fun i =>
      if h : i < 1024 then (let t : Tag := ⟨i, h⟩; if used.contains t then none else some t) else none
  else none

/-- Whether queue `q` has a descriptor that the firmware may fetch now, and a tag for it. -/
def fetchable (s : State) (q : Nat) : Bool :=
  let h := s.queue q
  s.bar.mode == .ready && h.enabled && h.enable && !h.draining && h.error == 0 && !s.bar.d3 && h.fetchPos != h.tail && !s.ideStall &&
  !s.sec.ownerHold && (s.tagFor q).isSome

/-- Whether it is queue `q`'s turn (R290): the firmware is at it and has fetched fewer than eight in this visit, or goes on to it in
round-robin order, past queues from which it may fetch nothing. A visit ends with eight descriptors or with nothing left to fetch. -/
def itsTurn (s : State) (q : Nat) : Bool :=
  let cur := s.visit.1.val
  let rest := decide (s.visit.2 < 8) && s.fetchable cur
  if rest then q == cur
  else ((List.range 8).map fun i => (cur + 1 + i) % 8).find? s.fetchable == some q

/-- The visit that a fetch from queue `q` belongs to (R290). -/
def visited (s : State) (q : Nat) : State :=
  { s with visit := if s.visit.1.val = q ∧ s.visit.2 < 8 then (s.visit.1, s.visit.2 + 1) else (Fin.ofNat 8 q, 1) }

/-- Fetch one descriptor of queue `q` in its turn (R287, R290, R291); an ownership change that waits for the commands in flight stops
fetching on every queue (R345). -/
def fetchCommand (s : State) (q : Nat) (x : Env) : State :=
  let h := s.queue q
  if s.fetchable q && s.itsTurn q then
    let s := s.visited q
    match s.tagFor q with
    | none => s
    | some t =>
      if x.hostErr.isSome then s.queueError q 2
      else
        let s := s.withEnv x
        let desc := s.hostBytes (h.sqBase.toNat * 4096 + 64 * h.fetchPos) 64
        let f : Flight :=
          { n := h.fetched, tag := t, desc := desc, started := false, refused := s.fetchCheck h h.fetched desc, taken := s.now }
        (s.modQueue q fun h =>
          { h with
            fetchPos := (h.fetchPos + 1) % 2 ^ h.sqLog2.toNat
            fetched := h.fetched + 1
            flights := h.flights ++ [f] }).stream q
  else s

/-- The 32 bytes of a record (Table 7-6). -/
def recordBytes (q : Nat) (h : HostQ) (r : Record) : List Byte :=
  Bytes.ofNat 2 r.cid.toNat ++ Bytes.ofNat 1 h.fetchPos ++ Bytes.ofNat 1 (q + 128 * Bytes.ofBool h.phase) ++
  Bytes.ofNat 1 r.status.toNat ++ Bytes.zeros 1 ++ Bytes.ofNat 2 r.detail.toNat ++ Bytes.ofNat 2 r.tag.val ++ Bytes.zeros 2 ++
  Bytes.ofNat 4 r.r0.toNat ++ Bytes.ofNat 8 r.r1.toNat ++ Bytes.ofNat 8 r.time.toNat

/-- Send the queue's vector for its unsignalled records (R289). Vector 0 is reserved for INT_CAUSE (R282). DESIGN CHOICE (log 90): a queue
whose VECTOR is 0 sends none. -/
def signal (s : State) (q : Nat) : State :=
  let t := s.modQueue q fun h => { h with unsig := 0 }
  if (s.queue q).vector = 0 then t else t.sendMsix (s.queue q).vector

/-- Count one written record for the queue's coalescing, or signal it at once (R289). -/
def coalesce (s : State) (q : Nat) (r : Record) : State :=
  let h := s.queue q
  let s := s.modQueue q fun h => { h with unsig := h.unsig + 1, unsigAt := if h.unsig = 0 then s.ns else h.unsigAt }
  if r.irq || r.status != Status.ok || decide (max 1 h.imodCount.toNat ≤ h.unsig + 1) then s.signal q else s

/-- The queue with every waiting record marked as held, each counted once in Q_HOLD_CNT (R288). -/
def holdWaiting (h : HostQ) : HostQ :=
  { h with
    waiting := h.waiting.map fun r => { r with held := true }
    holdCnt := Word.satAdd h.holdCnt (h.waiting.filter fun r => !r.held).length }

/-- The record of an OBJ_EVICT of the present control cycle: a promotion of the same cycle is handled before the eviction (R168), so its
status is known when the cycle ends. -/
def evictOpen (s : State) (q : Nat) (r : Record) : Bool := s.evicts.any fun v => v.queue.val == q && v.n == r.n

/-- Write the oldest waiting record of queue `q` if the completion ring has room (R288); a record that finds none waits and is
counted once, and so is each record behind it. -/
def postRecord (s : State) (q : Nat) : State :=
  let h := s.queue q
  if s.bar.mode = .ready ∧ h.enabled ∧ s.bar.d3 = false ∧ s.ideStall = false then
    match h.waiting with
    | [] => s
    | r :: rest =>
      if s.evictOpen q r then s else
      let size := 2 ^ h.cqLog2.toNat
      if (h.cqTail.toNat + 1) % size = h.head then
        s.modQueue q holdWaiting
      else
        let slot := h.cqTail.toNat
        let s := s.hostPut (h.cqBase.toNat * 4096 + 32 * slot) (recordBytes q h r)
        let s := s.emit (.record (Fin.ofNat 8 q) slot r h.phase)
        let next := (slot + 1) % size
        let s := s.modQueue q fun h =>
          { h with
            waiting := rest
            cqTail := BitVec.ofNat 8 next
            phase := if next = 0 then !h.phase else h.phase
            ended := h.ended.put r.n r.status }
        ((s.coalesce q r).drainOff q).stream q
  else s

end State

/-! ## Meanings -/

/-- A write of the host to a register of BAR0 reaches it only while BAR0 is served (R378). -/
def State.ifServed (s : State) (act : State → State) : State := if s.barServed then act s else s

/-- Q_CTRL_ENABLE (R285). -/
def execQCtrlEnable (q : QueueId) (s : State) : Host.Outcome State Fault Refusal := .next (s.ifServed fun s => s.enableQueue q.val)

/-- Q_CTRL_DISABLE (R286). -/
def execQCtrlDisable (q : QueueId) (s : State) : Host.Outcome State Fault Refusal := .next (s.ifServed fun s => s.disableQueue q.val)

/-- Q_SQ_TAIL_DB (R287). -/
def execQSqTailDb (q : QueueId) (tail : BitVec 8) (s : State) : Host.Outcome State Fault Refusal :=
  .next (s.ifServed fun s => s.tailDb q.val tail)

/-- Q_CQ_HEAD_DB (R287, R288). -/
def execQCqHeadDb (q : QueueId) (head : BitVec 8) (s : State) : Host.Outcome State Fault Refusal :=
  .next (s.ifServed fun s => s.headDb q.val head)

/-- COMMAND_FETCH (R287, R290 to R292). -/
def execCommandFetch (q : QueueId) (x : Env) (s : State) : Host.Outcome State Fault Refusal := .next (s.fetchCommand q.val x)

/-- CQ_RECORD_POST (R288, R289). -/
def execCqRecordPost (q : QueueId) (s : State) : Host.Outcome State Fault Refusal := .next (s.postRecord q.val)

/-- IMOD_TIMER: IMOD_TIME microseconds after the oldest unsignalled record (R289). -/
def execImodTimer (q : QueueId) (s : State) : Host.Outcome State Fault Refusal :=
  let h := s.queue q.val
  if 0 < h.unsig ∧ h.unsigAt + 1000 * max 1 h.imodTime.toNat ≤ s.ns then .next (s.signal q.val) else .next s

end Sys2Proof.Machine
end

