-- ==== Sys2Proof/Machine/Memory.lean ====
section
/-!
DEFINITION. The memory and flash dies' own events (R149 to R164): patrol scrub, calibration, parity rebuild, background work of
flash, the device area, and the slots of Table 4-9.
-/
namespace Sys2Proof.Machine

/-- Nanoseconds in an hour. -/
def hourNs : Nat := 3600000000000

namespace FlashDie
/-- Free blocks are below FLD_RESERVE.FLOOR (R163). -/
def belowFloor (f : FlashDie) : Bool := decide (f.freeBlocks.toNat * 1000 < f.floor.toNat * f.blocks)
/-- FLD_STATUS.BG_ACTIVE: free blocks are below FLD_RESERVE.LOW (R163). -/
def bgActive (f : FlashDie) : Bool := decide (f.freeBlocks.toNat * 1000 < f.low.toNat * f.blocks)
end FlashDie

/-- Bytes of a new generation that a write brings (R298): OFFSET + LEN of a whole one, else those of the range. -/
def PendingWrite.takes (w : PendingWrite) : Nat := if w.whole then w.offset + w.len else w.len

namespace State

/-- Flash channels in service on the four dies. -/
def flashChannels (s : State) : Nat := ((List.range 4).map fun f => popcount (s.flash f).channels).foldl (· + ·) 0

/-- Usable flash in bytes (R158, R161, Table 0-1): raw × 7/8, less 1/14 of that, less the share of channels out of service. -/
def flashUsable (s : State) : Nat :=
  (if Config.variant64 then 52000000000000 else 26000000000000) * s.flashChannels / 32

/-- Bytes of flash in use: every flash-home object, and the generations not yet committed, in whole units. -/
def flashUsed (s : State) : Nat :=
  let round (n : Nat) : Nat := Word.roundUp n unitBytes
  (s.objs.vals.map fun o =>
    if o.home = .flash then
      round o.len + (o.writes.map fun w => if w.began then round w.takes else 0).foldl (· + ·) 0 +
      (if o.next.isSome then round o.len else 0)
    else 0).foldl (· + ·) 0

/-- Bytes of the device area of memory die `m` besides placed copies (R156): 1 GiB, the translation tables of the flash die with
the same number (8 bytes a stripe unit, R162), and what jobs and images reserve. -/
def areaBytes (s : State) (m : Nat) : Nat :=
  0x40000000 + (if Config.variant64 then 52000000000000 else 26000000000000) / unitBytes / 4 * 8 +
  ((s.memDie m).area.map Prod.snd).foldl (· + ·) 0

/-- Allocating-view address at which the device area of die `m` begins. -/
def areaBase (s : State) (m : Nat) : Nat := m * dieSpan + ((s.memDie m).capacity - s.areaBytes m)

/-- Whether `n` bytes at an allocating-view address touch the die's device area: its top, or a placed copy (R156, R298). -/
def inArea (s : State) (a n : Nat) : Bool :=
  let m := a / dieSpan
  decide (s.areaBase m < a + n) || (s.memDie m).copies.any fun c => decide (c.1 < a + n ∧ a < c.1 + c.2)

/-! ## Scrub -/

/-- The next patrol-scrub read of die `m` (R154): a 64-byte unit; at the end of the region a new pass begins. -/
def scrubNext (s : State) (m : Nat) : State :=
  s.modMem m fun d =>
    if d.scrubPos.toNat + 64 < d.capacity then { d with scrubPos := d.scrubPos + 64 }
    else { d with scrubPos := 0, scrubStart := s.now, overdueHrs := 0 }

/-- Hours of the current scrub pass (R155). -/
def scrubHours (s : State) (m : Nat) : Nat := (s.ns - (s.memDie m).scrubStart.toNat) / hourNs

/-! ## Failed rebuilds (R160, R192) -/

/-- An object becomes POISONED (R192, Table 4-8): its promotion, if any, ends, and its copy is dropped, every byte of which reads
poisoned from now on. -/
def poisonObject (s : State) (oid : Nat) (o : Obj) (bad : Tbl Bool) : State :=
  let s := match o.resident with
    | some r => (if o.mode = ObjMode.resident then s.poisonRange r o.len else s).freeCopy r
    | none => s
  let o' : Obj :=
    { o with mode := .poisoned, resident := none, bad := bad, promoteTags := [],
             refs := if o.mode = .promoting then o.refs - 1 else o.refs }
  { s with objs := s.objs.put oid o' }

/-- Whether a launched entry reads a unit of an object; a promotion reads the whole object. -/
def unitRead (oid unit : Nat) (p : Placed) : Bool :=
  p.launched && p.e.src.toNat == oid &&
  (p.e.kind == 2 || (p.e.srcObj && p.e.kind != 1 && (unitsOf p.e.offset.toNat p.e.len.toNat).contains unit))

/-- The launched Almanac entry whose own flash read met the failed rebuild of a unit of an object: the earliest placed of those
that read it (R116, R191). -/
def blameEntry (s : State) (oid unit : Nat) : State :=
  match s.alm.table.find? (unitRead oid unit) with
  | none => s
  | some p =>
    s.modAlm fun a => { a with table := a.table.map fun q => if q.id == p.id then { q with rebuildFailed := true } else q }

/-- The launched entries that read a unit have met its rebuild (R160, R189). -/
def metRebuild (s : State) (oid unit : Nat) : State :=
  s.modAlm fun a => { a with table := a.table.map fun p => if unitRead oid unit p then { p with rebuilding := true } else p }

end State

/-! ## Outstanding limits (R170, R172) -/

namespace AlmEntry
/-- KIND of an entry (Table 4-4). -/
def isBack (e : AlmEntry) : Bool := e.kind == 1
/-- A promotion. -/
def isPromote (e : AlmEntry) : Bool := e.kind == 2
/-- The source is an object. -/
def fromObj (e : AlmEntry) : Bool := e.isPromote || (e.srcObj && !e.isBack)
end AlmEntry

/-- A small transfer (R170): between host memory and the device it takes the short path, never a bulk engine. -/
def smallTransfer (n : Nat) : Bool := decide (n ≤ 256)

/-- A slot of Table 4-9: a DRAM read of a memory die, a page read of a channel of a flash die, a host transfer on the short path or a
bulk engine. -/
inductive Slot where
  | dram (m : Nat) | page (f ch : Nat) | host (short : Bool)
  deriving DecidableEq, Repr

namespace State

/-- Slots that a transfer of `n` bytes at a device address takes first. -/
def addrSlots (s : State) (a n : Nat) : List Slot :=
  match s.placeOf a with
  | .dram m _ _ => [.dram m]
  | .window _ _ => [.host (smallTransfer n)]
  | _ => []

/-- Slots that a read of `n` bytes at `off` of an object takes first, where its reads are served. -/
def objSlots (s : State) (oid : Nat) (o : Obj) (off n : Nat) : List Slot :=
  match o.mode, o.resident with
  | .poisoned, _ => []
  | .resident, some r => [.dram (r / dieSpan)]
  | _, _ =>
    match o.home with
    | .dram => [.dram (o.addr / dieSpan)]
    | .host => [.host (smallTransfer n)]
    | .flash =>
      let p := off / pageBytes
      match (s.flash (p / 7 % 4)).pageAt (unitKey oid (p / 7)) (p % 7) with
      | some (_, ch) => [.page (p / 7 % 4) ch]
      | none => []

/-- Slots of an Almanac entry: of its first read, and of its way to host memory. -/
def entrySlots (s : State) (e : AlmEntry) : List Slot :=
  let src :=
    if e.fromObj then
      (match s.obj? e.src.toNat with
       | some o => if e.isPromote then s.objSlots e.src.toNat o 0 o.len else s.objSlots e.src.toNat o e.offset.toNat e.len.toNat
       | none => [])
    else s.addrSlots e.src.toNat e.len.toNat
  let out := match s.placeOf e.dst.toNat with
    | .window _ _ => if e.isBack then [] else [.host (smallTransfer e.len.toNat)]
    | _ => []
  src ++ out

/-- Slots in use. DESIGN CHOICE (log 83): each launched entry and each promotion by a command holds the slots of its first read until
it ends. -/
def heldSlots (s : State) : List Slot :=
  (s.alm.table.filter (·.launched)).flatMap (fun p => s.entrySlots p.e) ++
  s.objs.entries.flatMap fun p => if p.2.mode = .promoting ∧ p.2.promoteTags ≠ [] then s.objSlots p.1 p.2 0 p.2.len else []

/-- Whether every slot of a list is free (Table 4-9). -/
def slotsFree (s : State) (ws : List Slot) : Bool :=
  ws.isEmpty ||
  (let held := s.heldSlots
   ws.all fun w =>
    match w with
    | .dram _ => decide (held.count w < 256)
    | .page f _ => decide (held.count w < 16) && decide ((held.filter fun h => match h with | .page g _ => g == f | _ => false).length < 128)
    | .host short => decide (held.count w < (if short then 64 else 128)))

end State

/-! ## Meanings -/

/-- PATROL_SCRUB: one read of patrol scrub (R154, R155, R193). -/
def execPatrolScrub (m : MemId) (r : ScrubResult) (s : State) : Host.Outcome State Fault Refusal :=
  let d := s.memDie m.val
  if d.capacity = 0 then .next s
  else
    let unit := m.val * dieSpan + d.scrubPos.toNat
    match r with
    | .clean => .next (s.scrubNext m.val)
    | .corrected ch => .next ((s.dramCe m.val ch.val).scrubNext m.val)
    | .uncorrectable => .next ((s.dramUe unit).scrubNext m.val)

/-- SCRUB_OVERDUE: a pass that has not completed 24 h after it began, and at every further 24 h (R155). -/
def execScrubOverdue (m : MemId) (s : State) : Host.Outcome State Fault Refusal :=
  let d := s.memDie m.val
  if d.capacity = 0 ∨ s.scrubHours m.val < d.overdueHrs + 24 then .next s
  else
    let s := s.modMem m.val fun d =>
      { d with overdue := true, ovdCnt := Word.satInc d.ovdCnt, overdueHrs := d.overdueHrs + 24 }
    let s := s.occur (regKey 5 m.val 0) 1
    let s := s.pulse (0x0E4 + m.val)
    .next (s.event 0x0070 0x02 m.val true 0xFF 0xFFFF
      (Bytes.ofNat 8 (s.scrubHours m.val) ++ Bytes.ofNat 8 (d.capacity - d.scrubPos.toNat)))

/-- PARITY_REBUILD: a rebuild of a page of a stripe unit reads the other pages of its stripe, succeeds, is counted and relocates the stripe
where a program may begin, or fails and poisons the object (R160, R163, R192); which page it is, is a free value. A POISONED object is read
without a flash access, and one whose first generation has not committed has no page to read. -/
def execParityRebuild (oid : BitVec 32) (unit : Nat) (rebuilt : Bool) (s : State) : Host.Outcome State Fault Refusal :=
  let f := unit % 4
  match s.objs.find? oid.toNat with
  | none => .next s
  | some o =>
    if o.home = .flash ∧ o.committed = true ∧ o.mode ≠ .poisoned ∧ o.mode ≠ .writing ∧ unit * unitBytes < o.len then
      let (k, s) := s.drawNat
      let s := (s.modFlash f fun d => d.readOthers (unitKey oid.toNat unit) (k % 7)).metRebuild oid.toNat unit
      if rebuilt then
        let s := s.modFlash f fun d => { d with rebuildCnt := Word.satInc d.rebuildCnt }
        if s.mayProgram then .next ((s.takeBlocks f).moveUnit oid.toNat unit) else .next s
      else
        let tags := o.promoteTags
        let s := s.blameEntry oid.toNat unit
        let s := s.poisonObject oid.toNat o (o.bad.set false (unit * unitBytes) true)
        let s := s.modFlash f fun d => { d with poison := true, poisonCnt := Word.satInc d.poisonCnt }
        let s := s.occur (regKey 6 f 0) 9
        let s := s.event 0x0033 0x03 f true 0xFF 0xFFFF
          (Bytes.ofNat 4 oid.toNat ++ Bytes.zeros 4 ++ Bytes.ofNat 8 (unit * unitBytes))
        .next (tags.foldl (fun s t => s.finishTag (some t) Status.poisoned 0 0 0) s)
    else .next s

/-- FLASH_BACKGROUND_WORK: collection erases blocks, wear levelling and use raise the wear figures, a block that is due is refreshed
(R163, R164). It begins no program or erase while WP_N is asserted or a power-fail sequence runs (R437, R448). -/
def execFlashBackgroundWork (f : FlashId) (w : FlashWork) (s : State) : Host.Outcome State Fault Refusal :=
  if s.mayProgram = false then .next s
  else match w with
  | .collect n =>
    .next (s.modFlash f.val fun d => { d with freeBlocks := BitVec.ofNat 32 (min d.blocks (d.freeBlocks.toNat + n.toNat)) })
  | .wearLevel hi used =>
    .next (s.modFlash f.val fun d =>
      { d with wearMax := if d.wearMax.toNat < hi.toNat then hi else d.wearMax
               wearUsed := if d.wearUsed.toNat < used.toNat then used else d.wearUsed })
  | .refresh =>
    if (s.flash f.val).refreshDue.isNone then .next s else .next ((s.takeBlocks f.val).modFlash f.val fun d => d.refresh f.val)

/-- FLASH_WRITE_RESUME: writes of the die that waited below FLOOR proceed once it has free blocks again (R163). -/
def execFlashWriteResume (f : FlashId) (s : State) : Host.Outcome State Fault Refusal :=
  if (s.flash f.val).belowFloor then .next s else .next (s.modFlash f.val fun d => { d with waiting := false })

/-- REFRESH_AND_CALIBRATION: refresh and calibration take precedence over requests and change no state that the part shows
(R154). -/
def execRefreshAndCalibration (_m : MemId) (_channel : Fin 4) (s : State) : Host.Outcome State Fault Refusal := .next s

end Sys2Proof.Machine
end

