-- ==== Sys2Proof/Machine/Objects.lean ====
section
/-!
DEFINITION. The object map (R157 to R169, R192, R193, R298, R315, R327, Table 4-8): reading, writing, references, deferral,
promotion and eviction, and the object commands of Table 7-9.
-/
namespace Sys2Proof.Machine

namespace Obj
/-- An object that OBJ_CREATE makes (R167). -/
def new (home : Home) (len addr : Nat) : Obj :=
  { home := home, len := len, gen := 0, mode := .writing, addr := addr, data := Tbl.empty, bad := Tbl.empty,
    committed := false, resident := none, refs := 0, evictPend := false, delPend := false, writes := [], next := none,
    promoteTags := [], created := len }
end Obj

namespace State

/-- Change the object with an identifier. -/
def modObj (s : State) (oid : Nat) (f : Obj → Obj) : State :=
  match s.objs.find? oid with
  | some o => { s with objs := s.objs.put oid (f o) }
  | none => s

/-- A sealed object (R361): in Owned-Debug-Unlocked, a flash-home object with a stripe unit that was written before the unlock, as the key
bits of its translation entries tell. -/
def sealedObj (s : State) (oid : Nat) (o : Obj) : Bool :=
  s.sec.mode == .debug && o.home == .flash && o.committed && (s.unitBits oid).any fun b => !b

/-! ## Reading and writing an object's bytes -/

/-- Cells of `n` bytes at `off` of a flash-home object's committed generation (R158, R167: zero where nothing was written). -/
def flashCells (o : Obj) (off n : Nat) : List Cell :=
  (List.range n).map fun i => (o.data.get 0 (off + i), o.bad.get false ((off + i) / unitBytes * unitBytes))

/-- Read cells of an object where its reads are served (Table 4-8), DRAM through the view that `view` is the base of (R152). Every byte
of a POISONED object reads poisoned without a flash access (R192), and what value it reads as is left open; a host read that fails brings
undefined bytes that read poisoned (R191). -/
def objRead (s : State) (x : Env) (view oid : Nat) (o : Obj) (off n : Nat) : List Cell × State :=
  match o.mode, o.resident with
  | .poisoned, _ =>
    let (bs, s) := s.drawBytes n
    (bs.map fun b => (b, true), s)
  | .resident, some r => s.load x Tbl.empty (view + r + off) n
  | _, _ =>
    match o.home with
    | .dram => s.load x Tbl.empty (view + o.addr + off) n
    | .flash => (flashCells o off n, s.flashRead oid off n)
    | .host =>
      if x.hostErr.isSome then
        (let (bs, s) := s.drawBytes n
         (bs.map fun b => (b, true), s))
      else (cleanCells (s.hostBytes (o.addr + off) n), s)

/-- Read cells of an object, DRAM through the allocating view. -/
def objCells (s : State) (x : Env) (oid : Nat) (o : Obj) (off n : Nat) : List Cell × State := s.objRead x 0 oid o off n

/-- Bytes of a table of object bytes after `bs` are written at `off`. -/
def putData (t : Tbl Byte) (off : Nat) : List Byte → Tbl Byte
  | [] => t
  | b :: bs => putData (t.set 0 off b) (off + 1) bs

/-- A generation's bytes after a write (R298): WHOLE starts from an object of zeros. -/
def writeData (o : Obj) (w : PendingWrite) : Tbl Byte := putData (if w.whole then Tbl.empty else o.data) w.offset w.bytes

/-- Length after a write (R298). -/
def writeLen (o : Obj) (w : PendingWrite) : Nat := if w.whole then w.offset + w.len else max o.len (w.offset + w.len)

/-- A flash write of `len` bytes at `off` begins: on a die below FLOOR it waits (R163). -/
def beginFlash (s : State) (off len : Nat) : State :=
  (diesOf off len).foldl (fun s f => if (s.flash f).belowFloor then s.modFlash f fun d => { d with waiting := true } else s) s

/-- Whether a flash write may end: no die that it touches holds it back. -/
def flashReady (s : State) (off len : Nat) : Bool := (diesOf off len).all fun f => !(s.flash f).waiting

/-- The bytes of a write reach the object's home: bytes 0 to OFFSET − 1 of a whole write are zero (R298). -/
def applyWrite (s : State) (o : Obj) (w : PendingWrite) : State :=
  let lead : List Byte := if w.whole then Bytes.zeros w.offset else []
  let at_ := if w.whole then 0 else w.offset
  match o.home with
  | .dram => s.store Tbl.empty (o.addr + at_) (cleanCells (lead ++ w.bytes))
  | .host => s.hostWrite (o.addr + at_) (cleanCells (lead ++ w.bytes))
  | .flash => (diesOf w.offset w.len).foldl takeBlocks s

/-! ## References and deferral (R166, R168) -/

/-- Take a reference. -/
def ref (s : State) (oid : Nat) : State := s.modObj oid fun o => { o with refs := o.refs + 1 }

/-- Release a reference; what waits for the count to reach zero takes effect by DEFERRED_TAKES_EFFECT. -/
def unref (s : State) (oid : Nat) : State := s.modObj oid fun o => { o with refs := o.refs - 1 }

/-- Drop an object's resident copy (R168, R169, R193), if it is RESIDENT. -/
def dropCopy (s : State) (oid : Nat) : State :=
  match s.obj? oid with
  | none => s
  | some o =>
    if o.mode ≠ .resident then s
    else
      let s := match o.resident with | some r => s.freeCopy r | none => s
      s.modObj oid Obj.dropCopy

/-- An object becomes FREE (Table 4-8). -/
def freeObj (s : State) (oid : Nat) : State :=
  let s := (s.dropCopy oid).unmapUnits oid
  { s with objs := s.objs.drop oid }

/-- A write takes effect: it holds a reference until it commits (R166), and its bytes have been read from the host. -/
def beginWrite (s : State) (oid : Nat) (w : PendingWrite) : State :=
  let onFlash : Bool := match s.obj? oid with
    | some o => o.home == .flash
    | none => false
  let s : State := if onFlash then s.beginFlash w.offset w.len else s
  s.modObj oid fun o => { o with refs := o.refs + 1, writes := o.writes.filter (fun v => v.began) ++ [{ w with began := true }] ++
                                                                (o.writes.filter fun v => !v.began) }

/-- A pending eviction is withdrawn, with its event record (R168). -/
def withdraw (s : State) (oid : Nat) : State :=
  match s.obj? oid with
  | some o =>
    if o.evictPend then (s.modObj oid fun o => { o with evictPend := false }).fwEvent 0x0031 true 0xFFFF (Bytes.ofNat 4 oid) else s
  | none => s

/-- The eviction of an object that has reached it in the present control cycle (R168). -/
def evictOf (s : State) (oid : Nat) : Option Evict := s.evicts.find? fun v => v.oid == oid

/-- A promotion reaches an object (R168): it withdraws a pending eviction; an eviction of the same control cycle is handled after it, so
what it withdraws then is only what was pending before that one. -/
def promoteReaches (s : State) (oid : Nat) : State :=
  match s.evictOf oid with
  | none => s.withdraw oid
  | some v =>
    if v.pend then
      ({ s with evicts := s.evicts.map fun (w : Evict) => if w.oid == oid then { w with pend := false } else w }).fwEvent 0x0031 true 0xFFFF
        (Bytes.ofNat 4 oid)
    else s

/-- An eviction of the same control cycle meets the object as the promotion left it, PROMOTING (R168): it is pending, and its record,
which waits for the end of the cycle, says DEFERRED. -/
def evictFollows (s : State) (oid : Nat) : State :=
  match s.evictOf oid with
  | some v =>
    (s.modObj oid fun o => { o with evictPend := true }).modQueue v.queue.val fun h =>
      { h with waiting := h.waiting.map fun r => if r.n == v.n then { r with status := Status.deferred } else r }
  | none => s

/-- Complete several waiting commands. -/
def finishTags (s : State) (ts : List (QueueId × Tag)) (status : BitVec 8) (r1 : BitVec 64) : State :=
  ts.foldl (fun s t => s.finishTag (some t) status 0 0 r1) s

/-- A new generation of a flash-home object becomes current (R159, R162, R167, R169): its units `us` stand in the translation tables, the
copy of the old generation is dropped, and an object with poisoned units is POISONED (R192). -/
def newGeneration (s : State) (oid : Nat) (data : Tbl Byte) (bad : Tbl Bool) (len : Nat) (us : List Nat) : State :=
  let s := ((s.dropCopy oid).mapUnits oid us).modObj oid fun o =>
    { o with
      data := data, bad := bad, len := max o.len len, gen := o.gen + 1, committed := true, next := none
      mode := if o.writes.isEmpty ∧ (o.mode = .writing ∨ o.mode = .poisoned) then .home else o.mode }
  if bad.entries.isEmpty then s
  else match s.obj? oid with
    | some o => (s.poisonObject oid o bad).finishTags o.promoteTags Status.poisoned 0
    | none => s

/-- A HOME object's promotion begins (R168): it holds a reference; `tags` are the commands that wait for it. -/
def startPromotion (s : State) (oid a : Nat) (tags : List (QueueId × Tag)) : State :=
  (s.modObj oid fun o => { o with mode := .promoting, resident := some a, refs := o.refs + 1, promoteTags := tags }).evictFollows oid

/-- The copy of a promotion becomes visible (R168, Table 4-8): its bytes stand at its address, and the object is RESIDENT. A command's
promotion whose home read poisoned makes no copy (`keep` false): the object is back in HOME. An entry's delivery writes what it read even
when the read itself has made the object POISONED (R191). Tells whether it was poisoned. -/
def finishPromotion (s : State) (x : Env) (oid : Nat) (keep : Bool) : Bool × State :=
  match s.obj? oid with
  | none => (false, s)
  | some o =>
    let (cs, s) := s.objCells x oid o 0 o.len
    let bad := anyPoison cs
    let stays : Bool := match s.obj? oid with | some p => p.mode == .promoting | none => false
    if !stays then (bad, match keep, o.resident with | true, some r => s.store Tbl.empty r cs | _, _ => s)
    else if bad && !keep then
      let s := match o.resident with | some r => s.freeCopy r | none => s
      (true, s.modObj oid fun o => { o with mode := .home, resident := none, refs := o.refs - 1, promoteTags := [] })
    else
      let s := match o.resident with | some r => s.store Tbl.empty r cs | none => s
      (bad, s.modObj oid fun o => { o with mode := .resident, refs := o.refs - 1, promoteTags := [] })

/-- A promotion whose command a function-level reset ended without a record: neither a command nor an entry waits for it. -/
def orphaned (s : State) (oid : Nat) (o : Obj) : Bool :=
  o.mode == .promoting && o.promoteTags.isEmpty &&
  s.alm.table.all fun p => !(p.launched && p.e.isPromote && p.e.src.toNat == oid)

/-- The first deferred request of an object with no reference takes effect (R168, R315): its eviction, else its oldest write,
else its delete. DESIGN CHOICE (log 43): a promotion that outlives its command completes by the same event. DESIGN CHOICE (log 98): a
deferred write whose host read fails is dropped without a record. -/
def takeDeferred (s : State) (x : Env) (oid : Nat) : State :=
  match s.obj? oid with
  | none => s
  | some o =>
    if s.orphaned oid o then (s.finishPromotion x oid true).2
    else if s.refsOf oid o ≠ 0 then s
    else if o.evictPend then
      ((s.dropCopy oid).modObj oid fun o => { o with evictPend := false }).fwEvent 0x0030 true 0xFFFF (Bytes.ofNat 4 oid)
    else
      match o.writes.filter (fun w => !w.began) with
      | w :: rest =>
        let s := s.modObj oid fun o => { o with writes := o.writes.filter (fun v => v.began) ++ rest }
        if x.hostErr.isSome then s
        else
          let s := s.withEnv x
          s.beginWrite oid { w with bytes := s.hostBytes w.haddr.toNat w.len }
      | [] => if o.delPend then s.freeObj oid else s

/-- An object's write in progress commits (R159, R167, R169, R298): the oldest that has begun. -/
def commitWrite (s : State) (oid : Nat) : State :=
  match s.obj? oid with
  | none => s
  | some o =>
    match o.writes.filter (fun w => w.began) with
    | [] => s
    | w :: rest =>
      if o.home = .flash ∧ s.flashReady w.offset w.len = false then s
      else
        let s := s.applyWrite o w
        let s := if o.home ≠ .flash then s
          else if w.whole then (s.unmapUnits oid).mapUnits oid (unitsOf 0 (w.offset + w.len))
          else s.mapUnits oid (unitsOf w.offset w.len)
        let s := if o.home ≠ .dram then s.dropCopy oid else s
        let s := s.modObj oid fun p =>
          { p with
            writes := rest ++ o.writes.filter (fun v => !v.began)
            data := if o.home = .flash then writeData o w else p.data
            bad := if w.whole then Tbl.empty else p.bad
            len := writeLen o w
            gen := p.gen + 1
            mode := if p.mode = .writing ∨ (p.mode = .poisoned ∧ w.whole = true) then .home else p.mode
            committed := true
            refs := p.refs - 1 }
        match w.tag with
        | some t => s.finishTag (some t) Status.ok 0 0 0
        | none => s.fwEvent 0x0032 true 0xFFFF (Bytes.ofNat 4 oid ++ Bytes.zeros 4 ++ Bytes.ofNat 8 (o.gen + 1))

/-! ## Placing a resident copy (R298) -/

/-- Insert a span by its base. -/
def insertSpan (p : Nat × Nat) : List (Nat × Nat) → List (Nat × Nat)
  | [] => [p]
  | q :: qs => if p.1 ≤ q.1 then p :: q :: qs else q :: insertSpan p qs

/-- Free gaps between `lo` and `hi`, given used spans (base, end) in rising order of base. -/
def gaps (lo hi : Nat) : List (Nat × Nat) → List (Nat × Nat)
  | [] => if lo < hi then [(lo, hi)] else []
  | (b, e) :: rest =>
    let here := if lo < min b hi then [(lo, min b hi)] else []
    here ++ gaps (max lo e) hi rest

/-- Windows of every loaded job and group within the DRAM of die `m`, as allocating-view spans. -/
def mapSpans (s : State) (m : Nat) : List (Nat × Nat) :=
  let ws := (s.jobs.flatMap fun j => j.windows) ++ (s.groups.flatMap fun g => g.windows)
  ws.filterMap fun w =>
    let a := if w.base < 0x80000000000 then w.base % 0x40000000000 else w.base
    if w.base < 0x80000000000 ∧ a / dieSpan = m then some (a, a + w.len) else none

/-- Placed copies of die `m`. -/
def copySpans (s : State) (m : Nat) : List (Nat × Nat) := (s.memDie m).copies.map fun c => (c.1, c.1 + c.2)

/-- DRAM-home objects of die `m`. -/
def homeSpans (s : State) (m : Nat) : List (Nat × Nat) :=
  s.objs.vals.filterMap fun o => if o.home = .dram ∧ o.addr / dieSpan = m then some (o.addr, o.addr + o.len) else none

/-- Bytes of a list of spans. -/
def total (gs : List (Nat × Nat)) : Nat := (gs.map fun g => g.2 - g.1).foldl (· + ·) 0

/-- DRAM of die `m` that neither the device area nor the map of a loaded job uses. -/
def freeDram (s : State) (m : Nat) : Nat :=
  total (gaps (m * dieSpan) (s.areaBase m) ((s.mapSpans m ++ s.copySpans m).foldr insertSpan []))

/-- How many multiples of 256 in a gap can hold `n` bytes, and the first of them. -/
def slotsIn (n : Nat) (g : Nat × Nat) : Nat × Nat :=
  let first := Word.roundUp g.1 256
  (if first + n ≤ g.2 then (g.2 - first - n) / 256 + 1 else 0, first)

/-- The `k`-th multiple of 256 at which one of the gaps holds `n` bytes. -/
def slotAt (n : Nat) : List (Nat × Nat) → Nat → Option Nat
  | [], _ => none
  | g :: gs, k =>
    let (c, first) := slotsIn n g
    if k < c then some (first + 256 * k) else slotAt n gs (k - c)

/-- Dies in the order in which a copy is tried: most free DRAM first, the lowest-numbered among equals. -/
def dieOrder (s : State) : List Nat :=
  [0, 1, 2, 3].foldl (fun ds m =>
    (ds.takeWhile fun d => decide (s.freeDram m ≤ s.freeDram d)) ++ [m] ++
    (ds.dropWhile fun d => decide (s.freeDram m ≤ s.freeDram d))) []

/-- An address for a copy of `len` bytes (R298): the firmware chooses it within the die's free ranges, so a free value chooses
among them. -/
def placeCopy (s : State) (len : Nat) : Option (Nat × State) :=
  let n := Word.roundUp len 256
  s.dieOrder.findSome? fun m =>
    let gs := gaps (m * dieSpan) (s.areaBase m) ((s.mapSpans m ++ s.copySpans m ++ s.homeSpans m).foldr insertSpan [])
    let count := (gs.map fun g => (slotsIn n g).1).foldl (· + ·) 0
    if count = 0 then none
    else
      let (k, s) := s.drawNat
      (slotAt n gs (k % count)).map fun a => (a, s.modMem m fun d => { d with copies := d.copies ++ [(a, n)] })

/-- Whether `n` bytes at an address lie in the DRAM of one die. -/
def oneDram (s : State) (a n : Nat) : Bool :=
  match s.placeOf a, s.placeOf (a + n - 1) with
  | .dram m _ v, .dram k _ w => m == k && v == w && decide (0 < n)
  | _, _ => false

/-- A DRAM address in the allocating view. -/
def allocView (a : Nat) : Nat := a % 0x40000000000

/-- A promotion ends without a copy: the object returns to HOME and its reference is released. A command that waits for the copy begins its
own promotion when it goes on. -/
def endPromotion (s : State) (oid : Nat) : State :=
  match s.obj? oid with
  | none => s
  | some o =>
    if o.mode = .promoting then
      let s := match o.resident with | some r => s.freeCopy r | none => s
      s.modObj oid fun o => { o with mode := .home, resident := none, refs := o.refs - 1, promoteTags := [] }
    else s

/-- The promotion of an Almanac entry is cancelled (R186), if the object is on its way to the entry's DST. -/
def cancelPromotion (s : State) (e : AlmEntry) : State :=
  match s.obj? e.src.toNat with
  | some o => if o.resident = some (allocView e.dst.toNat) then s.endPromotion e.src.toNat else s
  | none => s

/-! ## Commands (Table 7-9) -/

/-- The lowest identifier that no object holds (R298). -/
def freeOid (s : State) : Nat := ((List.range (s.objs.keys.length + 1)).find? fun k => !s.objs.keys.contains (k + 1)).getD 0 + 1

/-- Home tier of a code. -/
def homeOf : Nat → Option Home
  | 0 => some .dram
  | 1 => some .flash
  | 2 => some .host
  | _ => none

/-- OBJ_CREATE (R157, R167, R298). -/
def objCreateCmd (s : State) (q : Nat) (f : Flight) : State :=
  let want := f.arg 8 4
  let len := f.arg 16 8
  let addr := f.arg 24 8
  if want = 0xFFFFFFFF then s.refuse q f Status.invalidField 8
  else
    match homeOf (f.arg 12 1) with
    | none => s.refuse q f Status.invalidField 12
    | some home =>
      let oid := if want = 0 then s.freeOid else want
      if len = 0 then s.refuse q f Status.invalidField 16
      else if home = .flash ∧ addr ≠ 0 then s.refuse q f Status.invalidField 24
      else if home = .host ∧ 2 ^ 64 < addr + len then s.refuse q f Status.invalidField 24
      else if (s.obj? oid).isSome then s.refuse q f Status.inUse 8
      else if home = .dram ∧ (addr % 64 ≠ 0 ∨ 0x40000000000 ≤ addr ∨ s.oneDram addr len = false ∨ s.inArea addr len = true) then
        s.refuse q f Status.mapViolation 24
      else if home = .flash ∧ s.flashUsable < s.flashUsed + Word.roundUp len unitBytes then s.refuse q f Status.noResource 4
      else
        let s := { s with objs := s.objs.put oid (Obj.new home len addr) }
        s.finishOk q f (BitVec.ofNat 32 oid) 0

/-- OBJ_WRITE (R168, R192, R298, R327, R361). -/
def objWriteCmd (s : State) (q : Nat) (f : Flight) : State :=
  let oid := f.arg 8 4
  let whole := Bytes.bit (f.arg 12 1) 0
  let off := f.arg 16 8
  let len := f.arg 24 8
  let ha := f.arg 32 8
  match s.obj? oid with
  | none => s.refuse q f Status.notFound 8
  | some o =>
    if off % 64 ≠ 0 then s.refuse q f Status.invalidField 16
    else if len = 0 then s.refuse q f Status.invalidField 24
    else if ha % 64 ≠ 0 then s.refuse q f Status.invalidField 32
    else if o.home ≠ .flash ∧ o.created < off + len then s.refuse q f Status.invalidField 24
    else if o.mode = .poisoned ∧ whole = false then s.refuse q f Status.poisoned 0
    else if s.sealedObj oid o ∧ whole = false then s.refuse q f Status.notPermitted 0x09
    else if o.home = .flash ∧
        (s.flashUsable < s.flashUsed + Word.roundUp (if whole then off + len else len) unitBytes ∨ s.flashUsable < off + len) then
      s.refuse q f Status.noResource 4
    else
      let w : PendingWrite :=
        { whole := whole, offset := off, len := len, haddr := BitVec.ofNat 64 ha, bytes := s.hostBytes ha len, began := false,
          tag := some (Fin.ofNat 8 q, f.tag) }
      if o.mode = .poisoned then (s.modObj oid fun o => { o with mode := .writing }).beginWrite oid w
      else if s.refsOf oid o ≠ 0 ∨ o.writes ≠ [] then
        (s.modObj oid fun o => { o with writes := o.writes ++ [{ w with bytes := [], tag := none }] }).finish q f
          Status.deferred 0 0 0
      else s.beginWrite oid w

/-- The offset of the first poisoned 64-byte unit of cells that start at `base` of a range. -/
def firstPoison (cs : List Cell) (start : Nat) : Option Nat :=
  (List.range cs.length).find? (fun i => ((cs.drop i).headD (0, false)).2) |>.map fun i => max start ((start + i) / 64 * 64)

/-- Cells with each poisoned 64-byte unit as zeros in the host's memory (R148, R298): the TLP goes out poisoned. -/
def readOut (s : State) (h : Nat) (cs : List Cell) : State := s.hostWrite h cs

/-- OBJ_READ (R166, R172, R192, R298, R361): waits, with a reference on the object, while it is WRITING, and for a slot of its first read. -/
def objReadCmd (s : State) (x : Env) (q : Nat) (f : Flight) : State :=
  let off := f.arg 16 8
  let len := f.arg 24 8
  let ha := f.arg 32 8
  match s.obj? (f.arg 8 4) with
  | none => s.refuse q f Status.notFound 8
  | some o =>
    if f.arg 12 1 ≠ 0 then s.refuse q f Status.invalidField 12
    else if off % 64 ≠ 0 then s.refuse q f Status.invalidField 16
    else if o.len < off + len then s.refuse q f Status.invalidField 24
    else if ha % 64 ≠ 0 then s.refuse q f Status.invalidField 32
    else if s.sealedObj (f.arg 8 4) o then s.refuse q f Status.notPermitted 0x09
    else if o.mode = .writing ∨ s.slotsFree (s.objSlots (f.arg 8 4) o off len) = false then s.holdObjs q f [f.arg 8 4]
    else
      let (cs, s) := s.objCells x (f.arg 8 4) o off len
      let s := s.readOut ha cs
      match firstPoison cs off with
      | some p => s.finish q f Status.poisoned 0 0 (BitVec.ofNat 64 p)
      | none => s.finishOk q f 0 0

/-- OBJ_DELETE (R168). -/
def objDeleteCmd (s : State) (q : Nat) (f : Flight) : State :=
  let oid := f.arg 8 4
  match s.obj? oid with
  | none => s.refuse q f Status.notFound 8
  | some o =>
    if s.refsOf oid o ≠ 0 ∨ o.writes ≠ [] then (s.modObj oid fun o => { o with delPend := true }).finish q f Status.deferred 0 0 0
    else (s.freeObj oid).finishOk q f 0 0

/-- OBJ_PROMOTE (R168, R172, R298): it begins the promotion of a HOME object once a slot is free, and completes when the copy is
visible, which is this command's second moment. An object that an eviction of the same control cycle found RESIDENT is so for the
promotion (R168). -/
def objPromoteCmd (s : State) (x : Env) (q : Nat) (f : Flight) : State :=
  let oid := f.arg 8 4
  let dst := f.arg 16 6
  match s.obj? oid with
  | none => s.refuse q f Status.notFound 8
  | some o =>
    if o.mode = .poisoned then s.refuse q f Status.poisoned 0
    else if s.sealedObj oid o then s.refuse q f Status.notPermitted 0x09
    else if o.mode = .writing then s.holdObjs q f [oid]
    else if o.mode = .promoting ∧ o.promoteTags.contains (Fin.ofNat 8 q, f.tag) then
      let (bad, s) := s.finishPromotion x oid false
      if bad then s.finishTags o.promoteTags Status.poisoned 0
      else s.finishTags o.promoteTags Status.ok (BitVec.ofNat 64 (o.resident.getD 0))
    else if o.mode = .home ∧ s.slotsFree (s.objSlots oid o 0 o.len) = false then s.holdObjs q f [oid]
    else
      let s := (s.holdObjs q f []).promoteReaches oid
      if o.mode = .resident then s.finishOk q f 0 (BitVec.ofNat 64 (o.resident.getD 0))
      else if o.mode = .promoting then s.modObj oid fun o => { o with promoteTags := o.promoteTags ++ [(Fin.ofNat 8 q, f.tag)] }
      else
        match (s.evictOf oid).bind (·.was) with
        | some r => s.finishOk q f 0 (BitVec.ofNat 64 r)
        | none =>
          if dst = 0 then
            match s.placeCopy o.len with
            | none => s.refuse q f Status.noResource 2
            | some (a, s) => s.startPromotion oid a [(Fin.ofNat 8 q, f.tag)]
          else if s.oneDram dst o.len then s.startPromotion oid (allocView dst) [(Fin.ofNat 8 q, f.tag)]
          else s.refuse q f Status.invalidField 16

/-- OBJ_EVICT (R168); a promotion of the same control cycle that comes after it is handled before it. -/
def objEvictCmd (s : State) (q : Nat) (f : Flight) : State :=
  let oid := f.arg 8 4
  match s.obj? oid with
  | none => s.refuse q f Status.notFound 8
  | some o =>
    let refs := s.refsOf oid o
    let drops : Bool := o.mode == .resident && refs == 0
    let s := { s with evicts := { oid := oid, was := if drops then o.resident else none, queue := Fin.ofNat 8 q, n := f.n
                                  pend := o.evictPend } :: s.evicts }
    if o.mode = .promoting ∨ (o.mode = .resident ∧ refs ≠ 0) then
      (s.modObj oid fun o => { o with evictPend := true }).finish q f Status.deferred 0 0 0
    else (if o.mode = .resident then s.dropCopy oid else s).finishOk q f 0 0

/-- OBJ_WITHDRAW (R168). -/
def objWithdrawCmd (s : State) (q : Nat) (f : Flight) : State :=
  let oid := f.arg 8 4
  match s.obj? oid with
  | none => s.refuse q f Status.notFound 8
  | some o => (s.withdraw oid).finishOk q f (if o.evictPend then 1 else 0) 0

/-- The destination of an OBJ_PROMOTE whose host access failed (R314): the promotion that it waits for ends, and undefined bytes are left
where its copy was to stand. -/
def spoilPromote (s : State) (f : Flight) : State :=
  match s.obj? (f.arg 8 4) with
  | some o =>
    if o.mode = .promoting ∧ (o.promoteTags.any fun t => t.2 == f.tag) = true then
      let s := match o.resident with
        | some r => (let (bs, s) := s.drawBytes o.len; s.store Tbl.empty r (cleanCells bs))
        | none => s
      s.endPromotion (f.arg 8 4)
    else s
  | none => s

/-- The destination of an OBJ_WRITE whose host access failed (R314): no generation commits, one that has begun is given up and a
POISONED object stays so, and where a DRAM-home or host-home object is written in place the range holds undefined bytes. -/
def spoilWrite (s : State) (f : Flight) : State :=
  let oid := f.arg 8 4
  match s.obj? oid with
  | none => s
  | some o =>
    let mine (w : PendingWrite) : Bool := match w.tag with | some t => t.2 == f.tag | none => false
    let s := if o.writes.any mine then
        s.modObj oid fun o =>
          { o with writes := o.writes.filter (fun w => !mine w), refs := o.refs - 1
                   mode := if o.mode = .writing ∧ o.committed = true then .poisoned else o.mode }
      else s
    if f.arg 16 8 % 64 ≠ 0 ∨ o.created < f.arg 16 8 + f.arg 24 8 then s
    else match o.home with
      | .dram => (let (bs, s) := s.drawBytes (f.arg 24 8); s.store Tbl.empty (o.addr + f.arg 16 8) (cleanCells bs))
      | .host => s.spoilRange (o.addr + f.arg 16 8) (f.arg 24 8)
      | .flash => s

/-- Run a host command that may have more than one moment: it starts by the rules of its stream, or goes on once started; `spoil` is what a
failed host access leaves in its destination (R314). -/
def runAgain (s : State) (t : Tag) (opc : Nat) (x : Env) (body : State → Nat → Flight → State)
    (spoil : State → Flight → State := fun s _ => s) : State :=
  match s.flightOf t with
  | none => s
  | some (q, f) =>
    if f.opc = opc ∧ f.started = true ∧ s.bar.mode = .ready ∧ s.ideStall = false then
      (match x.hostErr with
       | some e => (spoil s f).refuse q f Status.hostDmaError e.toNat
       | none => (body (s.withEnv x) q f).stream q)
    else s.runHostCmd t opc x body spoil

end State

/-! ## Meanings -/

/-- OBJ_GENERATION_COMMIT (R159, R167, R169). -/
def execObjGenerationCommit (oid : BitVec 32) (x : Env) (s : State) : Host.Outcome State Fault Refusal :=
  .next ((s.withEnv x).commitWrite oid.toNat)

/-- DEFERRED_TAKES_EFFECT (R168, R315). -/
def execDeferredTakesEffect (oid : BitVec 32) (x : Env) (s : State) : Host.Outcome State Fault Refusal :=
  .next (s.takeDeferred x oid.toNat)

/-- OBJ_CREATE (R298). -/
def execObjCreate (t : Tag) (s : State) : Host.Outcome State Fault Refusal := .next (s.runCmd t 0x10 false State.objCreateCmd)

/-- OBJ_WRITE (R298). -/
def execObjWrite (t : Tag) (x : Env) (s : State) : Host.Outcome State Fault Refusal :=
  .next (s.runHostCmd t 0x11 x State.objWriteCmd State.spoilWrite)

/-- OBJ_READ (R298). -/
def execObjRead (t : Tag) (x : Env) (s : State) : Host.Outcome State Fault Refusal :=
  .next (s.runAgain t 0x12 x (fun s => s.objReadCmd x) fun s f => s.spoilHost (f.arg 32 8) (f.arg 24 8))

/-- OBJ_DELETE (R168). -/
def execObjDelete (t : Tag) (s : State) : Host.Outcome State Fault Refusal := .next (s.runCmd t 0x13 false State.objDeleteCmd)

/-- OBJ_PROMOTE (R168, R298). -/
def execObjPromote (t : Tag) (x : Env) (s : State) : Host.Outcome State Fault Refusal :=
  .next (s.runAgain t 0x14 x (fun s => s.objPromoteCmd x) State.spoilPromote)

/-- OBJ_EVICT (R168). -/
def execObjEvict (t : Tag) (s : State) : Host.Outcome State Fault Refusal := .next (s.runCmd t 0x15 false State.objEvictCmd)

/-- OBJ_WITHDRAW (R168). -/
def execObjWithdraw (t : Tag) (s : State) : Host.Outcome State Fault Refusal := .next (s.runCmd t 0x16 false State.objWithdrawCmd)

end Sys2Proof.Machine
end

