-- ==== Sys2Proof/Machine/Operands.lean ====
section
/-!
DEFINITION. Operand forms: the bit fields of a 128-bit core operation (Tables 1-9 to 1-18), the line ranges it names, and the
checks on them that need no state (R50, R51, R55).
-/
namespace Sys2Proof.Machine

open Bytes (bits bit)

/-- The mask of bit fields given as (low bit, width). -/
def fieldMask : List (Nat × Nat) → Nat
  | [] => 0
  | (lo, w) :: fs => (2 ^ w - 1) * 2 ^ lo ||| fieldMask fs

/-- Every bit outside the opcode and the named fields is zero (R50). -/
def reservedZero (n : Nat) (fs : List (Nat × Nat)) : Bool := (n &&& fieldMask ((120, 8) :: fs)) == n

/-- Operand format codes of LDS and PASS. -/
def opFmtOf : Nat → Option OpFmt
  | 0 => some .f8 | 1 => some .g8 | 2 => some .h16 | _ => none

/-- Output form codes (Table 1-6). -/
def outFormOf : Nat → Option OutForm
  | 0 => some .wide | 1 => some .narrow | 2 => some .f8 | 3 => some .g8 | 4 => some .h16 | _ => none

/-- Dataflow mode codes (Table 1-1). -/
def flowOf : Nat → Option FlowMode
  | 0 => some .outer | 1 => some .statRow | 2 => some .statCol | _ => none

/-- The post that PEN and PSEM ask for. -/
def postOf (n pen psem : Nat) : PostReq := if bit n pen then some (BitVec.ofNat 6 (bits n psem 6)) else none

namespace OpFmt
/-- Lines of one 64-element vector (R17). -/
def lines : OpFmt → Nat
  | .h16 => 2
  | _ => 1
/-- The number format. -/
def num : OpFmt → NumFmt
  | .f8 => .f8 | .g8 => .g8 | .h16 => .h16
/-- Whether the format is of 16 bits. -/
def isWide (f : OpFmt) : Bool := f == .h16
end OpFmt

namespace OutForm
/-- Lines of a row or column (Table 1-6). -/
def lines : OutForm → Nat
  | .wide => 8 | .narrow => 4 | .f8 => 1 | .g8 => 1 | .h16 => 2
/-- Bytes of an element (R30). -/
def bytes : OutForm → Nat
  | .wide => 8 | .narrow => 4 | .f8 => 1 | .g8 => 1 | .h16 => 2
/-- Whether the form carries block scales. -/
def hasScales (f : OutForm) : Bool := f == .f8 || f == .g8
/-- Whether the form is a partial with a trailer to read (R87). -/
def isPartial (f : OutForm) : Bool := f == .wide || f == .narrow
/-- The element's number format; the wide partial is not one. -/
def num : OutForm → NumFmt
  | .wide => .n32 | .narrow => .n32 | .f8 => .f8 | .g8 => .g8 | .h16 => .h16
end OutForm

/-- A decoded operation, or ILLEGAL_OPCODE or ILLEGAL_FIELD (R50, Table 1-9). -/
def decodeOp (w : BitVec 128) : Except CoreCause CoreOp :=
  let n := w.toNat
  let ok (b : Bool) (o : Option CoreOp) : Except CoreCause CoreOp :=
    match b, o with
    | true, some op => .ok op
    | _, _ => .error .illegalField
  match bits n 120 8 with
  | 0x00 => ok (reservedZero n []) (some .nop)
  | 0x01 => ok (reservedZero n []) (some .endOp)
  | 0x02 => ok (reservedZero n []) (some .sync)
  | 0x03 => ok (reservedZero n [(0, 19)]) (some (.jump (BitVec.ofNat 19 (bits n 0 19))))
  | 0x04 => ok (reservedZero n [(0, 3)]) (some (.phase (BitVec.ofNat 3 (bits n 0 3))))
  | 0x08 => ok (reservedZero n [(24, 1), (16, 6), (0, 16)])
      (some (.wait (bit n 24) (BitVec.ofNat 6 (bits n 16 6)) (BitVec.ofNat 16 (bits n 0 16))))
  | 0x09 => ok (reservedZero n [(24, 8), (16, 6), (0, 16)])
      (some (.post (BitVec.ofNat 8 (bits n 24 8)) (BitVec.ofNat 6 (bits n 16 6)) (BitVec.ofNat 16 (bits n 0 16))))
  | 0x10 => ok (reservedZero n [(119, 1), (117, 2), (100, 17), (83, 17), (82, 1), (76, 6)])
      ((opFmtOf (bits n 117 2)).map fun f =>
        .lds { bank := bit n 119, fmt := f, addr := bits n 100 17, saddr := bits n 83 17, post := postOf n 82 76 })
  | 0x11 => ok (reservedZero n [(119, 1), (118, 1), (101, 17), (84, 17), (83, 1), (77, 6)])
      (some (.accld { narrow := bit n 119, dir := bit n 118, addr := bits n 101 17, taddr := bits n 84 17,
                      post := postOf n 83 77 }))
  | 0x18 => ok (reservedZero n [(119, 1), (109, 10), (92, 17), (80, 12), (63, 17), (51, 12)])
      (some (.anch { scan := bit n 119, anchor := BitVec.ofNat 10 (bits n 109 10), saAddr := bits n 92 17,
                     saLines := bits n 80 12, sbAddr := bits n 63 17, sbLines := bits n 51 12 }))
  | 0x20 =>
    match flowOf (bits n 118 2), opFmtOf (bits n 114 2), opFmtOf (bits n 112 2) with
    | some m, some fa, some fb =>
      let outer := m == .outer
      ok (reservedZero n [(118, 2), (117, 1), (116, 1), (114, 2), (112, 2), (111, 1), (110, 1), (104, 6), (92, 12),
            (75, 17), (58, 17), (41, 17), (24, 17)] &&
          (if outer then !bit n 117 else bits n 112 2 == 0 && decide (bits n 92 12 ≤ 63)))
        (some (.pass { mode := m, bank := bit n 117, clr := bit n 116, fmtA := fa, fmtB := fb, sxe := bit n 111,
                       post := postOf n 110 104, steps := bits n 92 12 + 1, aAddr := bits n 75 17, saAddr := bits n 58 17,
                       bAddr := bits n 41 17, sbAddr := bits n 24 17 }))
    | _, _, _ => .error .illegalField
  | 0x28 => ok (reservedZero n [(119, 1), (116, 3), (99, 17), (82, 17), (65, 17), (64, 1), (58, 6)])
      ((outFormOf (bits n 116 3)).map fun f =>
        .drain { dir := bit n 119, form := f, addr := bits n 99 17, saddr := bits n 82 17, taddr := bits n 65 17,
                 post := postOf n 64 58 })
  | 0x30 =>
    match outFormOf (bits n 117 3), outFormOf (bits n 114 3) with
    | some fi, some fo =>
      let rows := bits n 101 13
      ok (reservedZero n [(117, 3), (114, 3), (101, 13), (84, 17), (67, 17), (50, 17), (33, 17), (32, 1), (26, 6)] &&
          !fi.hasScales && fo != .wide && decide (1 ≤ rows ∧ rows ≤ 4096) && (!fo.hasScales || rows % 32 == 0))
        (some (.quant { ifmt := fi, ofmt := fo, rows := rows, src := bits n 84 17, dst := bits n 67 17, sdst := bits n 50 17,
                        taddr := bits n 33 17, post := postOf n 32 26 }))
    | _, _ => .error .illegalField
  | 0x40 => ok (reservedZero n [(119, 1), (103, 16), (80, 23), (32, 48), (31, 1), (25, 6), (24, 1), (16, 8), (10, 6)])
      (some (.move { inbound := bit n 119, len := bits n 103 16 + 1, laddr := bits n 80 23, raddr := bits n 32 48,
                     post := postOf n 31 25,
                     remote := if bit n 24 then some (BitVec.ofNat 8 (bits n 16 8), BitVec.ofNat 6 (bits n 10 6))
                               else none }))
  | _ => .error .illegalOpcode

/-! ## The encoder (Tables 1-9 to 1-18) -/

/-- A field of `v` at a low bit. -/
def fieldAt (v lo : Nat) : Nat := v * 2 ^ lo

/-- One bit at a place. -/
def flagAt (b : Bool) (lo : Nat) : Nat := Bytes.ofBool b * 2 ^ lo

/-- PEN and PSEM of a post; PSEM is written 0 where PEN = 0. -/
def postAt (p : PostReq) (pen psem : Nat) : Nat :=
  match p with | some q => 2 ^ pen + fieldAt q.toNat psem | none => 0

namespace OpFmt
/-- Its code in LDS and PASS. -/
def code : OpFmt → Nat
  | .f8 => 0 | .g8 => 1 | .h16 => 2
end OpFmt

namespace OutForm
/-- Its code (Table 1-6). -/
def code : OutForm → Nat
  | .wide => 0 | .narrow => 1 | .f8 => 2 | .g8 => 3 | .h16 => 4
end OutForm

namespace FlowMode
/-- Its code (Table 1-1). -/
def code : FlowMode → Nat
  | .outer => 0 | .statRow => 1 | .statCol => 2
end FlowMode

/-- The 128 bits of an operation. -/
def encodeOp (op : CoreOp) : BitVec 128 :=
  BitVec.ofNat 128 (
    match op with
    | .nop => fieldAt 0x00 120
    | .endOp => fieldAt 0x01 120
    | .sync => fieldAt 0x02 120
    | .jump t => fieldAt 0x03 120 + t.toNat
    | .phase c => fieldAt 0x04 120 + c.toNat
    | .wait bar sem count => fieldAt 0x08 120 + flagAt bar 24 + fieldAt sem.toNat 16 + count.toNat
    | .post core sem count => fieldAt 0x09 120 + fieldAt core.toNat 24 + fieldAt sem.toNat 16 + count.toNat
    | .lds o =>
      fieldAt 0x10 120 + flagAt o.bank 119 + fieldAt o.fmt.code 117 + fieldAt o.addr 100 + fieldAt o.saddr 83 + postAt o.post 82 76
    | .accld o =>
      fieldAt 0x11 120 + flagAt o.narrow 119 + flagAt o.dir 118 + fieldAt o.addr 101 + fieldAt o.taddr 84 + postAt o.post 83 77
    | .anch o =>
      fieldAt 0x18 120 + flagAt o.scan 119 + fieldAt o.anchor.toNat 109 + fieldAt o.saAddr 92 + fieldAt o.saLines 80 +
      fieldAt o.sbAddr 63 + fieldAt o.sbLines 51
    | .pass o =>
      fieldAt 0x20 120 + fieldAt o.mode.code 118 + flagAt o.bank 117 + flagAt o.clr 116 + fieldAt o.fmtA.code 114 +
      fieldAt o.fmtB.code 112 + flagAt o.sxe 111 + postAt o.post 110 104 + fieldAt (o.steps - 1) 92 + fieldAt o.aAddr 75 +
      fieldAt o.saAddr 58 + fieldAt o.bAddr 41 + fieldAt o.sbAddr 24
    | .drain o =>
      fieldAt 0x28 120 + flagAt o.dir 119 + fieldAt o.form.code 116 + fieldAt o.addr 99 + fieldAt o.saddr 82 + fieldAt o.taddr 65 +
      postAt o.post 64 58
    | .quant o =>
      fieldAt 0x30 120 + fieldAt o.ifmt.code 117 + fieldAt o.ofmt.code 114 + fieldAt o.rows 101 + fieldAt o.src 84 +
      fieldAt o.dst 67 + fieldAt o.sdst 50 + fieldAt o.taddr 33 + postAt o.post 32 26
    | .move o =>
      fieldAt 0x40 120 + flagAt o.inbound 119 + fieldAt (o.len - 1) 103 + fieldAt o.laddr 80 + fieldAt o.raddr 32 +
      postAt o.post 31 25 +
      (match o.remote with | some (c, q) => 2 ^ 24 + fieldAt c.toNat 16 + fieldAt q.toNat 10 | none => 0))

/-- An operation that the tables can spell: every field within its width and the range that its table gives (R50). -/
def CoreOp.wf : CoreOp → Bool
  | .lds o => decide (o.addr < 2 ^ 17 ∧ o.saddr < 2 ^ 17)
  | .accld o => decide (o.addr < 2 ^ 17 ∧ o.taddr < 2 ^ 17)
  | .anch o => decide (o.saAddr < 2 ^ 17 ∧ o.saLines < 2 ^ 12 ∧ o.sbAddr < 2 ^ 17 ∧ o.sbLines < 2 ^ 12)
  | .pass o =>
    decide (1 ≤ o.steps ∧ o.steps ≤ 4096 ∧ o.aAddr < 2 ^ 17 ∧ o.saAddr < 2 ^ 17 ∧ o.bAddr < 2 ^ 17 ∧ o.sbAddr < 2 ^ 17) &&
    (if o.mode = .outer then !o.bank else o.fmtB == .f8 && decide (o.steps ≤ 64))
  | .drain o => decide (o.addr < 2 ^ 17 ∧ o.saddr < 2 ^ 17 ∧ o.taddr < 2 ^ 17)
  | .quant o =>
    decide (1 ≤ o.rows ∧ o.rows ≤ 4096 ∧ o.src < 2 ^ 17 ∧ o.dst < 2 ^ 17 ∧ o.sdst < 2 ^ 17 ∧ o.taddr < 2 ^ 17) &&
    !o.ifmt.hasScales && o.ofmt != .wide && (!o.ofmt.hasScales || o.rows % 32 == 0)
  | .move o => decide (1 ≤ o.len ∧ o.len ≤ 2 ^ 16 ∧ o.laddr < 2 ^ 23 ∧ o.raddr < 2 ^ 48)
  | _ => true

/-- Line ranges (first line, count) that an operation names. -/
def lineRanges : CoreOp → List (Nat × Nat)
  | .lds o => (o.addr, 64 * o.fmt.lines) :: (if o.fmt.isWide then [] else [(o.saddr, 2)])
  | .accld o => [(o.addr, 64 * (if o.narrow then 4 else 8)), (o.taddr, 1)]
  | .anch o => if o.scan then [(o.saAddr, o.saLines), (o.sbAddr, o.sbLines)] else []
  | .pass o =>
    let side (f : OpFmt) (a sa : Nat) := (a, o.steps * f.lines) :: (if f.isWide then [] else [(sa, (o.steps + 31) / 32)])
    side o.fmtA o.aAddr o.saAddr ++ (if o.mode = .outer then side o.fmtB o.bAddr o.sbAddr else [])
  | .drain o =>
    (o.addr, 64 * o.form.lines) :: (o.taddr, 1) :: (if o.form.hasScales then [(o.saddr, 2)] else [])
  | .quant o =>
    [(o.src, o.rows * o.ifmt.lines), (o.dst, o.rows * o.ofmt.lines)] ++
    (if o.ofmt.hasScales then [(o.sdst, o.rows / 32)] else []) ++ (if o.ifmt.isPartial then [(o.taddr, 1)] else [])
  | _ => []

/-- Lines of a scratchpad (R14). -/
def lineCount : Nat := 98304

/-- Operation addresses of a scratchpad end at 0x5_FFFF (R51). -/
def opAddrCount : Nat := 0x60000

/-- Whether a core field names a core (R51). -/
def coreFieldOk (c : BitVec 8) : Bool := decide (c.toNat < 176) || c == 0xFF

/-- ADDR_RANGE of an operation (R51). -/
def addrBad (op : CoreOp) : Bool :=
  (lineRanges op).any (fun r => decide (0 < r.2 ∧ lineCount < r.1 + r.2)) ||
  match op with
  | .jump t => decide (opAddrCount ≤ t.toNat)
  | .post c _ _ => !coreFieldOk c
  | .move o =>
    decide (scratchBytes < o.laddr + o.len) || (match o.remote with | some (c, _) => !coreFieldOk c | none => false)
  | _ => false

/-- ALIGN of a MOVE (R55): multiples of 8 up to 256 bytes, of 64 above. -/
def alignBad (op : CoreOp) : Bool :=
  match op with
  | .move o =>
    let k := if o.len ≤ 256 then 8 else 64
    !(o.len % k == 0 && o.laddr % k == 0 && o.raddr % k == 0)
  | _ => false

/-- Whether a phase permits a dataflow mode (Table 1-8). -/
def phaseMode (phase : BitVec 3) (m : FlowMode) : Bool :=
  match phase.toNat, m with
  | 1, .outer | 1, .statRow | 2, _ | 3, .outer | 6, .outer | 6, .statRow | 7, _ => true
  | _, _ => false

/-- Whether a phase permits a pair of operand formats, in either order (R43, Table 1-8). -/
def phasePair (phase : BitVec 3) (a b : OpFmt) : Bool :=
  match phase.toNat, a, b with
  | 1, .f8, .f8 | 6, .f8, .f8 | 7, .f8, .f8 => true
  | 2, .g8, .f8 | 2, .f8, .g8 | 3, .g8, .f8 | 3, .f8, .g8 => true
  | 1, .h16, .h16 | 2, .h16, .h16 | 3, .h16, .h16 | 6, .h16, .h16 | 7, .h16, .h16 => true
  | _, _, _ => false

/-- Product bound exponent E (Table 2-5). -/
def boundExp (a b : OpFmt) : Int :=
  match a, b with
  | .f8, .f8 => 18
  | .h16, _ => 0
  | _, .h16 => 0
  | _, _ => 25

/-- Core fault codes (Table 1-23). -/
def CoreCause.code : CoreCause → Nat
  | .illegalOpcode => 0x01 | .illegalField => 0x02 | .addrRange => 0x03 | .align => 0x04 | .illegalForPhase => 0x05
  | .format => 0x06 | .noAnchor => 0x07 | .tileTooLong => 0x08 | .replayLimit => 0x09 | .tileState => 0x0A
  | .semOvf => 0x0B | .waitTimeout => 0x0C | .scratchUe => 0x0D | .poisonRead => 0x0E | .meshError => 0x0F
  | .halted => 0x10

/-- The value of element `l` of a 64-element vector whose lines are given, with the scale line of its block (R17, R18). -/
def vecVal (f : OpFmt) (lines scales : List Byte) (l : Nat) : Val :=
  match f with
  | .h16 => NumFmt.h16.decode (Bytes.field lines (2 * l) 2)
  | f => scaled f.num (Bytes.field lines l 1) (Bytes.field scales l 1)

end Sys2Proof.Machine
end

