-- ==== Sys2Proof/Machine/CoreUnit.lean ====
section
/-!
DEFINITION. The Churn core's shared operations: reading lines, posting, faulting, retiring, the interlocks of Table 1-4, the
tile and its replay, steps and drains (chapters 1 and 2).
-/
namespace Sys2Proof.Machine

/-! ## Updates within a core -/

/-- The cause with a code of Table 1-23. -/
def causeOf (n : Nat) : Option CoreCause :=
  [.illegalOpcode, .illegalField, .addrRange, .align, .illegalForPhase, .format, .noAnchor, .tileTooLong, .replayLimit, .tileState,
    .semOvf, .waitTimeout, .scratchUe, .poisonRead, .meshError, .halted].find? fun c => CoreCause.code c == n

namespace Core
/-- Change the control block. -/
def modRegs (k : Core) (f : CoreRegs → CoreRegs) : Core := { k with regs := f k.regs }
/-- Change the issue side. -/
def modPipe (k : Core) (f : CorePipe → CorePipe) : Core := { k with pipe := f k.pipe }
/-- Change the array side. -/
def modArr (k : Core) (f : CoreArray → CoreArray) : Core := { k with arr := f k.arr }
/-- Value of semaphore `n` (R45). -/
def sem (k : Core) (n : BitVec 6) : BitVec 16 := k.regs.sems.get 0 n.toNat
/-- Set semaphore `n`. -/
def setSem (k : Core) (n : BitVec 6) (v : BitVec 16) : Core :=
  k.modRegs fun r => { r with sems := r.sems.set 0 n.toNat v }
/-- The tile that is open in stream order (R52). -/
def openTile (k : Core) : Option Tile := k.arr.tiles.find? fun t => !t.drained
/-- The tile with an identifier. -/
def tile? (k : Core) (i : Nat) : Option Tile := k.arr.tiles.find? fun t => t.id == i
/-- Change the tile with an identifier. -/
def modTile (k : Core) (i : Nat) (f : Tile → Tile) : Core :=
  k.modArr fun a => { a with tiles := a.tiles.map fun t => if t.id == i then f t else t }
/-- Mark a bank as holding no complete tile (Table 1-21). -/
def spoilBank (k : Core) (b : Bool) : Core :=
  k.modArr fun a => { a with banks := a.banks.put (Bytes.ofBool b) { a.banks.get Bank.none (Bytes.ofBool b) with valid := false } }
/-- A stationary bank. -/
def bank (k : Core) (b : Bool) : Bank :=
  k.arr.banks.get Bank.none (Bytes.ofBool b)
/-- The address of the next operation to issue (CORE_PC, R58). -/
def nextPc (k : Core) : Nat :=
  match k.pipe.fetch with
  | f :: _ => f.addr
  | [] => k.pipe.fetchPc
/-- The fault that a core has met, pending or entered: place, cause and address. -/
def raised (k : Core) : Option (Nat × CoreCause × Nat) :=
  match k.pipe.faulting with
  | some f => some f
  | none => if k.regs.mode = .fault then (causeOf k.regs.faultCause.toNat).map fun cz => (k.pipe.issued, cz, k.regs.faultPc.toNat) else none
end Core

/-- Device address of byte `o` of core `c`'s scratchpad (Table 4-3). -/
def scratchAddr (c o : Nat) : Nat := 0x100000000000 + c * 0x800000 + o

namespace State

/-! ## Reading lines (R19) -/

/-- Read scratchpad lines in order: an uncorrectable error sets the line's poison bit and gives SCRATCH_UE, a poisoned line gives
POISON_READ, a corrected error is counted; the first that faults ends the reading. -/
def scanLines (s : State) (c : Nat) (x : Env) : List Nat → Option CoreCause × State
  | [] => (none, s)
  | l :: ls =>
    let a := scratchAddr c (64 * l)
    let ue := x.ecc.any fun h => h.unit == a && h.ue
    let was := (s.core c).scratch.poison.get false (64 * l)
    let s := s.meetEcc x a 64
    if ue then (some .scratchUe, s) else if was then (some .poisonRead, s) else scanLines s c x ls

/-! ## Posts (R46, R47) -/

/-- Add `n` to semaphore `sem` of core `c`; true when it saturated. -/
def postSem (s : State) (c : Nat) (sem : BitVec 6) (n : Nat) : Bool × State :=
  let v := ((s.core c).sem sem).toNat + n
  if v ≤ 0xFFFF then (false, s.modCore c fun k => k.setSem sem (BitVec.ofNat 16 v))
  else (true, s.modCore c fun k => k.setSem sem 0xFFFF)

/-! ## The Sextant's probe (R96, R97) -/

/-- The probe that follows a tile of core `c`, if any. -/
def probeOf (s : State) (c i : Nat) : Option Probe :=
  (s.die (c / 8)).sxt.probe.filter fun p => p.core == c && p.tile == i

/-- Change the probe of a die. -/
def modProbe (s : State) (c : Nat) (f : Probe → Probe) : State :=
  s.modDie (c / 8) fun d => { d with sxt := { d.sxt with probe := d.sxt.probe.map f } }

/-- The tiles of core `c` are abandoned or cleared: a sample of one of them is abandoned with it, and counted (Table 2-13). -/
def dropProbe (s : State) (c : Nat) : State :=
  if (s.die (c / 8)).sxt.probe.any fun p => p.core == c then
    s.modDie (c / 8) fun d => { d with sxt := { d.sxt with probe := none, skipped := Word.satInc d.sxt.skipped } }
  else s

/-! ## Faults (R58) -/

/-- A fault that arises in the arith cycle in which the core entered FAULT: CORE_FAULT records the one with the lower code (R461).
The core's record and what the firmware makes of the fault stand as they were made at the entry (log 15). -/
def lateFault (s : State) (c : Nat) (cause : CoreCause) (pc : Nat) : State :=
  let k := s.core c
  if k.regs.mode = .fault ∧ k.pipe.faultNow = true ∧ cause.code < k.regs.faultCause.toNat then
    s.modCore c fun k => k.modRegs fun r => { r with faultCause := BitVec.ofNat 8 cause.code, faultPc := BitVec.ofNat 19 pc }
  else s

/-- The core enters FAULT (R58 step 5): CORE_FAULT keeps the first cause since CLEAR or reset, FAULTED sets and counts, every
queue is empty, and the core's record is written (Table 12-7). -/
def enterFault (s : State) (c : Nat) (cause : CoreCause) (pc : Nat) : State :=
  let first := (s.core c).regs.faultCause == 0
  let s := s.modCore c fun k =>
    { k with
      regs := { k.regs with
        mode := .fault
        faultCause := if first then BitVec.ofNat 8 cause.code else k.regs.faultCause
        faultPc := if first then BitVec.ofNat 19 pc else k.regs.faultPc
        faulted := true
        faultCnt := Word.satInc k.regs.faultCnt }
      pipe := { CorePipe.reset with
        lastLds := k.pipe.lastLds, anchSince := k.pipe.anchSince, issued := k.pipe.issued
        faultNow := k.pipe.faultNow || k.regs.mode == .idle } }
  let s := s.occur (regKey 0 c 0x20) 14
  s.event 0x0010 0x0B c false 0xFF (s.workOfCore c).toNat
    (Bytes.ofNat 4 cause.code ++ Bytes.ofNat 4 (pc % 2 ^ 19))

/-- Undefined bytes over a byte range that device addresses name (R58 step 4). -/
def fillFree (s : State) (regions : Tbl Region) (a n : Nat) : State :=
  let (bs, s) := s.drawBytes n
  s.store regions a (cleanCells bs)

/-- Undefined bytes over line ranges of a core's scratchpad. -/
def fillLines (s : State) (c : Nat) (rs : List (Nat × Nat)) : State :=
  rs.foldl (fun s r => s.fillFree Tbl.empty (scratchAddr c (64 * r.1)) (64 * r.2)) s

/-- Lines that a DRAIN writes. -/
def drainLines (o : DrainOp) : List (Nat × Nat) := lineRanges (.drain o)

/-- Lines that a QUANT writes. -/
def quantLines (o : QuantOp) : List (Nat × Nat) :=
  (o.dst, o.rows * o.ofmt.lines) :: (if o.ofmt.hasScales then [(o.sdst, o.rows / 32)] else [])

/-- The destinations of begun operations at or after place `b` hold undefined bytes (R58 step 4): the QUANT at its queue's head,
the DRAIN that streams, and later MOVEs that the mesh permits (a refused MOVE moves no byte, R147). -/
def spoilBegun (s : State) (c b : Nat) : State :=
  let k := s.core c
  let s := match k.pipe.quantQ with
    | q :: _ => if b ≤ q.seq then s.fillLines c (quantLines q.op) else s
    | [] => s
  let s := match k.arr.shadow with
    | some d => if b ≤ d.entry.seq then s.fillLines c (drainLines d.entry.op) else s
    | none => s
  (k.pipe.moveQ.filter fun m => decide (b < m.seq)).foldl
    (fun s m =>
      if m.op.inbound then s.fillFree Tbl.empty (scratchAddr c m.op.laddr) m.op.len
      else if s.permitted (s.workOfCore c) m.op.raddr m.op.len true then
        s.fillFree (s.regionsOf (s.workOfCore c)) m.op.raddr m.op.len
      else s)
    s

end State

namespace Core

/-- The load queue without the operations that `keep` turns away, and without the lines that a lost head had read. An LDS that had begun
leaves its bank invalid, as its first line left it; one that had not begun leaves the bank as it was (R58 step 4). -/
def keepLoads (k : Core) (keep : Issued CoreOp → Bool) : Core :=
  k.modPipe fun p =>
    { p with
      loadQ := p.loadQ.filter keep
      loadBuf := match p.loadQ with | e :: _ => if keep e then p.loadBuf else Tbl.empty | [] => p.loadBuf }

/-- Abandon every tile that has not been captured (R23): its operations never retire. Its accumulators become undefined: no operation can read them before the next tile clears them or
loads them, or before an ACCLD that has not loaded yet is captured, where free values stand for them (log 7), so they stay as they
are here. -/
def abandon (k : Core) : Core :=
  let k := k.keepLoads fun e => match e.op with | .lds _ => e.tile == 0 | _ => false
  { k with
    pipe := { k.pipe with
      arrayQ := []
      drainQ := []
      unretired := k.pipe.unretired.filter fun u => u.tile.isNone }
    arr := { k.arr with tiles := [], flying := [], replay := none } }

/-- Drop every operation at or after place `b` (R58 step 4). -/
def dropFrom (k : Core) (b : Nat) : Core :=
  let k := k.keepLoads fun e => decide (e.seq < b)
  let early (o : Option Nat) : Bool := match o with | some q => decide (q < b) | none => false
  { k with
    pipe := { k.pipe with
      held := none
      anchBuf := if early (k.pipe.anchQ.map fun e => e.seq) then k.pipe.anchBuf else Tbl.empty
      quantBuf := if early (k.pipe.quantQ.head?.map fun e => e.seq) then k.pipe.quantBuf else Tbl.empty
      quantOut := if early (k.pipe.quantQ.head?.map fun e => e.seq) then k.pipe.quantOut else none
      anchQ := k.pipe.anchQ.filter fun e => decide (e.seq < b)
      quantQ := k.pipe.quantQ.filter fun e => decide (e.seq < b)
      moveQ := k.pipe.moveQ.filter fun e => decide (e.seq < b)
      unretired := k.pipe.unretired.filter fun u => decide (u.seq < b) }
    arr := { k.arr with shadow := k.arr.shadow.filter fun d => decide (d.entry.seq < b) } }

end Core

namespace State

/-- Place and address of the first operation not issued (CORE_CTRL.HALT_REQ, Table 1-20; R47): a held operation that has not
executed lies after the boundary. -/
def boundary (s : State) (c : Nat) : Nat × Nat :=
  let k := s.core c
  match k.pipe.held with
  | some h => if h.stagger.isSome then (k.pipe.issued, k.nextPc) else (h.seq, h.pc)
  | none => (k.pipe.issued, k.nextPc)

/-- A fault of the operation at place `seq` and address `pc` of core `c` in RUN (R58 steps 1 to 4): issue stops, the open tile is
abandoned, later operations are discarded; the core enters FAULT once the earlier ones have retired. A second fault replaces
the first cause only when both arise in one arith cycle and its code is the lower (R461). DESIGN CHOICE (log 15): so does an execution
fault of the cycle in which the issue check has refused an operation; R461 orders two execution faults only. -/
def markFault (s : State) (c seq : Nat) (cause : CoreCause) (pc : Nat) : State :=
  if (s.core c).regs.mode = .run then
    let next := (s.boundary c).2
    let before := s.core c
    let s := ((s.spoilBegun c seq).dropProbe c).modCore c fun k => (k.abandon).dropFrom seq
    s.modCore c fun k =>
      { k with
        regs := { k.regs with pc := if k.pipe.faulting.isSome then k.regs.pc else next }
        pipe := { k.pipe with
          fetch := []
          faulting := match k.pipe.faulting with
            | some (b, cz, pz) =>
              if k.pipe.faultNow = true ∧ cause.code < cz.code then some (min b seq, cause, pc)
              else some (min b seq, cz, pz)
            | none => some (seq, cause, pc)
          faultNow := k.pipe.faultNow || k.pipe.faulting.isNone }
        was := if before.pipe.faulting.isNone then some (before.pipe, before.arr) else k.was }
  else s.lateFault c cause pc

/-- A post that no core issued overflowed on core `c` (R47). -/
def unitOverflow (s : State) (c : Nat) : State :=
  match (s.core c).regs.mode with
  | .run => let (b, pc) := s.boundary c; s.markFault c b .semOvf pc
  | .idle => s.enterFault c .semOvf (s.core c).regs.pc
  | .fault => s.lateFault c .semOvf (s.core c).regs.pc

/-- The overflow of a post that core `c`'s operation at place `seq`, address `pc`, issued (R47). DESIGN CHOICE (log 15): for a core that is
already IDLE, whose MOVE has retired before its remote post arrives, CORE_FAULT.PC is CORE_PC; the spec gives none. -/
def coreOverflow (s : State) (c seq pc : Nat) : State :=
  match (s.core c).regs.mode with
  | .run => s.markFault c seq .semOvf pc
  | .idle => s.enterFault c .semOvf (s.core c).regs.pc
  | .fault => s.lateFault c .semOvf pc

/-- The post-on-retire of the operation at place `seq` (R22); nothing for an operation that a fault has discarded. -/
def retirePost (s : State) (c seq pc : Nat) (post : PostReq) : State :=
  let gone := match (s.core c).pipe.faulting with
    | some (b, _, _) => decide (b ≤ seq)
    | none => false
  match post with
  | some sem =>
    if gone then s
    else
      let (ovf, s) := s.postSem c sem 1
      if ovf then s.coreOverflow c seq pc else s
  | none => s

/-- A post to another core, or to this one (R48). `seq` and `pc` are of the operation that asks for it. -/
def corePost (s : State) (c seq pc : Nat) (target : BitVec 8) (sem : BitVec 6) (n : Nat) (holds : Bool) : State :=
  if target = 0xFF ∨ target.toNat = c then
    let (ovf, s) := s.postSem c sem n
    if ovf then s.coreOverflow c seq pc else s
  else
    { s with posts := s.posts ++ [{ target := target.toNat, sem := sem, count := n, source := some (c, seq, pc),
                                    holds := holds }] }

end State

/-! ## Interlocks (Table 1-4) -/

namespace Core

/-- Whether a PASS at place before `seq` names bank `b`. -/
def namesBank (e : PassEntry) (seq : Nat) (b : Bool) : Bool := decide (e.seq < seq) && e.op.mode != .outer && e.op.bank == b

/-- An LDS may run: every earlier PASS naming its bank has its last step out of the tree, those that a replay will issue again among
them. -/
def ldsFree (k : Core) (seq : Nat) (b : Bool) : Bool :=
  k.pipe.arrayQ.all (fun e => !namesBank e seq b) &&
  k.arr.flying.all (fun v => !(v.mode != .outer && v.bank == b)) &&
  (match k.arr.replay with
   | some r => r.items.all fun i => match i with | .pass e _ => !namesBank e seq b | _ => true
   | none => true)

/-- An ACCLD may run: every earlier DRAIN has captured. -/
def accldFree (k : Core) (seq : Nat) : Bool := k.pipe.drainQ.all fun e => !decide (e.seq < seq)

/-- A PASS may begin to execute. -/
def passFree (k : Core) (e : PassEntry) : Bool :=
  (if e.op.clr then k.arr.pend.isSome && k.pipe.drainQ.all (fun d => !decide (d.seq < e.seq))
   else k.pipe.loadQ.all fun l => match l.op with | .accld _ => !decide (l.seq < e.seq) | _ => true) &&
  (e.op.mode == .outer ||
    k.pipe.loadQ.all fun l => match l.op with | .lds o => !(decide (l.seq < e.seq) && o.bank == e.op.bank) | _ => true)

/-- A DRAIN may capture: the products of the tile's passes are in the accumulators, no replay runs, the shadow is empty. Table 1-4
holds it for passes only, not for an ACCLD (R26). -/
def captureFree (k : Core) (d : Issued DrainOp) : Bool :=
  k.pipe.arrayQ.all (fun e => !(e.tile == d.tile)) && k.arr.flying.isEmpty && k.arr.replay.isNone &&
  k.arr.shadow.isNone && (k.tile? d.tile).isSome

/-- Every earlier operation has retired or finished its own work (POST, SYNC, END, PHASE). -/
def quiet (k : Core) : Bool :=
  k.pipe.loadQ.isEmpty && k.pipe.anchQ.isNone && k.pipe.arrayQ.isEmpty && k.pipe.drainQ.isEmpty && k.pipe.quantQ.isEmpty &&
  k.pipe.moveQ.isEmpty && k.arr.flying.isEmpty && k.arr.replay.isNone && k.arr.shadow.isNone

/-- Whether an entry's last step has issued: it no longer holds its place in the array's queue (R21). -/
def passIssued (e : PassEntry) : Bool := decide (e.op.steps ≤ e.next + (if e.sub = 0 then 0 else 1))

/-- A narrow outer-product pass holds the operand read port, in a replay too: LDS, ACCLD and QUANT make no progress (R16). -/
def portHeld (k : Core) : Bool :=
  let holds (e : PassEntry) : Bool := e.begun && e.op.mode == .outer && !e.op.fmtA.isWide && !passIssued e
  (match k.pipe.arrayQ with | e :: _ => holds e | [] => false) ||
  (match k.arr.replay with
   | some r => (match r.items with | .pass e _ :: _ => holds e | _ => false)
   | none => false)

/-- Whether a unit's queue has room (Table 1-3). -/
def room (k : Core) (op : CoreOp) : Bool :=
  match op with
  | .lds _ | .accld _ => decide (k.pipe.loadQ.length < 2)
  | .anch _ => k.pipe.anchQ.isNone && k.arr.pend.isNone
  | .pass _ => decide ((k.pipe.arrayQ.filter fun e => !passIssued e).length < 2)
  | .drain _ => decide (k.pipe.drainQ.length + (if k.arr.shadow.isSome then 1 else 0) < 2)
  | .quant _ => decide (k.pipe.quantQ.length < 2)
  | .move _ => decide (k.pipe.moveQ.length < 16)
  | _ => true

/-! ## Checks at issue (R461) -/

/-- Format of the latest LDS issued into a bank (R54). -/
def bankFmt (k : Core) (b : Bool) : Option OpFmt := (k.pipe.lastLds.find? (Bytes.ofBool b)).map fun e => e.op.fmt

/-- Whether the tile log already holds the latest LDS into a bank (R24). -/
def logHolds (t : Tile) (seq : Nat) : Bool :=
  t.log.any fun i => match i with | .lds e => e.seq == seq | _ => false

/-- Entries that a PASS adds to the log of the open tile (R24). -/
def logNeed (k : Core) (o : PassOp) : Nat :=
  if o.mode = .outer then 1
  else
    match k.pipe.lastLds.find? (Bytes.ofBool o.bank) with
    | some p =>
      match (if o.clr then none else k.openTile) with
      | some t => if logHolds t p.seq then 1 else 2
      | none => 2
    | none => 1

/-- FORMAT of a PASS (R54): `second` is the format of the other operand, none for a bank into which no LDS has issued. -/
def formatBad (phase : BitVec 3) (o : PassOp) (second : Option OpFmt) : Bool :=
  match second with
  | none => true
  | some f => o.fmtA.isWide != f.isWide || (o.mode != .outer && !phasePair phase o.fmtA f)

/-- ILLEGAL_FOR_PHASE of a PASS (R43). -/
def phaseBad (phase : BitVec 3) (o : PassOp) (second : Option OpFmt) : Bool :=
  !phaseMode phase o.mode || (match second with | some f => !phasePair phase o.fmtA f | none => true)

/-- TILE_TOO_LONG of a PASS with CLR = 0 (R24). -/
def logFull (k : Core) (o : PassOp) : Bool :=
  match k.openTile with
  | some t => decide (256 < t.log.length + k.logNeed o)
  | none => false

/-- The fault that the checks of R461 find, after ILLEGAL_OPCODE and ILLEGAL_FIELD, in order. -/
def issueFault (k : Core) (op : CoreOp) : Option CoreCause :=
  let isOpen := k.openTile.isSome
  if addrBad op then some .addrRange
  else if alignBad op then some .align
  else
    match op with
    | .endOp | .phase _ => if isOpen then some .tileState else none
    | .accld _ => if isOpen then some .tileState else none
    | .drain _ => if isOpen then none else some .tileState
    | .pass o =>
      let phase := k.regs.phase
      let second := if o.mode = .outer then some o.fmtB else k.bankFmt o.bank
      if o.clr = isOpen then some .tileState
      else if formatBad phase o second then some .format
      else if phaseBad phase o second then some .illegalForPhase
      else if o.clr && !k.pipe.anchSince then some .noAnchor
      else if !o.clr && k.logFull o then some .tileTooLong
      else none
    | _ => none

end Core

/-! ## Stationary banks -/

/-- A line as an operation has read it: as `buf` holds it, else as it stands now (R27). -/
def viewLine (k : Core) (buf : Tbl (List Byte)) (l : Nat) : List Byte := match buf.find? l with | some bs => bs | none => k.line l

/-- `n` lines from `l` on, as an operation has read them. -/
def viewLines (k : Core) (buf : Tbl (List Byte)) (l n : Nat) : List Byte := (List.range n).flatMap fun i => viewLine k buf (l + i)

/-- The lines of a list that an operation has still to read. -/
def unread (buf : Tbl (List Byte)) (ls : List Nat) : List Nat := ls.filter fun l => (buf.find? l).isNone

/-- Element (r, j) of a stationary tile as its LDS source holds it now (R17, R18). -/
def ldsVal (k : Core) (o : LdsOp) (r j : Nat) : Val :=
  let ls := cellBytes (k.readScratch (64 * (o.addr + r * o.fmt.lines)) (64 * o.fmt.lines))
  let sc := if o.fmt.isWide then [] else k.line (o.saddr + r / 32)
  vecVal o.fmt ls sc j

/-- Lines that an LDS reads. -/
def ldsLines (o : LdsOp) : List Nat :=
  ((List.range (64 * o.fmt.lines)).map fun i => o.addr + i) ++ (if o.fmt.isWide then [] else [o.saddr, o.saddr + 1])

/-- A bank filled from its LDS source as the LDS at place `seq` has read it. -/
def loadBank (k : Core) (buf : Tbl (List Byte)) (seq : Nat) (o : LdsOp) : Bank :=
  { seq := seq, fmt := o.fmt, valid := true,
    vals := (List.range 64).foldl
      (fun t r =>
        let ls := viewLines k buf (o.addr + r * o.fmt.lines) o.fmt.lines
        let sc := if o.fmt.isWide then [] else viewLine k buf (o.saddr + r / 32)
        (List.range 64).foldl
          (fun t j =>
            let v := vecVal o.fmt ls sc j
            if v = .num false 0 0 then t else t.put (64 * r + j) v) t)
      Tbl.empty }

/-- Operand (r, j) of a bank. -/
def Bank.val (b : Bank) (r j : Nat) : Val := b.vals.get (.num false 0 0) (64 * r + j)

/-! ## Steps (R11 to R13) -/

/-- Operand lines that step `n` of a pass reads (R17). -/
def stepLines (o : PassOp) (n : Nat) : List Nat :=
  let side (f : OpFmt) (a : Nat) := (List.range f.lines).map fun i => a + n * f.lines + i
  side o.fmtA o.aAddr ++ (if o.mode = .outer then side o.fmtB o.bAddr else [])

/-- The scale lines of an operand that a pass has to have read by its next step, those it holds left out (R16, R18): that of the step,
and, ahead of its steps, the next. -/
def scalesToRead (f : OpFmt) (e : PassEntry) (sa : Nat) (held : Nat) : List Nat :=
  if f.isWide then []
  else (List.range' held (min (e.next / 32 + 2) ((e.op.steps + 31) / 32) - held)).map fun m => sa + m

/-- Scale lines of A, then of B, that a pass reads by its next step. -/
def scalesOfA (e : PassEntry) : List Nat := scalesToRead e.op.fmtA e e.op.saAddr e.sa.length
/-- Scale lines of B. -/
def scalesOfB (e : PassEntry) : List Nat := if e.op.mode = .outer then scalesToRead e.op.fmtB e e.op.sbAddr e.sb.length else []

/-- The pass with those scale lines read. -/
def readScales (k : Core) (e : PassEntry) : PassEntry :=
  { e with sa := e.sa ++ (scalesOfA e).map k.line, sb := e.sb ++ (scalesOfB e).map k.line }

/-- The 64 values of a vector of step `n`, with the scale lines read for its operand. -/
def stepVec (k : Core) (f : OpFmt) (a n : Nat) (scales : List (List Byte)) : List Val :=
  let ls := cellBytes (k.readScratch (64 * (a + n * f.lines)) (64 * f.lines))
  (List.range 64).map (vecVal f ls (scales.getD (n / 32) []))

/-- Element `i` of a vector of values. -/
def vecAt (v : List Val) (i : Nat) : Val := v.getD i (.num false 0 0)

/-- The products that a step brings to each accumulator (Table 1-1): accumulator key 64 * row + column, and its group. -/
def stepGroups (v : StepVec) : List (Nat × List Val) :=
  match v.mode with
  | .outer =>
    (List.range 4096).map fun i => (i, [Val.mul (vecAt v.a (i / 64)) (vecAt v.b (i % 64))])
  | .statRow =>
    (List.range 64).map fun i => (64 * v.k + i, (List.range 64).map fun j => Val.mul (v.stat.val i j) (vecAt v.a j))
  | .statCol =>
    (List.range 64).map fun j => (64 * v.k + j, (List.range 64).map fun i => Val.mul (v.stat.val i j) (vecAt v.a i))

/-- The accumulators after groups of products, with the drops and whether a product was not finite; none on an overflow. -/
def landGroups (anchor : Int) : Tbl Acc → List (Nat × List Val) → Option (Tbl Acc × Nat × Bool)
  | t, [] => some (t, 0, false)
  | t, (i, ps) :: gs =>
    match (t.get Acc.zero i).addGroup anchor ps with
    | none => none
    | some (a, d) =>
      match landGroups anchor (t.set Acc.zero i a) gs with
      | none => none
      | some (t, d', nf) => some (t, d + d', nf || ps.any fun p => !p.isFinite)

/-- DROPPED and DROP_SAT after `n` more drops (R76). -/
def Tile.drops (t : Tile) (n : Nat) : Tile :=
  let d := t.dropped.toNat + n
  { t with dropped := Word.satAdd t.dropped n, dropSat := t.dropSat || decide (0xFFFFFFFF < d) }

/-! ## Partials (R85 to R87) -/

/-- The anchor that a trailer line gives: bits 9:0 of its first two bytes (R86). -/
def trailerAnchor (line : List Byte) : Int := Bytes.signed 10 (Bytes.field line 0 2)

/-- Element `l` of group `n` of a partial, or of a 16-bit input, as its reader has read it. -/
def partialVal (k : Core) (buf : Tbl (List Byte)) (form : OutForm) (addr n l : Nat) (anchor : Int) : Val :=
  let at_ := 64 * (addr + n * form.lines) + form.bytes * l
  let bs := match buf.find? (at_ / 64) with
    | some line => (line.drop (at_ % 64)).take form.bytes
    | none => cellBytes (k.readScratch at_ form.bytes)
  match form with
  | .wide => Acc.wideVal (Bytes.toNat bs) anchor
  | f => f.num.decode (Bytes.toNat bs)

/-- Load the accumulators from a partial at an anchor (R82, R86), its lines as the ACCLD has read them; none when an element's entry
overflows. -/
def loadPartial (k : Core) (buf : Tbl (List Byte)) (o : AccldOp) (anchor : Int) : Option (Tbl Acc × Nat × Bool) :=
  let form : OutForm := if o.narrow then .narrow else .wide
  let ta := trailerAnchor (viewLine k buf o.taddr)
  landGroups anchor Tbl.empty
    ((List.range 4096).map fun i =>
      let n := if o.dir then i % 64 else i / 64
      let l := if o.dir then i / 64 else i % 64
      (i, [partialVal k buf form o.addr n l ta]))

/-- Lines that an ACCLD reads. -/
def accldLines (o : AccldOp) : List Nat :=
  ((List.range (64 * (if o.narrow then 4 else 8))).map fun i => o.addr + i) ++ [o.taddr]

/-- The trailer line of Table 1-7. -/
def trailer (t : Tile) (dir : Bool) (seq : BitVec 64) : List Byte :=
  Bytes.ofNat 2 (Bytes.unsigned 16 t.anchor) ++ Bytes.ofNat 1 t.replays ++
  Bytes.ofNat 1 (Bytes.ofBool t.nonfinite + 2 * Bytes.ofBool t.dropSat + 4 * Bytes.ofBool t.wide + 8 * Bytes.ofBool dir) ++
  Bytes.ofNat 4 t.dropped.toNat ++ Bytes.ofNat 8 seq.toNat ++ Bytes.zeros 48

/-- Rows of values written in an output form: data bytes and scale bytes (R30, R31, R63). Row `n` is `rows n`. -/
def formBytes (form : OutForm) (count : Nat) (val : Nat → Nat → Val) (wide : Nat → Nat → Nat) : List Byte × List Byte :=
  let scaleOf (m l : Nat) : Nat := chooseScale form.num ((List.range 32).map fun i => val (32 * m + i) l)
  let scales : List (List Nat) :=
    if form.hasScales then (List.range (count / 32)).map fun m => (List.range 64).map (scaleOf m) else []
  let elem (n l : Nat) : List Byte :=
    match form with
    | .wide => Bytes.ofNat 8 (wide n l)
    | .f8 | .g8 => Bytes.ofNat 1 (convScaled form.num ((scales.getD (n / 32) []).getD l 0x7F) (val n l))
    | f => Bytes.ofNat f.bytes (f.num.encode (val n l))
  ((List.range count).flatMap fun n => (List.range 64).flatMap fun l => elem n l,
   scales.flatMap fun row => row.map Bytes.byte)

/-- A captured tile written in a drain's form (R29 to R32). -/
def drainBytes (sh : Shadow) : List Byte × List Byte :=
  let o := sh.entry.op
  let at_ (n l : Nat) : Acc := sh.acc.get Acc.zero (if o.dir then 64 * l + n else 64 * n + l)
  formBytes o.form 64 (fun n l => (at_ n l).value sh.anchor) (fun n l => (at_ n l).wideCode)

/-- A QUANT's output (R87). -/
def quantBytes (k : Core) (buf : Tbl (List Byte)) (o : QuantOp) : List Byte × List Byte :=
  let anchor := if o.ifmt.isPartial then trailerAnchor (viewLine k buf o.taddr) else 0
  formBytes o.ofmt o.rows (fun n l => partialVal k buf o.ifmt o.src n l anchor) (fun _ _ => 0)

/-- Bytes as the lines that they fill from line `l` on. -/
def asLines (l : Nat) (bs : List Byte) : List (Nat × List Byte) :=
  (List.range ((bs.length + 63) / 64)).map fun i => (l + i, (bs.drop (64 * i)).take 64)

/-- The lines that a DRAIN writes, in the order in which it writes them: its line groups ascending, scale lines, the trailer (R27). -/
def drainOut (sh : Shadow) : List (Nat × List Byte) :=
  let o := sh.entry.op
  let (data, scales) := drainBytes sh
  asLines o.addr data ++ (if o.form.hasScales then asLines o.saddr scales else []) ++ asLines o.taddr sh.trailer

/-- The lines that a QUANT writes. -/
def quantOut (k : Core) (buf : Tbl (List Byte)) (o : QuantOp) : List (Nat × List Byte) :=
  let (data, scales) := quantBytes k buf o
  asLines o.dst data ++ (if o.ofmt.hasScales then asLines o.sdst scales else [])

/-- Write lines, each whole (R19). -/
def putLines (k : Core) (ls : List (Nat × List Byte)) : Core := ls.foldl (fun k l => k.writeLines l.1 l.2) k

/-! ## Replay (R35, R81) -/

namespace State

/-- CORE_REPLAYS counts `n` more (R37). -/
def countReplays (s : State) (c n : Nat) : State :=
  s.modCore c fun k => k.modRegs fun r => { r with replays := Word.satAdd r.replays n }

/-- A logged PASS from its first step on, its retirement already recorded (R35). -/
def againPass (e : PassEntry) : PassEntry := { e with begun := true, next := 0, sub := 0, sa := [], sb := [], redo := true }

/-- What a replay issues again of a tile log, up to and including the pass at place `target` (R35 step 5); a PASS that still holds its
place in the array's queue issues from there. -/
def againItems (queued : List Nat) (target : Nat) : List LogItem → List LogItem
  | [] => []
  | .pass e l :: is =>
    let rest := if e.seq = target then [] else againItems queued target is
    if queued.contains e.seq then rest else .pass (againPass e) l :: rest
  | .accld e :: is => .accld e :: (if e.seq = target then [] else againItems queued target is)
  | .lds e :: is => .lds e :: againItems queued target is

/-- Passes after place `target` that had left the array's queue: they issue again when the replay is over (R35 step 6). -/
def againLater (queued : List Nat) (target : Nat) (log : List LogItem) : List PassEntry :=
  log.filterMap fun i => match i with
    | .pass e _ => if target < e.seq && !queued.contains e.seq then some (againPass e) else none
    | _ => none

/-- Of two contents of a bank, that of the later LDS. -/
def newerBank (a b : Bank) : Bank := if a.seq < b.seq then b else a

/-- A tile's DROPPED, state and anchor begin afresh (R76). -/
def restart (t : Tile) (anchor : Int) (replays d : Nat) (nf : Bool) : Tile :=
  { t with anchor := anchor, replays := replays, dropped := 0, dropSat := false, nonfinite := nf }.drops d

/-- The banks with each later LDS's content (R35): the banks `old` as a replay found them, and `now`, which its own LDS rewrote. -/
def newestBanks (now old : Tbl Bank) : Tbl Bank :=
  old.entries.foldl (fun t p => t.put p.1 (newerBank (t.get Bank.none p.1) p.2)) now

/-- An overflow met by the operation at place `seq`, address `pc`, of a tile (R35, R36, R81): its pipeline empties, the anchor rises
by 8, the accumulators clear, and the logged operations up to it issue again; or REPLAY_LIMIT. The Sextant restarts (R97). -/
def overflow (s : State) (c : Nat) (t : Tile) (seq pc : Nat) : State :=
  if 8 ≤ t.replays ∨ 511 < t.anchor + 8 then s.markFault c seq .replayLimit pc
  else
    let s := (s.probeOf c t.id).elim s fun _ => s.modProbe c fun p => { p with s := 0, m := 0, ready := true }
    (s.countReplays c 1).modCore c fun k =>
      let queued := k.pipe.arrayQ.map fun e => e.seq
      let fresh := k.pipe.arrayQ.map fun e => { e with next := 0, sub := 0, sa := [], sb := [] }
      { k with
        pipe := { k.pipe with arrayQ := againLater queued seq t.log ++ fresh }
        arr := { k.arr with
          acc := Tbl.empty
          flying := []
          replay := some { tile := t.id, items := againItems queued seq t.log, target := seq
                           banks := match k.arr.replay with
                             | some r => newestBanks k.arr.banks r.banks
                             | none => k.arr.banks
                           buf := Tbl.empty }
          tiles := k.arr.tiles.map fun u => if u.id == t.id then restart t (t.anchor + 8) (t.replays + 1) 0 false else u } }

end State

end Sys2Proof.Machine
end

