-- ==== Sys2Proof/Machine/CoreIssue.lean ====
section
/-!
DEFINITION. How a core's operations issue, wait, execute and retire: the shared steps behind the rows of the operation stream
and the events of a core (chapter 1), and the Sextant that follows a tile (R96 to R101).
-/
namespace Sys2Proof.Machine

namespace State

/-! ## The Sextant -/

/-- SXT_CTRL.N_EXP as it acts (Table 2-12). -/
def sxtN (x : Sextant) : Nat := max 8 (min x.nExp.toNat 20)

/-- SXT_THRESH.EXP as it acts (Table 2-13). -/
def sxtExp (x : Sextant) : Nat := max 4 (min x.thresh.toNat 24)

/-- TILE_SEQ that tile `i` of core `c` will carry (R32). -/
def tileSeqOf (k : Core) (i : Nat) : BitVec 64 :=
  k.arr.tileSeq + BitVec.ofNat 64 ((k.arr.tiles.filter fun t => decide (t.id ≤ i)).length)

/-- The draw of R96, when the first SXE PASS of a tile issues; `first` tells that no earlier pass of the tile has issued. -/
def sxtDraw (s : State) (c : Nat) (t : Tile) (first : Bool) (pc : Nat) : State :=
  let x := (s.die (c / 8)).sxt
  let seq := tileSeqOf (s.core c) t.id
  let h := mix64 (x.seed.toNat ^^^ (c * 2 ^ 56 % 2 ^ 64) ^^^ seq.toNat)
  if !x.en || h % 2 ^ sxtN x != 0 then s
  else if x.probe.isSome || t.byAccld || !first then
    s.modDie (c / 8) fun d => { d with sxt := { d.sxt with skipped := Word.satInc d.sxt.skipped } }
  else
    s.modDie (c / 8) fun d =>
      { d with sxt := { d.sxt with
          sampled := Word.satInc d.sxt.sampled
          probe := some { core := c, tile := t.id, seq := seq, row := Bytes.bits h 58 6, col := Bytes.bits h 52 6, s := 0,
                          m := 0, pc := pc, phase := (s.core c).regs.phase, ready := true
                          exp := sxtExp x, logEn := x.logEn, valLog := x.valLog } } }

/-- The contributions of a step to cell (`r`, `j`), in index order (R97). The stationary operands are those of the LDS source
named in the tile log. -/
def probeTerms (k : Core) (v : StepVec) (r j : Nat) : List Val :=
  let stat (a b : Nat) : Val := match v.lds with | some o => ldsVal k o a b | none => v.stat.val a b
  match v.mode with
  | .outer => [Val.mul (vecAt v.a r) (vecAt v.b j)]
  | .statRow => if v.k = r then (List.range 64).map fun i => Val.mul (stat j i) (vecAt v.a i) else []
  | .statCol => if v.k = r then (List.range 64).map fun i => Val.mul (stat i j) (vecAt v.a i) else []

/-- The Sextant takes a step's contributions into s and m, each sum rounded to N32 (R97). -/
def probeStep (s : State) (c : Nat) (v : StepVec) : State :=
  match s.probeOf c v.tile with
  | none => s
  | some p =>
    let terms := probeTerms (s.core c) v p.row p.col
    let add (acc : BitVec 32) (t : Val) : BitVec 32 :=
      BitVec.ofNat 32 (NumFmt.n32.encode (Val.add (NumFmt.n32.decode acc.toNat) t))
    s.modProbe c fun q =>
      { q with s := terms.foldl add q.s, m := (terms.map Val.abs).foldl add q.m, ready := q.ready && v.mode == .outer }

/-- floor(log2(|V - s| / m)) + 127, clamped to 0x00 to 0xFE (Table 2-13). DESIGN CHOICE (log 19): with m = 0 the ratio has no value and
the largest code stands for it. -/
def errExp (d m : Val) : Nat :=
  match d, m with
  | .num _ a e, .num _ b k =>
    if b = 0 then 0xFE
    else if a = 0 then 0
    else
      let q := d.log2 - m.log2
      let q := if Val.magLe (.num false b (k + q)) (.num false a e) then q else q - 1
      (max 0 (min (q + 127) 0xFE)).toNat
  | _, _ => 0xFF

/-- Whether the Sextant's sum agrees with the array's value (R98). -/
def sxtAgrees (v s m : Val) (exp : Nat) : Bool :=
  if !v.isFinite || !s.isFinite then v.same s
  else if m.isZero then v.same s
  else Val.magLe (Val.add v s.negate) (m.scale (-(exp : Int)))

/-- The comparison at capture (R98), the mismatch record (R101), and the probe's end. With stationary passes the Sextant's reads
may not be complete (R97): when, the spec leaves to the side port's traffic, so a free value says it. -/
def sxtCompare (s : State) (c : Nat) (t : Tile) (acc : Tbl Acc) : State :=
  match s.probeOf c t.id with
  | none => s
  | some p =>
    let (n, s) := if p.ready then (1, s) else s.drawNat
    let s := s.modDie (c / 8) fun d => { d with sxt := { d.sxt with probe := none } }
    if n % 2 = 0 then
      s.modDie (c / 8) fun d => { d with sxt := { d.sxt with skipped := Word.satInc d.sxt.skipped } }
    else
      let v := (acc.get Acc.zero (64 * p.row + p.col)).value t.anchor
      let sv := NumFmt.n32.decode p.s.toNat
      let mv := NumFmt.n32.decode p.m.toNat
      if sxtAgrees v sv mv p.exp then s
      else
        let ee := if v.isFinite && sv.isFinite then errExp (Val.add v sv.negate) mv else 0xFF
        let s := s.modDie (c / 8) fun d =>
          { d with sxt := { d.sxt with
              mismatch := true
              mismatchCnt := Word.satInc d.sxt.mismatchCnt
              lastSeq := p.seq
              errExp := BitVec.ofNat 8 ee
              posCore := BitVec.ofNat 3 (c % 8)
              posPhase := p.phase
              posRow := BitVec.ofNat 6 p.row
              posCol := BitVec.ofNat 6 p.col } }
        let s := s.occur (regKey 1 (c / 8) 0x18) 1
        if p.logEn then
          s.event 0x0011 0x0C (c / 8) false 0xFF (s.workOfCore c).toNat
            (Bytes.ofNat 8 p.seq.toNat ++ Bytes.ofNat 4 (p.pc % 2 ^ 19) ++ Bytes.ofNat 1 (c % 8) ++
             Bytes.ofNat 1 p.phase.toNat ++ Bytes.ofNat 1 p.row ++ Bytes.ofNat 1 p.col ++
             Bytes.ofNat 2 (Bytes.unsigned 16 t.anchor) ++ Bytes.ofNat 1 t.replays ++ Bytes.ofNat 1 ee ++
             (if p.valLog then
                Bytes.ofNat 4 (NumFmt.n32.encode v) ++ Bytes.ofNat 4 p.s.toNat ++ Bytes.ofNat 4 p.m.toNat
              else Bytes.zeros 12))
        else s

/-! ## Beginning, executing a held operation, entering FAULT -/

/-- The PASS at the head of the array queue begins to execute once its interlocks clear (R20): with CLR = 1 it consumes the
pending anchor, places the tile's anchor (R79) and clears the accumulators. -/
def beginPass (k : Core) : Core :=
  match k.pipe.arrayQ with
  | [] => k
  | e :: rest =>
    if e.begun || !k.passFree e || k.arr.replay.isSome then k
    else
      let begun := k.modPipe fun p => { p with arrayQ := { e with begun := true } :: rest }
      if e.op.clr then
        let second := if e.op.mode = .outer then e.op.fmtB else (k.bank e.op.bank).fmt
        let anchor : Int := match k.arr.pend with
          | some (.imm a) => a
          | some (.scan t) => max (-512) (min (t + boundExp e.op.fmtA second - 42) 511)
          | none => 0
        let begun := begun.modArr fun a => { a with pend := none, acc := Tbl.empty }
        begun.modTile e.tile fun t => { t with active := true, anchor := anchor, wide := e.op.fmtA.isWide }
      else begun.modTile e.tile fun t => { t with wide := t.wide || e.op.fmtA.isWide }

/-- Whether a POST of core `c` is still on its way (R22). -/
def postOut (s : State) (c : Nat) : Bool :=
  s.posts.any fun p => p.holds && (match p.source with | some (d, _, _) => d == c | none => false)

/-- Operations in issue order. -/
def insertBySeq (u : Unretired) : List Unretired → List Unretired
  | [] => [u]
  | v :: vs => if u.seq ≤ v.seq then u :: v :: vs else v :: insertBySeq u vs

/-- END executes, or the operations before a fault retire (R26, R58): an LDS that no pass has named retires and makes its post (R22),
in issue order. -/
def retireLoose (s : State) (c : Nat) : State :=
  let loose := ((s.core c).pipe.unretired.filter fun u => u.tile.isNone).foldr insertBySeq []
  let s := s.modCore c fun k => k.modPipe fun p => { p with unretired := p.unretired.filter fun u => u.tile.isSome }
  loose.foldl (fun s u => s.retirePost c u.seq u.pc u.post) s

/-- CORE_PHASE of a core is about to change to `p`: Helm hears of it (R44, R400). -/
def notePhase (s : State) (c : Nat) (p : BitVec 3) : State :=
  if (s.core c).regs.phase = p then s else s.modDie (c / 8) fun d => { d with phaseMoved := true }

/-- The core enters IDLE and sets DONE (R26, R44, R57). -/
def enterIdle (s : State) (c : Nat) : State :=
  ((s.notePhase c 0).occur (regKey 0 c 0x20) 13).modCore c fun k =>
    { k with
      regs := { k.regs with mode := .idle, phase := 0, done := true, doneCnt := Word.satInc k.regs.doneCnt, pc := k.nextPc }
      pipe := { CorePipe.reset with lastLds := k.pipe.lastLds, anchSince := k.pipe.anchSince, issued := k.pipe.issued } }

/-- The held sequencer operation leaves issue. -/
def dropHeld (s : State) (c : Nat) : State := s.modCore c fun k => k.modPipe fun p => { p with held := none }

/-- A held POST, SYNC, END or PHASE executes once its interlock clears (Table 1-4). A held WAIT is not touched. -/
def runHeld (s : State) (c : Nat) : State :=
  let k := s.core c
  match k.pipe.held with
  | none => s
  | some h =>
    if !k.quiet || s.postOut c || k.pipe.faulting.isSome then s
    else
      match h.op with
      | .sync => s.dropHeld c
      | .phase p => ((s.notePhase c p).dropHeld c).modCore c fun k => k.modRegs fun r => { r with phase := p }
      | .post t m n => (s.dropHeld c).corePost c h.seq h.pc t m n.toNat true
      | .endOp =>
        let s := (s.dropHeld c).retireLoose c
        if (s.core c).regs.mode = .run ∧ (s.core c).pipe.faulting = none then s.enterIdle c else s
      | _ => s

/-- The operation at the head of the fetch buffer cannot issue: its fetch faulted (R19), it lies beyond 0x5_FFFF (R51), or its
opcode or a field is illegal (R50); no row of the table stands for an illegal opcode, so the fault is raised here. -/
def headFault (s : State) (c : Nat) : State :=
  let k := s.core c
  if k.regs.mode = .run ∧ k.pipe.held = none ∧ k.pipe.faulting = none then
    match k.pipe.fetch with
    | f :: _ =>
      match f.bad with
      | some cz => s.markFault c k.pipe.issued cz f.addr
      | none =>
        match decodeOp f.word with
        | .error cz => s.markFault c k.pipe.issued cz f.addr
        | .ok _ => s
    | [] => s
  else s

/-- The faulting core enters FAULT once every earlier operation has retired, an LDS that no pass has named among them (R58). -/
def faultDone (s : State) (c : Nat) : State :=
  let k := s.core c
  if k.pipe.faulting.isSome && k.quiet && !s.postOut c then
    let s := s.retireLoose c
    match (s.core c).pipe.faulting with
    | some (_, cz, pc) => s.enterFault c cz pc
    | none => s
  else s

/-- What follows every event of a core in the same moment. -/
def settle (s : State) (c : Nat) : State :=
  let s := s.modCore c beginPass
  let s := s.runHeld c
  let s := s.headFault c
  s.faultDone c

/-! ## Issue -/

/-- The head of the fetch buffer issues: the buffer moves up and the operation takes the next place in issue order. -/
def takeHead (s : State) (c : Nat) : State :=
  s.modCore c fun k => k.modPipe fun p => { p with fetch := p.fetch.drop 1, issued := p.issued + 1 }

/-- The operation at the head of core `c`'s fetch buffer issues, if it is the one wanted, the core is in RUN with nothing held
and the unit's queue has room (R20); the checks of R461 come first. `act` gets the operation's place and address. -/
def coreIssue (s : State) (c : Nat) (want : CoreOp → Bool) (act : State → Nat → Nat → CoreOp → State) : State :=
  let k := s.core c
  if k.regs.mode = .run ∧ k.pipe.held = none ∧ k.pipe.faulting = none then
    match k.pipe.fetch with
    | [] => s
    | f :: _ =>
      match f.bad, decodeOp f.word with
      | none, .ok op =>
        if !want op || !k.room op then s
        else
          match k.issueFault op with
          | some cz => (s.markFault c k.pipe.issued cz f.addr).settle c
          | none => (act (s.takeHead c) k.pipe.issued f.addr op).settle c
      | _, _ => s
  else s

/-- A sequencer operation is held at issue until `settle` or its own event executes it. -/
def hold (s : State) (c seq pc : Nat) (op : CoreOp) : State :=
  s.modCore c fun k => k.modPipe fun p => { p with held := some { seq := seq, pc := pc, op := op, waited := 0, stagger := none } }

/-- Subtract a satisfied WAIT's COUNT; with BAR = 1 its release waits 64 arith cycles per stagger group (R42). -/
def satisfyWait (s : State) (c seq pc : Nat) (bar : Bool) (sem : BitVec 6) (count : BitVec 16) : State :=
  let s := s.modCore c fun k => k.setSem sem (k.sem sem - count)
  let g := 64 * (s.core c).regs.stag.toNat
  if bar && g != 0 then
    s.modCore c fun k => k.modPipe fun p =>
      { p with held := some { seq := seq, pc := pc, op := .wait bar sem count, waited := 0, stagger := some g } }
  else s.dropHeld c

/-- LDS enters the load queue; the core keeps its descriptor (R24). -/
def issueLds (s : State) (c seq pc : Nat) (o : LdsOp) : State :=
  s.modCore c fun k => k.modPipe fun p =>
    { p with loadQ := p.loadQ ++ [{ seq := seq, pc := pc, tile := 0, op := .lds o }]
             lastLds := p.lastLds.put (Bytes.ofBool o.bank) { seq := seq, pc := pc, tile := 0, op := o } }

/-- A tile that opens. -/
def newTile (i : Nat) (byAccld : Bool) (log : List LogItem) : Tile :=
  { id := i, byAccld := byAccld, log := log, active := false, drained := false, anchor := 0, replays := 0, dropped := 0,
    dropSat := false, nonfinite := false, wide := false, sxeDrawn := false, passes := 0 }

/-- ACCLD opens a tile and enters the load queue (R23). -/
def issueAccld (s : State) (c seq pc : Nat) (o : AccldOp) : State :=
  s.modCore c fun k =>
    let i := k.arr.tileNext + 1
    { k with
      pipe := { k.pipe with loadQ := k.pipe.loadQ ++ [{ seq := seq, pc := pc, tile := i, op := .accld o }] }
      arr := { k.arr with tileNext := i, tiles := k.arr.tiles ++ [newTile i true [.accld { seq := seq, pc := pc, tile := i, op := o }]] } }

/-- ANCH enters the anchor unit (R33). -/
def issueAnch (s : State) (c seq pc : Nat) (o : AnchOp) : State :=
  s.modCore c fun k => k.modPipe fun p =>
    { p with anchQ := some { seq := seq, pc := pc, tile := 0, op := o }, anchSince := true }

/-- The latest LDS into the bank that a pass of tile `i` names is of that tile from now on, unless it already has one (R22). DESIGN
CHOICE (log 15): an earlier LDS into that bank, which a later one has overwritten before any pass named it, is named by no pass and
retires, with its post, when END executes. -/
def nameLds (k : Core) (i seq : Nat) : Core :=
  k.modPipe fun p =>
    { p with
      loadQ := p.loadQ.map fun e => if e.seq == seq && e.tile == 0 then { e with tile := i } else e
      unretired := p.unretired.map fun u => if u.seq == seq && u.tile.isNone then { u with tile := some i } else u }

/-- PASS opens or continues a tile, enters the tile log with the LDS it names (R24), and enters the array queue. -/
def issuePass (s : State) (c seq pc : Nat) (o : PassOp) : State :=
  let k := s.core c
  let lds := if o.mode = .outer then none else k.pipe.lastLds.find? (Bytes.ofBool o.bank)
  let i := if o.clr then k.arr.tileNext + 1 else (match k.openTile with | some t => t.id | none => 0)
  let k := if o.clr then
      k.modArr fun a => { a with tileNext := i, tiles := a.tiles ++ [newTile i false []] }
    else k
  let e : PassEntry :=
    { seq := seq, pc := pc, tile := i, op := o, begun := false, next := 0, sub := 0, sa := [], sb := [], redo := false }
  let (first, drawn, t0) := match k.tile? i with
    | some t => (t.passes == 0, t.sxeDrawn, t)
    | none => (false, true, newTile i false [])
  let k := k.modTile i fun t =>
    { t with
      log := t.log ++ (match lds with
        | some l => if Core.logHolds t l.seq then [] else [.lds l]
        | none => []) ++ [.pass e (lds.map fun l => l.op)]
      passes := t.passes + 1
      sxeDrawn := t.sxeDrawn || o.sxe }
  let k := match lds with | some l => nameLds k i l.seq | none => k
  let k := k.modPipe fun p =>
    { p with arrayQ := p.arrayQ ++ [e], anchSince := if o.clr then false else p.anchSince }
  let s := s.modCore c fun _ => k
  if o.sxe && !drawn then s.sxtDraw c t0 first pc else s

/-- DRAIN ends the tile in stream order and enters the drain queue (R52). -/
def issueDrain (s : State) (c seq pc : Nat) (o : DrainOp) : State :=
  s.modCore c fun k =>
    let i := match k.openTile with | some t => t.id | none => 0
    (k.modTile i fun t => { t with drained := true }).modPipe fun p =>
      { p with drainQ := p.drainQ ++ [{ seq := seq, pc := pc, tile := i, op := o }] }

/-- QUANT enters the convert queue. -/
def issueQuant (s : State) (c seq pc : Nat) (o : QuantOp) : State :=
  s.modCore c fun k => k.modPipe fun p => { p with quantQ := p.quantQ ++ [{ seq := seq, pc := pc, tile := 0, op := o }] }

/-- MOVE enters the mesh queue. -/
def issueMove (s : State) (c seq pc : Nat) (o : MoveOp) : State :=
  s.modCore c fun k => k.modPipe fun p => { p with moveQ := p.moveQ ++ [{ seq := seq, pc := pc, op := o, moved := 0 }] }

/-! ## Execution events -/

/-- The operation at address `a`, whose line has been read with the fault `bad` (R19, R51). -/
def fetched (k : Core) (a : Nat) (bad : Option CoreCause) : Fetched :=
  if opAddrCount ≤ a then { addr := a, word := 0, bad := some .addrRange }
  else { addr := a, word := BitVec.ofNat 128 (Bytes.toNat (cellBytes (k.readScratch (16 * a) 16))), bad := bad }

/-- Read the line of the operation at address `a`, if there is one (R19, R51). -/
def fetchLine (s : State) (c : Nat) (x : Env) (a : Nat) : Option CoreCause × State :=
  if opAddrCount ≤ a then (none, s) else s.scanLines c x [a / 4]

/-- Operation fetch reads two operations when the buffer of 16 has room for both (R16). -/
def fetchTwo (s : State) (c : Nat) (x : Env) : State :=
  let k := s.core c
  if k.regs.mode = .run ∧ k.pipe.faulting = none ∧ k.pipe.fetch.length ≤ 14 then
    let a := k.pipe.fetchPc
    let (bad, s) := s.fetchLine c x a
    let (bad', s) := if (a + 1) / 4 = a / 4 then (bad, s) else s.fetchLine c x (a + 1)
    (s.modCore c fun k => k.modPipe fun p =>
      { p with fetch := p.fetch ++ [fetched k a bad, fetched k (a + 1) bad'], fetchPc := a + 2 }).settle c
  else s

/-- The lines that a replay has read again for the operation at the head of its list. -/
def replayBuf (k : Core) : Tbl (List Byte) := match k.arr.replay with | some r => r.buf | none => Tbl.empty

/-- A replay goes on with the next operation of its list. -/
def nextItem (r : Replay) : Replay := { r with items := r.items.drop 1, buf := Tbl.empty }

/-- An LDS that a replay issues again writes its last row: its source has been read once more (R19, R35). -/
def ldsAgain (s : State) (c : Nat) (x : Env) (e : Issued LdsOp) : State :=
  match s.scanLines c x (unread (replayBuf (s.core c)) (ldsLines e.op)) with
  | (some cz, s) => (s.markFault c e.seq cz e.pc).settle c
  | (none, s) =>
    (s.modCore c fun k => k.modArr fun a =>
      { a with banks := a.banks.put (Bytes.ofBool e.op.bank) (loadBank k (replayBuf k) e.seq e.op)
               replay := a.replay.map nextItem }).settle c

/-- LDS writes its last row (R21): the bank holds a complete tile. An LDS that a replay issues again goes first. -/
def ldsRun (s : State) (c : Nat) (x : Env) : State :=
  let k := s.core c
  match k.arr.replay.bind fun r => r.items.head? with
  | some (.lds e) => s.ldsAgain c x e
  | _ =>
    match k.pipe.loadQ with
    | ⟨seq, pc, tile, .lds o⟩ :: rest =>
      if k.portHeld || !k.ldsFree seq o.bank then s
      else
        match s.scanLines c x (unread k.pipe.loadBuf (ldsLines o)) with
        | (some cz, s) => (s.markFault c seq cz pc).settle c
        | (none, s) =>
          (s.modCore c fun k =>
            { k with
              pipe := { k.pipe with
                loadQ := rest
                loadBuf := Tbl.empty
                unretired := k.pipe.unretired ++
                  [{ seq := seq, pc := pc, tile := if tile = 0 then none else some tile, bank := some o.bank, post := o.post }] }
              arr := { k.arr with
                banks := k.arr.banks.put (Bytes.ofBool o.bank) (loadBank k k.pipe.loadBuf seq o) } }).settle c
    | _ => s

/-- A replay is over (R37): each bank holds what its latest LDS loaded. DESIGN CHOICE (log 14): where the replay has rewritten a bank
that already held a later LDS's tile, that tile is there again, since the spec gives the pass that names it no other. -/
def endReplay (k : Core) : Core :=
  k.modArr fun a =>
    { a with replay := none, banks := match a.replay with | some r => newestBanks a.banks r.banks | none => a.banks }

/-- The accumulators of tile `tile` take a partial at the tile's anchor, raised by a replay for an element that would overflow (R35,
R82, R86). The ACCLD waits for its tile's capture (R22). -/
def accldLoad (s : State) (c : Nat) (e : Issued AccldOp) (buf : Tbl (List Byte)) : State :=
  match (s.core c).tile? e.tile with
  | none => s
  | some t =>
    match loadPartial (s.core c) buf e.op t.anchor with
    | none => s.overflow c t e.seq e.pc
    | some (acc, d, nf) =>
      s.modCore c fun k =>
        let k : Core := { k with
          pipe := { k.pipe with
            unretired :=
              if k.pipe.unretired.any fun u => u.seq == e.seq then k.pipe.unretired
              else k.pipe.unretired ++ [{ seq := e.seq, pc := e.pc, tile := some e.tile, bank := none, post := e.op.post }] }
          arr := { k.arr with
            acc := acc
            replay := k.arr.replay.map nextItem
            tiles := k.arr.tiles.map fun u =>
              if u.id == e.tile then { restart u u.anchor u.replays d nf with active := true } else u } }
        match k.arr.replay with
        | some r => if r.target == e.seq then endReplay k else k
        | none => k

/-- ACCLD writes its last line: the accumulators hold the partial at the anchor of its trailer (R86). An ACCLD that a replay issues
again goes first. -/
def accldRun (s : State) (c : Nat) (x : Env) : State :=
  let k := s.core c
  match k.arr.replay.bind fun r => r.items.head? with
  | some (.accld e) =>
    let buf := replayBuf k
    match s.scanLines c x (unread buf (accldLines e.op)) with
    | (some cz, s) => (s.markFault c e.seq cz e.pc).settle c
    | (none, s) => (s.accldLoad c e buf).settle c
  | _ =>
    match k.pipe.loadQ with
    | ⟨seq, pc, tile, .accld o⟩ :: rest =>
      if k.portHeld || !k.accldFree seq then s
      else
        match s.scanLines c x (unread k.pipe.loadBuf (accldLines o)) with
        | (some cz, s) => (s.markFault c seq cz pc).settle c
        | (none, s) =>
          let buf := k.pipe.loadBuf
          let s := s.modCore c fun k =>
            (k.modPipe fun p => { p with loadQ := rest, loadBuf := Tbl.empty }).modTile tile fun t =>
              { t with anchor := trailerAnchor (viewLine k buf o.taddr) }
          (s.accldLoad c { seq := seq, pc := pc, tile := tile, op := o } buf).settle c
    | _ => s

/-- Lines that an ANCH scan reads (R34). -/
def anchLines (o : AnchOp) : List Nat :=
  if o.scan then ((List.range o.saLines).map fun i => o.saAddr + i) ++ ((List.range o.sbLines).map fun i => o.sbAddr + i) else []

/-- The largest scale code other than 0xFF in lines as a scan has read them, 127 when there is none (R78). -/
def maxScale (k : Core) (buf : Tbl (List Byte)) (addr n : Nat) : Nat :=
  let codes := (viewLines k buf addr n).map (·.toNat)
  let codes := codes.filter fun b => b != 0xFF
  if codes.isEmpty then 127 else codes.foldl max 0

/-- The anchor is pending and the ANCH retires (R22, R34, R78). -/
def anchRun (s : State) (c : Nat) (x : Env) : State :=
  match (s.core c).pipe.anchQ with
  | none => s
  | some e =>
    if (s.core c).arr.pend.isSome then s
    else
      match s.scanLines c x (unread (s.core c).pipe.anchBuf (anchLines e.op)) with
      | (some cz, s) => (s.markFault c e.seq cz e.pc).settle c
      | (none, s) =>
        (s.modCore c fun k =>
          let p : PendAnchor :=
            if e.op.scan then
              .scan ((maxScale k k.pipe.anchBuf e.op.saAddr e.op.saLines : Int) - 127 +
                ((maxScale k k.pipe.anchBuf e.op.sbAddr e.op.sbLines : Int) - 127))
            else .imm e.op.anchor.toInt
          { k with pipe := { k.pipe with anchQ := none, anchBuf := Tbl.empty }, arr := { k.arr with pend := some p } }).settle c

/-- The step that would issue next: of the pass that a replay issues again, else of the begun PASS at the head of the array queue (R35,
R40). An LDS or ACCLD that the replay issues again holds its steps. -/
def nextStep (k : Core) : Option (PassEntry × Option LdsOp × Bool) :=
  let queued : Option (PassEntry × Option LdsOp × Bool) :=
    match k.pipe.arrayQ with | e :: _ => if e.begun then some (e, none, false) else none | [] => none
  match k.arr.replay with
  | some r =>
    match r.items with
    | .pass e l :: _ => some (e, l, true)
    | _ :: _ => none
    | [] => queued
  | none => queued

/-- A step is ready (R39). -/
def stepReady (k : Core) : Bool := (nextStep k).isSome

/-- An entry after a grant: a narrow step issues; a wide step advances by one of its four arith cycles (R40). -/
def afterGrant (e : PassEntry) : PassEntry :=
  if e.op.fmtA.isWide then
    (if e.sub = 3 then { e with sub := 0, next := e.next + 1 } else { e with sub := e.sub + 1 })
  else { e with next := e.next + 1 }

/-- The LDS that the tile log names for a pass (R24). -/
def loggedLds (k : Core) (e : PassEntry) : Option LdsOp :=
  match k.tile? e.tile with
  | some t => t.log.findSome? fun i => match i with | .pass f l => if f.seq == e.seq then l else none | _ => none
  | none => none

/-- Put back an entry after its grant, and end what it ends: a pass whose last step has issued leaves the array queue and waits
for its tile's capture (R21, R22); a replay ends when it has issued the overflowing pass again, at the first grant of a wide last step
(R37, R40), and what is left of that step then goes on from the queue. -/
def putEntry (k : Core) (e : PassEntry) (again : Bool) : Core :=
  let ended := decide (e.op.steps ≤ e.next)
  let isOver := match k.arr.replay with | some r => r.target == e.seq && Core.passIssued e | none => false
  let k :=
    if again then
      let k := k.modArr fun a => { a with replay := a.replay.map fun r =>
        { r with items := if ended || isOver then r.items.drop 1
                          else (match r.items with | .pass _ l :: is => .pass e l :: is | is => is) } }
      if isOver && !ended then k.modPipe fun p => { p with arrayQ := e :: p.arrayQ } else k
    else
      k.modPipe fun p =>
        { p with
          arrayQ := if ended then p.arrayQ.drop 1 else e :: p.arrayQ.drop 1
          unretired := if ended && !e.redo then
              p.unretired ++ [{ seq := e.seq, pc := e.pc, tile := some e.tile, bank := none, post := e.op.post }]
            else p.unretired }
  if isOver then endReplay k else k

/-- A granted real step (R11, R27, R40): at its first grant the step's lines are read, and the scale lines that it or the next 32 steps
need and the side port has not read yet (R16), and its vectors broadcast. -/
def grantStep (s : State) (c : Nat) (x : Env) (e : PassEntry) (l : Option LdsOp) (again : Bool) : State :=
  let count (s : State) : State := s.modDie (c / 8) fun d =>
    let p := (s.core c).regs.phase.toNat
    { d with realSteps := d.realSteps.set 0 p (d.realSteps.get 0 p + 1) }
  if e.sub ≠ 0 then (count s).modCore c fun k => putEntry k (afterGrant e) again
  else
    match s.scanLines c x (stepLines e.op e.next ++ scalesOfA e ++ scalesOfB e) with
    | (some cz, s) => s.markFault c e.seq cz e.pc
    | (none, s) =>
      (count s).modCore c fun k =>
        let o := e.op
        let e := readScales k e
        let v : StepVec :=
          { tile := e.tile, seq := e.seq, pc := e.pc, k := e.next, mode := o.mode, bank := o.bank
            stat := if o.mode = .outer then Bank.none else k.bank o.bank
            a := stepVec k o.fmtA o.aAddr e.next e.sa
            b := if o.mode = .outer then stepVec k o.fmtB o.bAddr e.next e.sb else []
            lds := if o.mode = .outer then none else (if again then l else loggedLds k e) }
        (putEntry k (afterGrant e) again).modArr fun a => { a with flying := a.flying ++ [v] }

/-- The contributions of the oldest step in flight reach the accumulators (R72 to R76), or overflow the window (R74). -/
def landStep (s : State) (c : Nat) : State :=
  let k := s.core c
  match k.arr.flying with
  | [] => s
  | v :: rest =>
    match k.tile? v.tile with
    | none => s
    | some t =>
      match landGroups t.anchor k.arr.acc (stepGroups v) with
      | none => (s.overflow c t v.seq v.pc).settle c
      | some (acc, d, nf) =>
        let s := s.probeStep c v
        (s.modCore c fun k =>
          { k with arr := { k.arr with
              acc := acc
              flying := rest
              tiles := k.arr.tiles.map fun u =>
                if u.id == t.id then { u.drops d with nonfinite := u.nonfinite || nf } else u } }).settle c

/-- Retire operations in issue order with their posts; an overflow stops the rest (R23, R47). -/
def retireAll (s : State) (c : Nat) : List Unretired → State
  | [] => s
  | u :: us => retireAll (s.retirePost c u.seq u.pc u.post) c us

/-- Accumulators that hold undefined values, from the `k`-th draw on. -/
def freeAccs (k : Nat) : Tbl Acc :=
  (List.range 4096).foldl
    (fun t i =>
      t.set Acc.zero i
        { w := Bytes.signed 64 (Config.freeNat (k + 2 * i) % 2 ^ 64)
          st := match Config.freeNat (k + 2 * i + 1) % 4 with | 0 => .finite | 1 => .nan | 2 => .posInf | _ => .negInf })
    Tbl.empty

/-- What a capture takes of a tile: its accumulators and itself. An ACCLD that has not written its last line holds no capture back
(R26), and what the accumulators then hold, and at what anchor, the spec leaves open: free values (log 7). -/
def captured (s : State) (c : Nat) (t : Tile) : Tbl Acc × Tile × State :=
  if t.active then ((s.core c).arr.acc, t, s)
  else
    let (n, s) := s.drawNat
    (freeAccs s.free, { t with anchor := Bytes.signed 10 (n % 1024) }, { s with free := s.free + 8192 })

/-- An ACCLD whose tile a DRAIN captures before its last line stops loading and retires with the tile, making its post. DESIGN CHOICE
(log 7): R22 and R26 do not say whether it loads on. -/
def stopLoads (k : Core) (i : Nat) : Core :=
  let late := k.pipe.loadQ.filterMap fun e => match e.op with
    | .accld o => if e.tile == i then some { seq := e.seq, pc := e.pc, tile := some i, bank := none, post := o.post } else none
    | _ => none
  (k.keepLoads fun e => match e.op with | .accld _ => e.tile != i | _ => true).modPipe fun p =>
    { p with unretired := p.unretired ++ late }

/-- DRAIN captures (R23, R29): the shadows take the accumulators, the tile closes, TILE_SEQ rises, the tile's operations retire
and post in issue order, and the Sextant compares. -/
def capture (s : State) (c : Nat) : State :=
  match (s.core c).pipe.drainQ with
  | [] => s
  | d :: rest =>
    match (s.core c).tile? d.tile with
    | none => s
    | some t =>
      if !(s.core c).captureFree d then s
      else
        let (acc, t, s) := s.captured c t
        let s := s.modCore c fun k => stopLoads k t.id
        let mine := ((s.core c).pipe.unretired.filter fun u => u.tile == some t.id).foldr insertBySeq []
        let s := s.sxtCompare c t acc
        let s := s.modCore c fun k =>
          let seq := k.arr.tileSeq + 1
          let sh : Shadow := { acc := acc, anchor := t.anchor, trailer := trailer t d.op.dir seq, entry := d, left := [] }
          { k with
            pipe := { k.pipe with drainQ := rest, unretired := k.pipe.unretired.filter fun u => u.tile != some t.id }
            arr := { k.arr with
              tileSeq := seq
              tiles := k.arr.tiles.filter fun u => u.id != t.id
              shadow := some { sh with left := drainOut sh } } }
        (s.retireAll c mine).settle c

/-- The drain stream's last line is written (R30 to R32) and the DRAIN retires. -/
def streamDone (s : State) (c : Nat) : State :=
  match (s.core c).arr.shadow with
  | none => s
  | some sh =>
    let s := s.modCore c fun k => (putLines k sh.left).modArr fun a => { a with shadow := none }
    (s.retirePost c sh.entry.seq sh.entry.pc sh.entry.op.post).settle c

/-- Lines that a QUANT reads. -/
def quantIn (o : QuantOp) : List Nat :=
  ((List.range (o.rows * o.ifmt.lines)).map fun i => o.src + i) ++ (if o.ifmt.isPartial then [o.taddr] else [])

/-- QUANT writes its last line (R87) and retires. -/
def quantRun (s : State) (c : Nat) (x : Env) : State :=
  let k := s.core c
  match k.pipe.quantQ with
  | [] => s
  | e :: rest =>
    if k.portHeld then s
    else
      match s.scanLines c x (unread k.pipe.quantBuf (quantIn e.op)) with
      | (some cz, s) => (s.markFault c e.seq cz e.pc).settle c
      | (none, s) =>
        let s := s.modCore c fun k =>
          (putLines k (k.pipe.quantOut.getD (quantOut k k.pipe.quantBuf e.op))).modPipe fun p =>
            { p with quantQ := rest, quantBuf := Tbl.empty, quantOut := none }
        (s.retirePost c e.seq e.pc e.op.post).settle c

/-! ## Line by line (R27) -/

/-- Read the first unread line of a list into the lines read; a poisoned line is left to the event that ends the operation, where the
read faults (R19). -/
def readOne (k : Core) (buf : Tbl (List Byte)) (ls : List Nat) : Tbl (List Byte) :=
  match unread buf ls with
  | l :: _ => if k.scratch.poison.get false (64 * l) then buf else buf.put l (k.line l)
  | [] => buf

/-- One arith cycle of an LDS or ACCLD that a replay issues again: it reads its next line once more (R35). -/
def replayLoad (k : Core) : Core :=
  match k.arr.replay.bind fun r => r.items.head? with
  | some (.lds e) =>
    (k.spoilBank e.op.bank).modArr fun a => { a with replay := a.replay.map fun r => { r with buf := readOne k r.buf (ldsLines e.op) } }
  | some (.accld e) =>
    k.modArr fun a => { a with replay := a.replay.map fun r => { r with buf := readOne k r.buf (accldLines e.op) } }
  | _ => k

/-- Whether a replay has an LDS or ACCLD to issue again: it goes before the load queue. -/
def replayLoads (k : Core) : Bool :=
  match k.arr.replay.bind fun r => r.items.head? with
  | some (.lds _) => true
  | some (.accld _) => true
  | _ => false

/-- One arith cycle of the load unit: the operation at its head reads its next line; a bank that an LDS has begun to load holds no
complete tile. -/
def loadCycle (k : Core) : Core :=
  if replayLoads k then replayLoad k
  else
  match k.pipe.loadQ with
  | [] => k
  | e :: _ =>
    if k.portHeld then k
    else
      match e.op with
      | .lds o =>
        if k.ldsFree e.seq o.bank then
          (k.spoilBank o.bank).modPipe fun p => { p with loadBuf := readOne k p.loadBuf (ldsLines o) }
        else k
      | .accld o =>
        if k.accldFree e.seq then k.modPipe fun p => { p with loadBuf := readOne k p.loadBuf (accldLines o) } else k
      | _ => k

/-- A pass with the next scale line read that it wants ahead of its steps (R16); a poisoned line is left to the grant that needs it. -/
def readScale (k : Core) (e : PassEntry) : Option PassEntry :=
  match scalesOfA e, scalesOfB e with
  | l :: _, _ => if k.scratch.poison.get false (64 * l) then none else some { e with sa := e.sa ++ [k.line l] }
  | [], l :: _ => if k.scratch.poison.get false (64 * l) then none else some { e with sb := e.sb ++ [k.line l] }
  | [], [] => none

/-- The first pass of the array queue that wants a scale line reads it: from its entry into the queue on, and, with CLR = 1, once its
anchor is pending (R16). -/
def scaleQueue (k : Core) (anchored : Bool) : List PassEntry → Option (List PassEntry)
  | [] => none
  | e :: es =>
    let waits := e.op.clr && !e.begun
    match (if waits && !anchored then none else readScale k e) with
    | some e => some (e :: es)
    | none => (scaleQueue k (anchored && !waits) es).map (e :: ·)

/-- The pass that a replay issues again reads its next scale line once more (R16, R25). -/
def scaleAgain (k : Core) : Option Core :=
  match k.arr.replay with
  | some r =>
    match r.items with
    | .pass e l :: is =>
      (readScale k e).map fun e => k.modArr fun a => { a with replay := some { r with items := .pass e l :: is } }
    | _ => none
  | none => none

/-- A pass takes this cycle of the side port for a scale line, if one wants it (R16). -/
def scaleCycle (k : Core) : Option Core :=
  match scaleAgain k with
  | some k => some k
  | none => (scaleQueue k k.arr.pend.isSome k.pipe.arrayQ).map fun q => k.modPipe fun p => { p with arrayQ := q }

/-- One arith cycle of an ANCH scan: it reads its next line (R34). -/
def scanCycle (k : Core) : Core :=
  match k.pipe.anchQ with
  | some e => if k.arr.pend.isSome then k else k.modPipe fun p => { p with anchBuf := readOne k p.anchBuf (anchLines e.op) }
  | none => k

/-- One arith cycle of the side port: a pass's scale line, else a scan's line (R16). -/
def sideCycle (k : Core) : Core := match scaleCycle k with | some k => k | none => scanCycle k

/-- One arith cycle of a QUANT: it reads its next input line, or, with all of them read, writes its next output line, up to the last,
which QUANT_DONE writes. -/
def quantCycle (k : Core) : Core :=
  match k.pipe.quantQ with
  | [] => k
  | e :: _ =>
    if k.portHeld then k
    else if unread k.pipe.quantBuf (quantIn e.op) ≠ [] then
      k.modPipe fun p => { p with quantBuf := readOne k p.quantBuf (quantIn e.op) }
    else
      match k.pipe.quantOut.getD (quantOut k k.pipe.quantBuf e.op) with
      | l :: m :: ls => (k.writeLines l.1 l.2).modPipe fun p => { p with quantOut := some (m :: ls) }
      | ls => k.modPipe fun p => { p with quantOut := some ls }

/-- One arith cycle of a drain stream: it writes its next line, up to the last, which DRAIN_STREAM_DONE writes. -/
def drainCycle (k : Core) : Core :=
  match k.arr.shadow with
  | some sh =>
    match sh.left with
    | l :: m :: ls => (k.writeLines l.1 l.2).modArr fun a => { a with shadow := some { sh with left := m :: ls } }
    | _ => k
  | none => k

/-- One arith cycle of the units that read and write scratchpad line by line (R27): reads come before writes (R15). -/
def unitCycle (k : Core) : Core := drainCycle (quantCycle (sideCycle (loadCycle k)))

/-- Whether the mesh lets a MOVE through (R147): a request into a device address as a write, out of one as a read. -/
def moveAllowed (s : State) (c : Nat) (o : MoveOp) : Bool := s.permitted (s.workOfCore c) o.raddr o.len (!o.inbound)

/-- Where a MOVE of core `c` reads. -/
def moveFrom (c : Nat) (o : MoveOp) : Nat := if o.inbound then o.raddr else scratchAddr c o.laddr

/-- Where a MOVE of core `c` writes. -/
def moveTo (c : Nat) (o : MoveOp) : Nat := if o.inbound then scratchAddr c o.laddr else o.raddr

/-- The MOVE at place `i` of the mesh queue, with what it has still to move, becomes visible at its destination (R48, R55, R153) and
retires. Tells whether what it brought in then read poisoned. -/
def moveRun (s : State) (c i : Nat) (x : Env) : Bool × State :=
  match (s.core c).pipe.moveQ[i]? with
  | none => (false, s)
  | some e =>
    if !s.moveAllowed c e.op then (false, s)
    else
      let rs := s.regionsOf (s.workOfCore c)
      let (cs, s) := s.load x rs (moveFrom c e.op + e.moved) (e.op.len - e.moved)
      let s := s.store rs (moveTo c e.op + e.moved) cs
      let s := s.modCore c fun k => k.modPipe fun p => { p with moveQ := p.moveQ.filter fun m => m.seq != e.seq }
      let s := match e.op.remote with
        | some (t, sem) => s.corePost c e.seq e.pc t sem 1 false
        | none => s
      (e.op.inbound && anyPoison cs, (s.retirePost c e.seq e.pc e.op.post).settle c)

/-- The refusal of the MOVE at place `i` of the mesh queue reaches the core (R55, R147). -/
def moveRefused (s : State) (c i : Nat) : State :=
  match (s.core c).pipe.moveQ[i]? with
  | none => s
  | some e => if s.moveAllowed c e.op then s else (s.markFault c e.seq .meshError e.pc).settle c

/-- A post of a unit other than a core (R47). -/
def unitPost (s : State) (c : Nat) (sem : BitVec 6) (n : Nat) : State :=
  let (ovf, s) := s.postSem c sem n
  if ovf then (s.unitOverflow c).settle c else s

/-- A remote post arrives (R48). -/
def deliverPost (s : State) (i : Nat) : State :=
  match s.posts[i]? with
  | none => s
  | some p =>
    let s := { s with posts := s.posts.eraseIdx i }
    let (ovf, s) := s.postSem p.target p.sem p.count
    match p.source with
    | some (c, seq, pc) => (if ovf then s.coreOverflow c seq pc else s).settle c
    | none => if ovf then (s.unitOverflow p.target).settle p.target else s

end State
end Sys2Proof.Machine
end

