-- ==== Sys2Proof/Machine/Keys.lean ====
section
/-!
DEFINITION. The keys of a Meridian session and the bytes of a frame (R207, R208, R210, R212): HMAC and HKDF over SHA-384, the key
schedule of a session, the header of Table 5-4, and the trailer.
-/
namespace Sys2Proof

/-! ## HKDF (RFC 5869) over SHA-384 -/

namespace Machine

/-- SHA-384 as bytes. -/
def hashBytes (b : List Byte) : List Byte := Bytes.ofNat 48 (Config.sha384 b).toNat

/-- HMAC-SHA-384. -/
def hmac (key msg : List Byte) : List Byte :=
  let k := Bytes.fit 128 (if 128 < key.length then hashBytes key else key)
  hashBytes ((k.map fun b => b ^^^ 0x5C) ++ hashBytes ((k.map fun b => b ^^^ 0x36) ++ msg))

/-- HKDF-Extract. -/
def hkdfExtract (salt ikm : List Byte) : List Byte := hmac salt ikm

/-- HKDF-Expand of up to 48 bytes: one block. -/
def hkdfExpand (key : List Byte) (label : String) (n : Nat) : List Byte :=
  (hmac key (label.toList.map (fun c => Bytes.byte c.toNat) ++ [1])).take n

/-- A key of Table 9-5 made from a secret under a label. DESIGN CHOICE (log 100): HKDF with an empty salt, and 48 bytes of it. -/
def hkdf (secret : List Byte) (label : String) : List Byte := hkdfExpand (hkdfExtract (Bytes.zeros 48) secret) label 48

/-- The identity key (Table 9-5). -/
def identityKey : List Byte := hkdf Config.uds "identity"

/-- The label of the direction from node `a` to node `b` (R207). -/
def wayLabel (a b : BitVec 12) : String := if a.toNat < b.toNat then "meridian lo-hi" else "meridian hi-lo"

/-- The pseudorandom key of a handshake: the ECDH secret, salted by the hash of the transcript through KEYX (R207). -/
def shakeSecret (secret transcript : List Byte) : List Byte := hkdfExtract (hashBytes transcript) secret

/-- The finish key (R207). -/
def finishKey (prk : List Byte) : List Byte := hkdfExpand prk "meridian finish" 48

/-- The key after an update (R208). -/
def nextKey (key : List Byte) : List Byte := hkdfExpand key "meridian update" 32

/-- The session that a handshake gives this module `me` with its peer (R207): each direction's key is the first 32 bytes of its
expansion and its IV salt the four after them. -/
def sessionOf (prk : List Byte) (me peer : BitVec 12) (integrity : Bool) : Session :=
  let tx := hkdfExpand prk (wayLabel me peer) 36
  let rx := hkdfExpand prk (wayLabel peer me) 36
  { integrity := integrity, keyed := true, txKey := tx.take 32, rxKey := rx.take 32, txSalt := tx.drop 32, rxSalt := rx.drop 32,
    txKeys := 0, rxKeys := 0, keyFrames := 0, keySince := 0, txPhase := false, rxPhase := false, oldRxKey := none }

end Machine

/-! ## Frames (R210 to R212) -/

namespace Frame

/-- FLAGS (Table 5-4). -/
def flags (f : Frame) : Nat :=
  Bytes.ofBool f.verdict + 2 * Bytes.ofBool f.last + 4 * Bytes.ofBool f.poison + 8 * Bytes.ofBool f.enc + 16 * Bytes.ofBool f.keyphase

/-- The 32 bytes of a frame's header (Table 5-4). -/
def header (f : Frame) : List Byte :=
  Bytes.ofNat 1 (f.type.toNat + 16 * Bytes.ofBool f.lowlat + 32 * Bytes.ofBool f.vc) ++
  Bytes.ofNat 3 (f.seq.toNat + 2 ^ 12 * f.ack.toNat) ++ Bytes.ofNat 2 f.dst.toNat ++ Bytes.ofNat 2 f.src.toNat ++
  Bytes.ofNat 2 f.payload.length ++ Bytes.ofNat 2 (f.cred.toNat + 2 ^ 14 * f.pool.toNat) ++ Bytes.ofNat 2 f.stream.toNat ++
  Bytes.ofNat 2 f.epoch.toNat ++ Bytes.ofNat 1 f.flags ++ Bytes.ofNat 1 f.op.toNat ++ Bytes.ofNat 6 f.offset.toNat ++
  Bytes.ofNat 8 f.frno.toNat

/-- The payload as it stands on the link, and the GCM tag (R206, R208, R212): clear with a zero tag before a session; encrypted with the
header as additional data; or clear with header and payload as additional data. The IV is the salt and then FRNO. -/
def protect (k : Option Machine.Session) (f : Frame) : List Byte × List Byte :=
  match k with
  | none => (f.payload, Bytes.zeros 12)
  | some k =>
    let iv := k.txSalt ++ Bytes.ofNat 8 f.frno.toNat
    if k.integrity then (f.payload, (Config.gcmSeal k.txKey iv (f.header ++ f.payload) []).2)
    else
      let r := Config.gcmSeal k.txKey iv f.header f.payload
      (Bytes.fit f.payload.length r.1, r.2)

/-- The bytes of a frame on the link (R210): header, payload, the first 96 bits of the tag, and CRC-32C over all of these. -/
def wire (k : Option Machine.Session) (f : Frame) : List Byte :=
  let p := f.protect k
  let b := f.header ++ p.1 ++ Bytes.fit 12 p.2
  b ++ Bytes.ofNat 4 (Bytes.crc32c b)

end Frame
end Sys2Proof
end

