-- ==== Sys2Proof/Machine/Slices.lean ====
section
/-!
DEFINITION. What a collective takes and gives: element formats, slices, ranks, and the ranges of its input and output (R227 to R231).
-/
namespace Sys2Proof.Machine

/-! ## Buffers and slices (R228, R229) -/

/-- Element format of a code of IFMT or OFMT (Table 7-10). -/
def elFmtOf : Nat → Option ElFmt
  | 0 => some .g16 | 1 => some .s16 | 2 => some .n32 | 3 => some .f8 | 4 => some .m40 | 5 => some .bytes | _ => none

namespace ElFmt
/-- Bytes of an element. -/
def width : ElFmt → Nat
  | .g16 => 2 | .s16 => 2 | .n32 => 4 | .f8 => 1 | .m40 => 5 | .bytes => 1
/-- The number format of a format that a reduction takes. -/
def num : ElFmt → NumFmt
  | .n32 => .n32 | _ => .h16
/-- Whether an engine reduces the format (R229). -/
def reducible (f : ElFmt) : Bool := f == .g16 || f == .s16 || f == .n32
end ElFmt

/-- Byte ranges (offset, length) of elements `a` to `b - 1` of a buffer of `n` elements: F8 elements stand before their scales, one
to a block of 32. -/
def elRanges (f : ElFmt) (n a b : Nat) : List (Nat × Nat) :=
  if f = .f8 then [(a, b - a), (n + a / 32, (b + 31) / 32 - a / 32)] else [(f.width * a, f.width * (b - a))]

/-- The engine that handles an element (R226). -/
def engineOfEl (i : Nat) : Nat := i / 4096 % 4

/-- Engines that handle elements of a collective of `n` elements (R226). -/
def enginesOf (n : Nat) : List Nat := (List.range 4).filter fun e => e == 0 || decide (4096 * e < n)

/-- The parts of elements `a` to `b - 1` that some engines handle, each a first element and an end: the whole where they are all that have
elements of the collective. -/
def engineSpans (n a b : Nat) (es : List Nat) : List (Nat × Nat) :=
  if (enginesOf n).all es.contains then [(a, b)]
  else
    (List.range ((b + 4095) / 4096)).filterMap fun k =>
      let p := (max a (4096 * k), min b (4096 * (k + 1)))
      if es.contains (k % 4) && decide (p.1 < p.2) then some p else none

/-- Their byte ranges. -/
def engineRanges (f : ElFmt) (n a b : Nat) (es : List Nat) : List (Nat × Nat) := (engineSpans n a b es).flatMap fun p => elRanges f n p.1 p.2

/-- Where byte `o` of the whole input lies in a buffer that holds ranges of it one after the other. -/
def placeIn : List (Nat × Nat) → Nat → Nat
  | [], _ => 0
  | r :: rs, o => if r.1 ≤ o ∧ o < r.1 + r.2 then o - r.1 else r.2 + placeIn rs o

/-- Elements of slice `r` of `n` elements over `k` members (R228): first and end. -/
def sliceOf (n k r : Nat) : Nat × Nat :=
  let z := ((n + k - 1) / max 1 k + 63) / 64 * 64
  (min n (r * z), min n ((r + 1) * z))

/-- Total length of ranges. -/
def rangesLen (rs : List (Nat × Nat)) : Nat := (rs.map Prod.snd).foldl (· + ·) 0

/-- A member's rank: its place in ascending node order (R227). -/
def insertId (n : BitVec 12) : List (BitVec 12) → List (BitVec 12)
  | [] => [n]
  | m :: ms => if n.toNat < m.toNat then n :: m :: ms else if n = m then m :: ms else m :: insertId n ms

/-- The members of a group in ascending node order. -/
def ranked (g : List (BitVec 12)) : List (BitVec 12) := g.foldr insertId []

/-- Whether an operation reduces (Table 5-7). -/
def reduces (o : CollOp) : Bool := o == .reduceScatter || o == .allReduce

/-- OP of a collective (Table 5-7). -/
def collCode : CollOp → BitVec 8
  | .reduceScatter => 0x10 | .allGather => 0x11 | .allReduce => 0x12 | .broadcast => 0x13 | .multicast => 0x14

/-- Bytes put into a table at `off`: every byte is listed, zeros too, so that the table tells what has come. -/
def putEvery (t : Tbl Byte) (off : Nat) : List Byte → Tbl Byte
  | [] => t
  | b :: bs => putEvery (t.put off b) (off + 1) bs

namespace Coll
/-- The rank of a node. -/
def rank (c : Coll) (n : BitVec 12) : Nat := c.group.idxOf n
/-- The slice of the member of rank `r`: first element and end (R228). -/
def slice (c : Coll) (r : Nat) : Nat × Nat := sliceOf c.n c.group.length r
/-- The ranges of the whole input that the member of rank `r` contributes (Table 5-7). -/
def inRanges (c : Coll) (r : Nat) : List (Nat × Nat) :=
  match c.op with
  | .reduceScatter | .allReduce => elRanges c.ifmt c.n 0 c.n
  | .allGather => elRanges c.ifmt c.n (c.slice r).1 (c.slice r).2
  | .broadcast => if r = c.root then elRanges c.ifmt c.n 0 c.n else []
  | .multicast => []
/-- The ranges of the output that the member of rank `r` gets (Table 5-7). -/
def outRanges (c : Coll) (r : Nat) : List (Nat × Nat) :=
  match c.op with
  | .reduceScatter => elRanges c.ofmt c.n (c.slice r).1 (c.slice r).2
  | .allGather | .allReduce => elRanges c.ofmt c.n 0 c.n
  | .broadcast => elRanges c.ofmt c.n 0 c.n
  | .multicast => []
/-- The elements that the member of rank `r` contributes: first and end. -/
def inSpan (c : Coll) (r : Nat) : Nat × Nat :=
  match c.op with
  | .reduceScatter | .allReduce => (0, c.n)
  | .allGather => c.slice r
  | .broadcast => if r = c.root then (0, c.n) else (0, 0)
  | .multicast => (0, 0)
/-- What some engines read of the input of the member of rank `r` (R226). -/
def inShare (c : Coll) (r : Nat) (es : List Nat) : List (Nat × Nat) :=
  if (enginesOf c.n).all es.contains then c.inRanges r else engineRanges c.ifmt c.n (c.inSpan r).1 (c.inSpan r).2 es
/-- The ranges of the input that the member of rank `r` sends to the one of rank `q` (R231): of a reducing collective what `q` reduces,
its slice. -/
def sendsTo (c : Coll) (r q : Nat) : List (Nat × Nat) :=
  if reduces c.op then elRanges c.ifmt c.n (c.slice q).1 (c.slice q).2 else c.inRanges r
/-- What some engines of the member of rank `r` send of its input to the one of rank `q` (R226, R231). -/
def sendShare (c : Coll) (r q : Nat) (es : List Nat) : List (Nat × Nat) :=
  if (enginesOf c.n).all es.contains then c.sendsTo r q
  else
    let p := if reduces c.op then c.slice q else c.inSpan r
    engineRanges c.ifmt c.n p.1 p.2 es
/-- Bytes of the whole input. A reduced slice travels at the offsets that follow it. -/
def inTotal (c : Coll) : Nat := rangesLen (elRanges c.ifmt c.n 0 c.n)
/-- What a member has contributed. -/
def got (c : Coll) (n : BitVec 12) : Tbl Byte := match c.contribs.find? fun k => k.node == n with | some k => k.got | none => Tbl.empty
/-- Every member has contributed what the member `me` takes of it (R228). -/
def allIn (c : Coll) (me : BitVec 12) : Bool :=
  c.contributed && c.group.all fun n =>
    (c.contribs.any (fun k => k.node == n) || !reduces c.op) &&
    decide (rangesLen (c.sendsTo (c.rank n) (c.rank me)) ≤ (c.got n).entries.length)
/-- Elements of the slice of the member `me` that engine `e` reduces, ascending. -/
def share (c : Coll) (me : BitVec 12) (e : Nat) : List Nat :=
  let p := c.slice (c.rank me)
  (List.range (p.2 - p.1)).filterMap fun i => if engineOfEl (p.1 + i) = e then some (p.1 + i) else none
/-- Every member has contributed the elements of this member's slice that engine `e` reduces (R226, R228). -/
def shareIn (c : Coll) (me : BitVec 12) (e : Nat) : Bool :=
  let p := c.slice (c.rank me)
  let w := c.ifmt.width
  let mine (o : Nat) : Bool := decide (p.1 ≤ o / w ∧ o / w < p.2) && engineOfEl (o / w) == e
  c.read.contains e && c.group.all fun n =>
    c.contribs.any (fun k => k.node == n) &&
    decide (w * (c.share me e).length ≤ ((c.got n).entries.filter fun q => mine q.1).length)
/-- Everything that the output of the member `me` needs is there (R228, R231): of a reducing collective its own slice reduced and the
others' delivered. -/
def whole (c : Coll) (me : BitVec 12) : Bool :=
  match c.op with
  | .reduceScatter => c.summed
  | .allReduce => c.summed && decide (rangesLen (c.outRanges (c.rank me)) ≤ c.results.entries.length)
  | _ => c.allIn me
/-- Take bytes of a member's contribution. -/
def take (c : Coll) (n : BitVec 12) (off : Nat) (bs : List Byte) : Coll :=
  { c with
    contribs := if c.contribs.any fun k => k.node == n then
        c.contribs.map fun k => if k.node == n then { k with got := putEvery k.got off bs } else k
      else c.contribs ++ [{ node := n, got := putEvery Tbl.empty off bs }]
    arrivals := c.arrivals ++ [(n, off, bs.length)] }
end Coll

end Sys2Proof.Machine
end

