-- ==== Sys2Proof/Machine/Fabric.lean ====
section
/-!
DEFINITION. Meridian ports and frames (R198 to R225, R239, R242): light, bring-up and its ends, routing, credits, retry, and
the checks that every received frame meets.
-/
namespace Sys2Proof

namespace Frame
/-- Types 0x0 to 0x2 are unsequenced (R211). -/
def sequenced (f : Frame) : Bool := decide (3 ≤ f.type.toNat)
/-- A CREDIT frame that returns the credits of a multicast stream, not of a pool (R245): it carries the stream's operation code, so that
stream 0 has its credits too. -/
def streamCredit (f : Frame) : Bool := f.type == 2 && f.op == 0x14
/-- Receive pool (Table 5-6). -/
def poolNo (f : Frame) : Nat := 2 * Bytes.ofBool f.lowlat + Bytes.ofBool f.vc
/-- Credits that a frame takes (R214): header, payload and trailer in blocks of 64 bytes. -/
def blocks (f : Frame) : Nat := (48 + f.payload.length + 63) / 64
end Frame

end Sys2Proof

namespace Sys2Proof.Machine

/-! ## Addressing and routing (R221 to R225) -/

/-- Coordinate of a node in dimension `d`. -/
def coord (n : BitVec 12) (d : Nat) : Nat := Bytes.bits n.toNat (3 * d) 3
/-- Ring size of dimension `d` in a FAB_DIM value. -/
def ringSize (dim : BitVec 16) (d : Nat) : Nat := Bytes.bits dim.toNat (4 * d) 4
/-- A valid node identifier (R221). -/
def nodeOk (dim : BitVec 16) (n : BitVec 12) : Bool := [0, 1, 2, 3].all fun d => decide (coord n d < ringSize dim d)
/-- A FAB_DIM value that a write takes (R253): every size from 1 to 8. -/
def dimOk (dim : BitVec 16) : Bool := [0, 1, 2, 3].all fun d => decide (1 ≤ ringSize dim d ∧ ringSize dim d ≤ 8)

/-- The port by which a frame leaves node `me` (R222); none when it has arrived. -/
def nextPort (dim : BitVec 16) (me dst src : BitVec 12) : Option Nat :=
  [0, 1, 2, 3].findSome? fun d =>
    let k := max 1 (ringSize dim d)
    let delta := (coord dst d + k - coord me d % k) % k
    if delta = 0 then none
    else if delta < k - delta then some (2 * d)
    else if k - delta < delta then some (2 * d + 1)
    else if coord src d % 2 = 0 then some (2 * d) else some (2 * d + 1)

/-- The node at the other end of a port (R222). -/
def neighbour (dim : BitVec 16) (me : BitVec 12) (p : Nat) : BitVec 12 :=
  let d := p / 2
  let k := max 1 (ringSize dim d)
  let x := if p % 2 = 0 then (coord me d + 1) % k else (coord me d + k - 1) % k
  BitVec.ofNat 12 (me.toNat - coord me d * 2 ^ (3 * d) + x * 2 ^ (3 * d))

/-- Whether leaving node `me` by port `p` crosses the dateline of the dimension (R223). -/
def crosses (dim : BitVec 16) (me : BitVec 12) (p : Nat) : Bool :=
  let d := p / 2
  if p % 2 = 0 then coord me d + 1 == ringSize dim d else coord me d == 0

/-- The port by which a frame of node `src` for `dst` reaches its end (R222): the far end of the last link of its way from `me` on. -/
def inPort (dim : BitVec 16) (dst src : BitVec 12) : Nat → BitVec 12 → Option Nat
  | 0, _ => none
  | fuel + 1, me =>
    match nextPort dim me dst src with
    | none => none
    | some p => if neighbour dim me p = dst then some (if p % 2 = 0 then p + 1 else p - 1) else inPort dim dst src fuel (neighbour dim me p)

/-- The nodes that a frame visits from `me` on, without `me`; `fuel` bounds the hops. -/
def walk (dim : BitVec 16) (dst src : BitVec 12) : Nat → BitVec 12 → List (BitVec 12)
  | 0, _ => []
  | fuel + 1, me =>
    match nextPort dim me dst src with
    | none => []
    | some p => neighbour dim me p :: walk dim dst src fuel (neighbour dim me p)

/-! ## Frames -/

/-- A frame with nothing but its type, class and operation. -/
def blankFrame (type : BitVec 4) (low : Bool) (op : BitVec 8) : Frame :=
  { type := type, lowlat := low, vc := false, seq := 0, ack := 0, dst := 0, src := 0, cred := 0, pool := 0, stream := 0,
    epoch := 0, verdict := false, last := false, poison := false, enc := false, keyphase := false, op := op, offset := 0,
    frno := 0, payload := [], rsv := false, fecBad := false, fecFixed := 0, crcOk := true, tagOk := true }


/-- Size of a receive pool in blocks (Table 5-6). -/
def poolBlocks (p : Nat) : Nat := if p < 2 then 16384 else 1024

namespace State

/-- This module's node identifier. -/
def node (s : State) : BitVec 12 := (s.engine 0).node
/-- FAB_DIM. -/
def dim (s : State) : BitVec 16 := (s.engine 0).dim
/-- FAB_EPOCH. -/
def epoch (s : State) : BitVec 16 := (s.engine 0).epoch

/-- Change every engine: the firmware writes FAB_NODE, FAB_DIM and FAB_EPOCH in all four (R221). -/
def modEngines (s : State) (f : Engine → Engine) : State := [0, 1, 2, 3].foldl (fun s e => s.modEngine e f) s

/-! ## Light (R200 to R202) -/

/-- The external source lights a port of engine `e` (R200). -/
def extLight (s : State) (e : Nat) : Bool :=
  s.fab.elsPresent && s.fab.elsClosed && s.fab.elsWorks && (s.engine e).elsAllow

/-- The external source lights a port: not one that start-up brought up on the on-module laser bank (R200, R377). -/
def portLight (s : State) (p : Nat) : Bool := s.extLight (p / 2) && !(s.port p).bank

/-- The conditions under which the module closes the external source's interlock loop (R201). -/
def loopMay (s : State) : Bool :=
  s.power.rails && !s.power.perst && !s.power.tripped && [0, 1, 2, 3].any fun e => (s.engine e).en

/-- The interlock loop follows its conditions (R201); an open loop is not closed at the source either. -/
def setLoop (s : State) : State :=
  if s.loopMay == s.fab.loop then s
  else (s.modFab fun f => { f with loop := s.loopMay, elsClosed := f.elsClosed && s.loopMay }).emit (.pin "ELS_LOOP" s.loopMay)

/-! ## Credits owed (R214) -/

/-- The pool of port `p` for which most credits are owed. -/
def owedPool (x : Port) : Nat := [1, 2, 3].foldl (fun b i => if x.owed.get 0 b < x.owed.get 0 i then i else b) 0

/-- A frame has been sent: with the last one of an entry of a pipeline queue, P_CREDIT is posted (R250). -/
def entrySent (s : State) (f : Frame) : State :=
  if f.type = 4 ∧ f.last = true ∧ f.src = s.node then
    match s.fab.queues.find? fun q => q.rec_.qid == f.stream && q.rec_.pNode == s.node with
    | some q => s.unitPost q.rec_.pCore.toNat q.rec_.pCredit 1
    | none => s
  else s

/-- A COLL frame of this module has left: its collective makes progress (R238). -/
def collSent (s : State) (f : Frame) : State :=
  if f.type = 6 ∧ f.src = s.node then
    s.modFab fun b => { b with colls := b.colls.map fun c =>
      if c.stream == f.stream && c.epoch == f.epoch && collCode c.op == f.op then { c with progress := s.ns } else c }
  else s

/-- A frame leaves port `p` now (R208, R210, R214): the fields that the link layer owns are filled in (Table 5-4), credits go back in CRED
for the pool that `pool` names or that is owed most, and the bytes go out under the session's key. -/
def putOutFor (s : State) (p : Nat) (pool : Option Nat) (f : Frame) : State :=
  let x := s.port p
  let integ := match x.session with | some k => k.integrity | none => false
  let phase := match x.session with | some k => k.txPhase | none => false
  let pool := pool.getD (owedPool x)
  let back := if f.streamCredit then 0 else min (x.owed.get 0 pool) 16383
  let f := { f with ack := BitVec.ofNat 12 (x.rxFrno + 4095), enc := x.session.isSome && !integ, keyphase := phase }
  let f := if f.streamCredit then f else { f with cred := BitVec.ofNat 14 back, pool := BitVec.ofNat 2 pool }
  let f := if f.sequenced then { f with frno := BitVec.ofNat 64 x.txFrno, seq := BitVec.ofNat 12 x.txFrno }
           else { f with frno := BitVec.ofNat 64 (x.txUnseq + 2 ^ 63), seq := 0 }
  let w := f.wire x.session
  let s := s.modPort p fun x =>
    { x with
      owed := x.owed.set 0 pool (x.owed.get 0 pool - back)
      sinceAck := 0
      session := x.session.map fun k => { k with keyFrames := k.keyFrames + 1, oldRxKey := none }
      txUnseq := if f.sequenced then x.txUnseq else x.txUnseq + 1
      retry := if f.sequenced then x.retry ++ [{ frno := x.txFrno, frame := f, wire := w }] else x.retry
      progressAt := if f.sequenced && x.retry.isEmpty then s.ns else x.progressAt
      credits := if f.sequenced then x.credits.set 0 f.poolNo (x.credits.get 0 f.poolNo - f.blocks) else x.credits
      txFrames := if f.sequenced then Word.satInc x.txFrames else x.txFrames
      txFrno := if f.sequenced then x.txFrno + 1 else x.txFrno }
  ((s.emit (.frame (Fin.ofNat 8 p) f w)).entrySent f).collSent f

/-- A frame leaves port `p` now. -/
def putOut (s : State) (p : Nat) (f : Frame) : State := s.putOutFor p none f

/-- A CREDIT frame returns what is owed for a pool (R214). -/
def creditOut (s : State) (p pool : Nat) : State :=
  if (s.port p).mode = .up ∧ (s.port p).owed.get 0 pool ≠ 0 then s.putOutFor p (some pool) { blankFrame 2 false 0 with epoch := s.epoch } else s

/-- A frame leaves the receive buffer of port `p` (R214): its credits are owed for its pool, and go back in a CREDIT frame at the latest
when half of the pool is owed. -/
def owe (s : State) (p pool n : Nat) : State :=
  let s := s.modPort p fun x => { x with owed := x.owed.set 0 pool (x.owed.get 0 pool + n) }
  if poolBlocks pool ≤ 2 * (s.port p).owed.get 0 pool then s.creditOut p pool else s

/-- A waiting frame gives up the place that it holds in the receive pool of the port by which it came. -/
def leaves (s : State) (w : Waiting) : State :=
  match w.hold with
  | some (q, pool) => s.owe q pool w.frame.blocks
  | none => s

/-! ## Port states (R203 to R209) -/

/-- A port that carries nothing more: session, retry buffer and waiting frames go, the frames that came by other ports leaving their
buffers there. -/
def clearPort (s : State) (p : Nat) (f : Port → Port) : State :=
  let ws := (s.port p).waitTx
  let s := s.modPort p fun x =>
    f { x with session := none, rehandshake := false, shake := Shake.reset, retry := [], waitTx := [], lanes := 0, width := 0 }
  ws.foldl leaves s

/-- A port goes OUT of service with a cause (Table 5-13). -/
def portOut (s : State) (p : Nat) (cause : BitVec 4) : State := s.clearPort p fun x => { x with mode := .out, cause := cause }

/-- A port enters RETRAIN (R209, R211, R220): its sequence state and retry buffer stay; with `again` its session ends, and the handshake
runs again on the next UP. -/
def portRetrain (s : State) (p : Nat) (again : Bool) : State :=
  s.modPort p fun x =>
    { x with
      mode := .retrain
      since := s.ns
      rehandshake := x.rehandshake || again
      wasExt := x.extSrc
      session := if again then none else x.session }

/-- PORT_STATE code (Table 5-2). -/
def portCode : PortMode → Nat
  | .off => 0 | .dark => 1 | .train => 2 | .attest => 3 | .up => 4 | .retrain => 5 | .out => 6

/-- PORT_STATE_j (Table 5-12). -/
def portState (x : Port) : Nat :=
  portCode x.mode + 16 * x.width.toNat + 256 * x.lanes.toNat + 2 ^ 20 * Bytes.ofBool x.prot + 2 ^ 21 * Bytes.ofBool x.extSrc +
  2 ^ 22 * Bytes.ofBool x.keyphase + 2 ^ 24 * x.cause.toNat + 2 ^ 36 * x.peer.toNat

/-- A port enters DARK from UP or RETRAIN (R209): session and retry buffer go, one LINK_DOWN event, LINKDN and its counter. -/
def portDark (s : State) (p : Nat) : State :=
  let x := s.port p
  let s := s.clearPort p fun x => { x with mode := .dark, linkdnCnt := Word.satInc x.linkdnCnt }
  let s := (s.modEngine (p / 2) fun e => { e with linkdn := vmod e.linkdn (p % 2) fun _ => true }).occur
    (regKey 8 (p / 2) 8) (p % 2)
  s.event 0x0040 0x09 p true 0xFF 0xFFFF (Bytes.ofNat 8 (portState x) ++ Bytes.ofNat 2 x.peer.toNat)

/-- Ports of a dimension of size 1 go OUT, UNUSED (R221). -/
def unusedPorts (s : State) : State :=
  (List.range 8).foldl
    (fun s p =>
      if ringSize (s.engine (p / 2)).dim (p / 2) = 1 ∧ (s.port p).mode ≠ .off ∧ (s.port p).mode ≠ .out then s.portOut p 0x6 else s) s

/-- OPT_CTRL.EN = 1 (Table 5-2): the engine's OFF ports enter DARK; those of a dimension of size 1 go OUT, UNUSED (R221). -/
def engineOn (s : State) (e : Nat) : State :=
  let s := s.modEngine e fun x => { x with en := true }
  let s := [2 * e, 2 * e + 1].foldl
    (fun s p =>
      if (s.port p).mode = .off then
        (if ringSize s.dim e = 1 then s.portOut p 0x6 else s.modPort p fun x => { x with mode := .dark, since := s.ns })
      else s)
    s
  s.setLoop

/-- Lanes and width code that a training agrees on (R204): all four, else {0, 1}, else {2, 3}, else the lowest usable. -/
def widthOf (usable : BitVec 4) : BitVec 4 × BitVec 2 :=
  if usable = 0xF then (0xF, 3)
  else if usable.getLsbD 0 && usable.getLsbD 1 then (0x3, 2)
  else if usable.getLsbD 2 && usable.getLsbD 3 then (0xC, 2)
  else if usable.getLsbD 0 then (0x1, 1)
  else if usable.getLsbD 1 then (0x2, 1)
  else if usable.getLsbD 2 then (0x4, 1)
  else if usable.getLsbD 3 then (0x8, 1)
  else (0, 0)

/-- Send a handshake message (R206, Table 5-3) in CTRL frames of up to 512 bytes, numbered from 0 within the handshake, with a zero tag. -/
def sendShake (s : State) (p : Nat) (op : BitVec 8) (msg : List Byte) : State :=
  let parts := Bytes.chunks 512 (Bytes.fit ((max 1 msg.length + 15) / 16 * 16) msg)
  let s := (List.range parts.length).foldl
    (fun s i =>
      let k := (s.port p).shake.frames
      let f : Frame :=
        { blankFrame 3 true op with
          dst := neighbour s.dim s.node p, src := s.node, epoch := s.epoch, last := i + 1 == parts.length
          offset := BitVec.ofNat 48 (512 * i), frno := BitVec.ofNat 64 k, seq := BitVec.ofNat 12 k, payload := parts.getD i [] }
      (s.modPort p fun x => { x with txFrames := Word.satInc x.txFrames, shake := { x.shake with frames := k + 1 } }).emit (.frame (Fin.ofNat 8 p) f (f.wire none)))
    s
  s.modPort p fun x => { x with shake := { x.shake with sent := x.shake.sent ++ [msg] } }

/-- The bytes of a HELLO message: node identifier, FAB_DIM, port number, protection mode and nonce (Table 5-3). -/
def helloBytes (m : HelloMsg) : List Byte :=
  Bytes.ofNat 2 m.node.toNat ++ Bytes.ofNat 2 m.dim.toNat ++ Bytes.ofNat 1 m.port.toNat ++ Bytes.ofNat 1 (Bytes.ofBool m.integrity) ++
  Bytes.ofNat 48 m.nonce.toNat

/-- A port enters ATTEST (R206): a fresh nonce is drawn and HELLO leaves. The link fields of the owner policy as they are now hold for this
handshake (R357). -/
def attestBegins (s : State) (p : Nat) : State :=
  let nonce := Config.random s.sec.nonceNext
  let s := s.modSec fun c => { c with nonceNext := c.nonceNext + 1 }
  let s := s.modPort p fun x =>
    { x with mode := .attest, handshake := 0, since := s.ns, shake := { Shake.reset with nonce := nonce, policy := s.sec.policy } }
  s.sendShake p 0x01 (helloBytes
    { node := s.node, dim := s.dim, port := BitVec.ofNat 3 p, nonce := nonce, integrity := s.sec.policy.integrity })

/-- A training ends (R200, R203, R204): the port runs its handshake, or its third failed attempt leaves it OUT. -/
def trainDone (s : State) (p : Nat) (usable : BitVec 4) : State :=
  let x := s.port p
  if x.mode ≠ .train then s
  else if (widthOf usable).2 = 0 then
    if 2 ≤ x.trainFails then s.portOut p (if x.wasExt && !x.extSrc then 0x5 else 0x1)
    else s.modPort p fun x => { x with trainFails := x.trainFails + 1, since := s.ns }
  else
    (s.modPort p fun x =>
      { x with
        lanes := (widthOf usable).1, width := (widthOf usable).2, trainFails := 0
        txFrno := 0, txUnseq := 0, rxFrno := 0, rxUnseq := 0, acked := 0, sinceAck := 0, gap := false, noProgress := 0, retry := []
        credits := { entries := [(0, 16384), (1, 16384), (2, 1024), (3, 1024)] }, owed := Tbl.empty, slot := 0
        lowSlots := 0 }).attestBegins p

/-- A port is UP under the keys of its handshake (R206 to R208, R214, R219). Frames that were not acknowledged before a handshake that ran
again keep their numbers and are sent again under the new key, of whose frames they are the first (R208, R217). -/
def portUp (s : State) (p : Nat) : State :=
  let x := s.port p
  let integ := x.shake.policy.integrity
  let k := x.shake.keys.getD (sessionOf [] s.node x.peer integ)
  let k := { k with integrity := integ, keySince := s.ns, keyFrames := x.retry.length }
  let again := x.retry.map fun h =>
    let f := { h.frame with enc := !integ, keyphase := false }
    ({ h with frame := f, wire := f.wire (some k) } : Held2)
  let s := s.modPort p fun x =>
    { x with
      mode := .up, prot := integ, rehandshake := false, keyphase := false, session := some k, shake := Shake.reset
      retry := again, retryCnt := Word.satAdd x.retryCnt again.length, noProgress := 0, progressAt := s.ns, authTimes := [] }
  again.foldl (fun s h => s.emit (.frame (Fin.ofNat 8 p) h.frame h.wire)) s

/-! ## Sending (R211, R214 to R218, R225) -/

/-- Whether a sequenced frame may be sent: credits of its pool, and fewer than 2,047 frames unacknowledged (R214, R217). -/
def maySend (x : Port) (f : Frame) : Bool :=
  x.mode == .up && decide (f.blocks ≤ x.credits.get 0 f.poolNo) && decide (x.retry.length < 2047)

/-- The first waiting frame of a pool (Table 5-6), if it may be sent. -/
def firstOf (x : Port) (low vc : Bool) : Option Waiting :=
  (x.waitTx.find? fun w => w.frame.lowlat == low && w.frame.vc == vc).filter fun w => maySend x w.frame

/-- The next frame of a class (R223): of its virtual channels' first frames that may be sent the one that has waited longer, so that
neither channel holds the other. -/
def nextOf (x : Port) (low : Bool) : Option Waiting :=
  match firstOf x low false, firstOf x low true with
  | some a, some b => if (x.waitTx.find? fun w => w.frame.lowlat == low).any (·.frame.vc) then some b else some a
  | some a, none => some a
  | none, b => b

/-- The next waiting frame of a port (R215): low-latency frames first for up to 16 of every 64 slots, then in turn with bulk ones; a
class whose frames may not be sent gives way. -/
def nextWaiting (x : Port) : Option Waiting :=
  let low := nextOf x true
  let bulk := nextOf x false
  let lowTurn := decide (x.lowSlots < 16) || x.slot % 2 == 0
  match low, bulk with
  | some f, some g => some (if lowTurn then f else g)
  | some f, none => some f
  | none, g => g

/-- Remove the first frame of a pool. -/
def dropFirst (low vc : Bool) : List Waiting → List Waiting
  | [] => []
  | w :: ws => if w.frame.lowlat == low && w.frame.vc == vc then ws else w :: dropFirst low vc ws

/-- Send waiting frames while credits last. -/
def pump (p : Nat) : Nat → State → State
  | 0, s => s
  | fuel + 1, s =>
    match nextWaiting (s.port p) with
    | none => s
    | some w =>
      let s := s.modPort p fun x =>
        { x with
          waitTx := dropFirst w.frame.lowlat w.frame.vc x.waitTx
          slot := (x.slot + 1) % 64
          lowSlots := if x.slot = 63 then 0 else x.lowSlots + Bytes.ofBool w.frame.lowlat }
      pump p fuel ((s.putOut p w.frame).leaves w)

/-- Send what waits at a port while credits last. -/
def pumpAll (s : State) (p : Nat) : State := pump p ((s.port p).waitTx.length + 1) s

/-- Hand a frame to port `p`; `hold` is the place that it holds in the receive pool of another port. -/
def transmit (s : State) (p : Nat) (f : Frame) (hold : Option (Nat × Nat)) : State :=
  if f.sequenced then (s.modPort p fun x => { x with waitTx := x.waitTx ++ [{ frame := f, hold := hold }] }).pumpAll p
  else s.putOut p f

/-- What a frame of this module takes with it when it is discarded (R225, R251): a pipeline queue that loses a DATA frame or a credit is
cut; one of whose entries waits for a peer's answer too when the OPEN is lost, and the next frame to that peer asks again. -/
def ownLost (s : State) (f : Frame) : State :=
  let opens := f.type == 3 && f.op == 0x07
  let cut (q : PipeQ) : Bool :=
    ((f.type == 4 || (f.type == 3 && f.op == 0x0C)) && q.rec_.qid == f.stream) ||
    (opens && s.fab.heldTo.any fun g => g.type == 4 && g.dst == f.dst && g.stream == q.rec_.qid)
  s.modFab fun b =>
    { b with
      openLost := if opens then b.openLost ++ [f.dst] else b.openLost
      queues := b.queues.map fun q => if cut q && !q.cut then { q with cut := true, progress := s.ns } else q }

/-- A frame is discarded for want of a route (R225): OPT_STATUS.UNROUTE of engine `e`; a frame that came by a port leaves its buffer. -/
def unroute (s : State) (e : Nat) (via : Option Nat) (f : Frame) : State :=
  let s := (s.modEngine e fun x => { x with unroute := true, unrouteCnt := Word.satInc x.unrouteCnt }).occur (regKey 8 e 8) 6
  match via with
  | some q => if f.sequenced then s.owe q f.poolNo f.blocks else s
  | none => s.ownLost f

/-- Route a frame on from this node (R222, R223, R225); `via` is the port by which it came, if any. -/
def route (s : State) (via : Option Nat) (f : Frame) : State :=
  let here := match via with | some q => q / 2 | none => 0
  if !nodeOk s.dim f.dst then s.unroute here via f
  else
    match nextPort s.dim s.node f.dst f.src with
    | none => s
    | some p =>
      if (s.port p).mode ≠ .up then s.unroute (p / 2) via f
      else
        let kept := match via with | some q => decide (q / 2 = p / 2) && f.vc | none => false
        s.transmit p { f with vc := kept || crosses s.dim s.node p } (via.map fun q => (q, f.poolNo))

/-- Frames that R239 holds until the peer has answered an OPEN. -/
def needsOpen (f : Frame) : Bool := f.type == 4 || f.type == 6 || f.type == 7 || f.type == 8

/-- Ask a peer for the epoch (R239). -/
def sendOpen (s : State) (dst : BitVec 12) : State :=
  s.route none { blankFrame 3 true 0x07 with dst := dst, src := s.node, epoch := s.epoch }

/-- Send a frame of this module towards `f.dst` (R239): before the first frame of an epoch to a peer an OPEN is sent, and frames
wait for its answer. -/
def sendFrame (s : State) (f : Frame) : State :=
  let f := { f with src := s.node, epoch := s.epoch }
  if !needsOpen f || s.fab.opened.contains f.dst then s.route none f
  else
    let asked := (s.fab.heldTo.any fun g => g.dst == f.dst) && !s.fab.openLost.contains f.dst
    let s := s.modFab fun b => { b with heldTo := b.heldTo ++ [f], openLost := b.openLost.filter fun n => n != f.dst }
    if asked then s else s.sendOpen f.dst

/-- A control message to a node (Table 5-5). -/
def sendCtrl (s : State) (dst : BitVec 12) (op : BitVec 8) (stream : BitVec 16) (epoch : BitVec 16) : State :=
  s.route none { blankFrame 3 true op with dst := dst, src := s.node, epoch := epoch, stream := stream }

/-- An ACK frame (R218). -/
def sendAck (s : State) (p : Nat) : State := s.putOut p { blankFrame 0 false 0 with epoch := s.epoch }
/-- A NAK frame (R216). -/
def sendNak (s : State) (p : Nat) : State := s.putOut p { blankFrame 1 false 0 with epoch := s.epoch }

/-! ## Acknowledgement and retransmission (R217) -/

/-- The frames up to the one that `ack` names have arrived: they leave the retry buffer. -/
def takeAck (s : State) (p : Nat) (ack : BitVec 12) : State :=
  let x := s.port p
  match x.retry.find? fun h => BitVec.ofNat 12 h.frno == ack with
  | none => s
  | some h =>
    (s.modPort p fun x =>
      { x with retry := x.retry.filter fun g => decide (h.frno < g.frno), acked := h.frno, noProgress := 0, progressAt := s.ns }).pumpAll p

/-- Send every unacknowledged frame again, byte for byte (R208, R217); OPT_RETRY.LIMIT times without progress lead to RETRAIN. -/
def resend (s : State) (p : Nat) : State :=
  let x := s.port p
  if x.retry.isEmpty then s
  else
    let s := x.retry.foldl (fun s h => s.emit (.frame (Fin.ofNat 8 p) h.frame h.wire)) s
    let s := s.modPort p fun x =>
      { x with retryCnt := Word.satAdd x.retryCnt x.retry.length, noProgress := x.noProgress + 1, progressAt := s.ns }
    if (s.engine (p / 2)).limit.toNat ≤ (s.port p).noProgress then s.portRetrain p false else s

/-! ## Receiving (R211 to R216, R220) -/

/-- A frame that fails a check opens a gap: one NAK at its start (R216). -/
def badFrame (s : State) (p : Nat) : State :=
  if (s.port p).gap then s
  else (s.modPort p fun x => { x with gap := true, gapSince := s.ns }).sendNak p

/-- A tag failure (R220): counted; four within a second end the session. -/
def tagFail (s : State) (p : Nat) : State :=
  let times := (s.port p).authTimes.filter (fun t => decide (s.ns < t + 1000000000)) ++ [s.ns]
  let s := s.modPort p fun x => { x with authCnt := Word.satInc x.authCnt, authTimes := times }
  let s := (s.modEngine (p / 2) fun e => { e with auth := vmod e.auth (p % 2) fun _ => true }).occur
    (regKey 8 (p / 2) 8) (2 + p % 2)
  if 4 ≤ times.length then (s.modPort p fun x => { x with authTimes := [] }).portRetrain p true else s.badFrame p

/-- Credits that a frame returns to the sender (R214). -/
def takeCredit (s : State) (p : Nat) (pool n : Nat) : State :=
  (s.modPort p fun x => { x with credits := x.credits.set 0 pool (min (poolBlocks pool) (x.credits.get 0 pool + n)) }).pumpAll p

/-- A sequenced frame is accepted (R208, R216, R218), and acknowledged when enough are. A new key phase brings the next receive key. -/
def acceptSeq (s : State) (p : Nat) (f : Frame) : State :=
  let s := s.modPort p fun x =>
    { x with
      rxFrno := x.rxFrno + 1
      gap := false
      rxFrames := Word.satInc x.rxFrames
      sinceAck := x.sinceAck + 1
      session := x.session.map fun k =>
        if k.rxPhase == f.keyphase then k
        else { k with rxPhase := f.keyphase, rxKeys := k.rxKeys + 1, rxKey := nextKey k.rxKey, oldRxKey := some k.rxKey } }
  if (s.engine (p / 2)).ackFrames.toNat ≤ (s.port p).sinceAck then s.sendAck p else s

/-- Whether SEQ and FRNO are those that a receiver takes (R211, R213): the expected ones of a sequenced frame; of another, SEQ zero and an
FRNO with bit 63 set that is higher than any before it. -/
def numberOk (x : Port) (f : Frame) : Bool :=
  if f.sequenced then decide (f.frno.toNat = x.rxFrno ∧ f.seq = BitVec.ofNat 12 x.rxFrno)
  else decide (f.seq = 0 ∧ 2 ^ 63 + x.rxUnseq ≤ f.frno.toNat)

/-- What the FEC counts of a frame at port `p`: its corrected codewords, and an uncorrectable one (R213). -/
def countFec (s : State) (p : Nat) (f : Frame) : State :=
  s.modPort p fun x =>
    { x with
      fecCorr := x.fecCorr + BitVec.ofNat 64 f.fecFixed
      fecUnc := if f.fecBad then Word.satInc x.fecUnc else x.fecUnc }

/-- A frame arrives at port `p` in UP (R211 to R216, R220): FEC, CRC, tag, then SEQ and FRNO. `act` is what follows its acceptance. A frame
that ends here leaves the receive buffer at once; one that goes on keeps its place until it is sent on. -/
def receive (s : State) (p : Nat) (type : BitVec 4) (f : Frame) (act : State → State) : State :=
  let x := s.port p
  if x.mode ≠ .up then s
  else if f.type ≠ type ∧ f.type.toNat < 9 then s
  else
    let s := s.countFec p f
    if f.fecBad || !f.crcOk then s.badFrame p
    else
      let mode := match x.session with | some k => k.integrity | none => false
      if !f.tagOk || f.enc == mode then s.tagFail p
      else if f.rsv || decide (9 ≤ f.type.toNat) then s.portRetrain p true
      else if !numberOk x f then s.badFrame p
      else
        let s := s.takeAck p f.ack
        let s := if f.streamCredit then s else s.takeCredit p f.pool.toNat f.cred.toNat
        if !f.sequenced then act (s.modPort p fun x => { x with rxUnseq := f.frno.toNat - 2 ^ 63 + 1 })
        else
          let s := s.acceptSeq p f
          act (if f.dst = s.node ∨ (f.type = 3 ∧ f.op = 0x06) then s.owe p f.poolNo f.blocks else s)

/-- A frame that is not for this node goes on (R222); one for it takes effect. -/
def deliver (s : State) (p : Nat) (f : Frame) (act : State → State) : State :=
  if f.dst = s.node then act s else s.route (some p) f

/-- A frame whose epoch is not this module's is discarded and counted (R242). -/
def staleDrop (s : State) (p : Nat) : State :=
  (s.modEngine (p / 2) fun e => { e with stale := true, staleCnt := Word.satInc e.staleCnt }).occur (regKey 8 (p / 2) 8) 4

/-- An OPEN for the current epoch is answered; one for a later epoch waits; one for an abandoned epoch gets STALE; any other is discarded
and counted (R239, R241, R242). -/
def openAsked (s : State) (p : PortId) (f : Frame) : State :=
  if f.epoch = s.epoch then s.sendCtrl f.src 0x08 0 f.epoch
  else if s.fab.abandoned.contains f.epoch then (s.staleDrop p.val).sendCtrl f.src 0x09 f.stream f.epoch
  else if (f.epoch - s.epoch).toNat < 0x8000 then
    s.modFab fun b => { b with waitOpen := b.waitOpen ++ [(f.src, f.epoch, p, s.ns)] }
  else s.staleDrop p.val

/-- An OPEN_ACK for the current epoch lets the frames held for that peer go (R239); one of another epoch is discarded and counted. -/
def openAnswered (s : State) (p : Nat) (f : Frame) : State :=
  if f.epoch ≠ s.epoch then s.staleDrop p
  else if s.fab.opened.contains f.src then s
  else
    let go := s.fab.heldTo.filter fun g => g.dst == f.src
    let s := s.modFab fun b =>
      { b with opened := b.opened ++ [f.src], heldTo := b.heldTo.filter fun g => g.dst != f.src }
    go.foldl (fun s g => s.route none g) s

/-- An OPEN that has waited longer than the collective timeout has lapsed (R239). -/
def openLapsed (s : State) (w : BitVec 12 × BitVec 16 × PortId × Nat) : Bool :=
  decide (w.2.2.2 + 1000000 * (s.engine 0).collTimeout.toNat ≤ s.ns)

/-- The module is in epoch `e` (R239, R240): peers are opened again, OPENs that waited for it are answered, and the entries of pipeline
queues that have not left yet wait for their peer's answer in the new epoch. Frames of the old epoch's collectives that were held go. -/
def epochBegins (s : State) (e : BitVec 16) : State :=
  let now := s.fab.waitOpen.filter fun w => w.2.1 == e && !s.openLapsed w
  let queued := (List.range 8).flatMap fun p =>
    ((s.port p).waitTx.filter fun w => w.hold.isNone && w.frame.type == 4).map (·.frame)
  let kept := (queued ++ s.fab.heldTo.filter fun f => f.type == 4).map fun f => { f with epoch := e, vc := false }
  let s := (List.range 8).foldl
    (fun s p => s.modPort p fun x => { x with waitTx := x.waitTx.filter fun w => !(w.hold.isNone && w.frame.type == 4) }) s
  let s := s.modFab fun b =>
    { b with opened := [], openLost := [], heldTo := kept, early := b.early.filter fun f => f.epoch == e, removed := []
             waitOpen := b.waitOpen.filter fun w => w.2.1 != e }
  let s := (kept.map (·.dst)).eraseDups.foldl sendOpen s
  now.foldl (fun s w => s.sendCtrl w.1 0x08 0 e) s

/-- The module enters epoch `e` (R239, R240): the firmware writes FAB_EPOCH in all four engines. -/
def enterEpoch (s : State) (e : BitVec 16) : State := (s.modEngines fun x => { x with epoch := e }).epochBegins e

/-- Key under which a multicast stream's replay buffer is reserved in a device area (R156, R244). -/
def replayKey (st : BitVec 16) : Nat := 0x10000 + st.toNat

/-- A multicast stream ends on this module: its replay buffer leaves the device area (R244). -/
def dropStream (s : State) (st : BitVec 16) : State :=
  let s := s.modFab fun b => { b with streams := b.streams.filter fun k => k.stream != st }
  [0, 1, 2, 3].foldl (fun s m => s.modMem m fun d => { d with area := d.area.filter fun a => a.1 != replayKey st }) s

/-- A change of the light's source (R200): every UP port whose source changes retrains, and one that still trains or attests trains again
on the source that it has now; one whose handshake runs again keeps what it holds (R219) and retrains. -/
def followLight (s : State) : State :=
  (List.range 8).foldl
    (fun s p =>
      let x := s.port p
      if x.extSrc = s.portLight p then s
      else match x.mode with
        | .up => s.portRetrain p false
        | .train | .attest =>
          if x.rehandshake then s.portRetrain p true
          else
            s.modPort p fun x =>
              { x with mode := .train, since := s.ns, handshake := 0, shake := Shake.reset, extSrc := s.portLight p, wasExt := x.wasExt || x.extSrc }
        | _ => s)
    s

end State
end Sys2Proof.Machine
end

