-- ==== Sys2Proof/Machine/Almanac.lean ====
section
/-!
DEFINITION. The Almanac's shared operations (R175 to R188): job slots and step clocks, launch times, placing, launching,
retiring and cancelling entries, and the staging of flash-tier state (R134).
-/
namespace Sys2Proof.Machine

/-- An entry as its 64 bytes give it (Table 4-4). -/
def almEntryOf (b : List Byte) : AlmEntry :=
  let f (o n : Nat) := Bytes.field b o n
  { job := BitVec.ofNat 16 (f 0 2), kind := BitVec.ofNat 2 (f 2 1), srcObj := Bytes.bit (f 2 1) 2, versioned := Bytes.bit (f 2 1) 3,
    noAlloc := Bytes.bit (f 2 1) 4, dlReport := Bytes.bit (f 2 1) 5, gate := BitVec.ofNat 2 (f 3 1),
    notify := BitVec.ofNat 2 (f 3 1 / 4), len := BitVec.ofNat 32 (f 4 4), step := BitVec.ofNat 64 (f 8 8),
    src := BitVec.ofNat 48 (f 16 6), offset := BitVec.ofNat 48 (f 22 6), dst := BitVec.ofNat 48 (f 28 6),
    deadline := BitVec.ofNat 48 (f 34 6), fullCore := BitVec.ofNat 8 (f 40 1), fullSem := BitVec.ofNat 6 (f 41 1),
    emptyCore := BitVec.ofNat 8 (f 42 1), emptySem := BitVec.ofNat 6 (f 43 1), seq := BitVec.ofNat 32 (f 44 4),
    rsvZero := decide (f 2 1 < 64) && decide (f 3 1 < 16) && decide (f 41 1 < 64) && decide (f 43 1 < 64) &&
      (Bytes.slice b 48 16).all (· == 0) }

/-- The checks of R177 that an entry passes or fails by itself; an object identifier has 32 bits (R157). DESIGN CHOICE (log 97): an entry
with LEN = 0 is rejected. -/
def AlmEntry.fieldsOk (e : AlmEntry) : Bool :=
  let n := e.len.toNat
  e.rsvZero && e.kind != 3 && e.gate != 3 && e.notify != 3 && (!e.fromObj || decide (e.src.toNat < 0x100000000)) &&
  (!e.isBack || decide (e.dst.toNat < 0x100000000)) && n != 0 && n % (if n ≤ 256 then 8 else 64) == 0 &&
  e.offset.toNat % 64 == 0 && (e.gate != 1 || decide (e.emptyCore.toNat < 176)) &&
  (e.notify != 1 || decide (e.fullCore.toNat < 176))

namespace State

/-! ## Job slots and clocks (R178) -/

/-- The job slot that a job or group holds. -/
def slotOf (s : State) (job : BitVec 16) : Option Nat :=
  [0, 1, 2, 3, 4, 5, 6, 7].find? fun j => (s.almSlot j).valid && (s.almSlot j).job == job

/-- Whether a step of a job has entries that have not retired, in the table or still to be placed. -/
def stepHasEntries (s : State) (job : BitVec 16) (step : Nat) : Bool :=
  (s.alm.table.any fun p => p.e.job == job && p.e.step.toNat == step) ||
  (s.jobs.any fun j => j.id == job && j.toPlace.any fun e => e.step.toNat == step) ||
  (s.groups.any fun g => g.id.setWidth 16 == job && g.toPlace.any fun e => e.step.toNat == step)

/-- A slot's previous step leaves it once no entry of that step remains (R178); a slot without a job has none. -/
def pruneSlot (s : State) (j : Nat) : State :=
  let x := s.almSlot j
  if x.pvalid && !(x.valid && s.stepHasEntries x.job x.pstep.toNat) then s.modSlot j fun x => { x with pvalid := false } else s

/-- The previous step leaves the slot of a job once every entry of it has retired (R178). -/
def prune (s : State) (job : BitVec 16) : State :=
  match s.slotOf job with
  | none => s
  | some j => s.pruneSlot j

/-- Mesh cycles on the clock of an entry's own step: of the slot's current or previous step (R178). -/
def stepClock (s : State) (job : BitVec 16) (step : BitVec 64) : Option Nat :=
  match s.slotOf job with
  | none => none
  | some j =>
    let x := s.almSlot j
    if x.step = step then some x.clk.toNat
    else if x.pvalid && x.pstep.toNat == step.toNat then some x.pclk.toNat
    else none

/-! ## References that an entry holds (R166) -/

/-- Objects that an entry names. -/
def entryObjs (e : AlmEntry) : List Nat :=
  (if e.fromObj then [e.src.toNat] else []) ++ (if e.isBack then [e.dst.toNat] else [])

/-- Return the gate of an entry that took it (R186): a post of 1 to the empty semaphore, or a staging credit. -/
def returnGate (s : State) (p : Placed) : State :=
  let e := p.e
  if !p.gated then s
  else if e.gate = 1 then s.unitPost e.emptyCore.toNat e.emptySem 1
  else if e.gate = 2 then
    s.modSep (allocView e.dst.toNat / dieSpan) fun u => { u with stagingCredits := u.stagingCredits + 1 }
  else s

/-- An entry retires: it leaves the table and releases its objects. -/
def retireEntry (s : State) (p : Placed) : State :=
  let s := s.modAlm fun a => { a with table := a.table.filter fun q => q.id != p.id }
  let s := (entryObjs p.e).foldl unref s
  s.prune p.e.job

/-- An entry that never launched retires by a cancellation, or because no slot holds its step any more (R178, R186). -/
def dropEntry (s : State) (p : Placed) : State :=
  ((s.modAlm fun a => { a with cancelCnt := Word.satInc a.cancelCnt }).returnGate p).retireEntry p

/-- An entry of a step earlier than every step that its job's slot holds, or of a job that holds no slot (R178). -/
def staleEntry (s : State) (e : AlmEntry) : Bool :=
  match s.slotOf e.job with
  | none => true
  | some j =>
    let x := s.almSlot j
    decide (e.step.toNat < x.step.toNat) && !(x.pvalid && decide (x.pstep.toNat ≤ e.step.toNat))

/-- An entry of a step later than the current one of its job's slot (R178). -/
def earlyEntry (s : State) (e : AlmEntry) : Bool :=
  match s.slotOf e.job with
  | none => false
  | some j => decide ((s.almSlot j).step.toNat < e.step.toNat)

/-- Entries that a slot's change leaves behind retire without launching (R178). -/
def sweepEntries (s : State) : State :=
  s.alm.table.foldl (fun s p => if s.staleEntry p.e && !p.launched then s.dropEntry p else s) s

/-- A write to ALM_SLOT_STEP_j (R178): ignored while a previous step is held. -/
def writeSlotStep (s : State) (j : Nat) (step : BitVec 64) : State :=
  let x := s.almSlot j
  if x.pvalid then s
  else
    let s := s.modSlot j fun x =>
      { x with pvalid := true, pstep := x.step.setWidth 63, pclk := x.clk, step := step, clk := 0 }
    (s.pruneSlot j).sweepEntries

/-! ## Launch time (R179) -/

/-- Tier of an entry's source: 0 DRAM or scratchpad, 1 flash, 2 host. -/
def tierOf (s : State) (e : AlmEntry) : Nat :=
  if e.fromObj then
    match s.obj? e.src.toNat with
    | some o =>
      if o.mode = .resident then 0
      else match o.home with | .dram => 0 | .flash => 1 | .host => 2
    | none => 0
  else match s.placeOf e.src.toNat with | .window _ _ => 2 | _ => 0

/-- LEAD of an entry (R179). -/
def lead (s : State) (e : AlmEntry) : Nat :=
  let a := s.alm
  let tier := s.tierOf e
  let lat := if tier = 0 then a.latDram.toNat else if tier = 1 then a.latFlash.toNat else a.latHost.toNat
  let rate := max 1 (if tier = 0 then a.rateDram.toNat else if tier = 1 then a.rateFlash.toNat else a.rateHost.toNat)
  let rate := match s.placeOf e.dst.toNat with
    | .scratch _ _ => min rate (max 1 a.rateScratch.toNat)
    | _ => rate
  lat + (e.len.toNat + rate - 1) / rate + a.guard.toNat

/-- Launch time L of a fetch or promote entry, in mesh cycles of its step. -/
def launchTime (s : State) (e : AlmEntry) : Nat := if e.isBack then 0 else e.deadline.toNat - s.lead e

/-! ## Placing (R175 to R177, R183) -/

/-- The entries of a job or group that wait to be placed. -/
def waitingEntries (s : State) (work : BitVec 16) : List AlmEntry :=
  if work.toNat < 0xFF then (match s.group? (work.setWidth 8) with | some g => g.toPlace | none => [])
  else (match s.job? work with | some j => j.toPlace | none => [])

/-- Change the entries that wait to be placed. -/
def setWaiting (s : State) (work : BitVec 16) (es : List AlmEntry) : State :=
  if work.toNat < 0xFF then s.modGroup (work.setWidth 8) fun g => { g with toPlace := es }
  else s.modJob work fun j => { j with toPlace := es }

/-- Whether the slot that holds the version which passes of step `n` read is the second (R132, R133). -/
def versionSlot (j : Job) (n : Nat) : Bool :=
  if j.train.rule = 2 ∧ n ≤ j.train.step.toNat + 1 then j.older else j.newest

/-- An address within the first slot of a forward copy, moved to the slot that is wanted (R175). -/
def slotAddr (copies : List Slots) (second : Bool) (a : Nat) : Nat :=
  match copies.find? fun c => decide (c.first ≤ a ∧ a < c.first + c.len) with
  | some c => if second then a - c.first + c.second else a
  | none => a

/-- An entry with its versioned source resolved (R175). -/
def resolveEntry (s : State) (e : AlmEntry) : AlmEntry :=
  if e.versioned then
    match s.job? e.job with
    | some j => { e with src := BitVec.ofNat 48 (slotAddr j.copies (versionSlot j e.step.toNat) e.src.toNat) }
    | none => e
  else e

/-- Put an entry into the table (R166, R183): it holds its objects from now on; TLATE tells that its launch time has passed. -/
def putEntryInTable (s : State) (e : AlmEntry) : State :=
  let late := match s.stepClock e.job e.step with
    | some c => !e.isBack && decide (s.launchTime e < c)
    | none => false
  let s := (entryObjs e).foldl ref s
  let s := if late then s.occur (regKey 7 0 8) 2 else s
  s.modAlm fun a =>
    let table := a.table ++ [{ id := a.nextId, e := e, gated := e.gate == 0, launched := false, cancelled := false, tlate := late,
                               rebuildFailed := false }]
    { a with
      table := table
      nextId := a.nextId + 1
      tlate := a.tlate || late
      tlateCnt := if late then Word.satInc a.tlateCnt else a.tlateCnt
      peak := BitVec.ofNat 13 (max a.peak.toNat table.length) }

/-! ## Launching (R180, R181) -/

/-- Whether an entry's gate can be taken now (R181). -/
def gateFree (s : State) (e : AlmEntry) : Bool :=
  if e.gate = 1 then ((s.core e.emptyCore.toNat).sem e.emptySem) != 0
  else if e.gate = 2 then decide (0 < (s.sep (allocView e.dst.toNat / dieSpan)).stagingCredits)
  else true

/-- Take an entry's gate (R181). -/
def takeGate (s : State) (e : AlmEntry) : State :=
  if e.gate = 1 then s.modCore e.emptyCore.toNat fun k => k.setSem e.emptySem (k.sem e.emptySem - 1)
  else if e.gate = 2 then
    s.modSep (allocView e.dst.toNat / dieSpan) fun u => { u with stagingCredits := u.stagingCredits - 1 }
  else s

/-- Whether the Separator has written the staged buffer that a write-back's SRC names (R134, R179). -/
def stagedWritten (s : State) (a : Nat) : Bool :=
  (s.sep (allocView a / dieSpan)).staged.any fun g => g.written && decide (g.dst ≤ allocView a ∧ allocView a < g.dst + g.len)

/-- Whether an entry's objects let it launch: a WRITING object is waited for (R177). -/
def objectReady (s : State) (e : AlmEntry) : Bool :=
  let ready (oid : Nat) : Bool := match s.obj? oid with | some o => o.mode != .writing | none => true
  (!e.fromObj || ready e.src.toNat) && (!e.isBack || ready e.dst.toNat)

/-- Whether an entry's time has come: its step clock has reached L (R178, R180), or the Separator has written its source (R179). DESIGN
CHOICE (log 97): it takes its gate no earlier. -/
def timeCome (s : State) (p : Placed) : Bool :=
  s.alm.en && !p.launched && !p.cancelled &&
  match s.stepClock p.e.job p.e.step with
  | some c => if p.e.isBack then s.stagedWritten p.e.src.toNat else decide (s.launchTime p.e ≤ c)
  | none => false

/-- Whether an entry can launch now (R177, R180): its time has come, its gate has been taken, and a slot of its first read is free. -/
def canLaunch (s : State) (p : Placed) : Bool :=
  s.timeCome p && p.gated && s.objectReady p.e && s.slotsFree (s.entrySlots p.e)

/-- The order in which ready entries launch (R180): launch time, SEQ, job slot. -/
def launchKey (s : State) (p : Placed) : Nat × Nat × Nat :=
  (s.launchTime p.e, p.e.seq.toNat, (s.slotOf p.e.job).getD 8)

/-- Whether one launch key comes before another. -/
def keyLt (a b : Nat × Nat × Nat) : Bool :=
  decide (a.1 < b.1 ∨ (a.1 = b.1 ∧ (a.2.1 < b.2.1 ∨ (a.2.1 = b.2.1 ∧ a.2.2 < b.2.2))))

/-- Of the entries whose time has come and whose gate can be taken, the one that comes first in launch order (R181). -/
def gateNext (s : State) : Option Placed :=
  (s.alm.table.filter fun p => !p.gated && s.timeCome p && s.gateFree p.e).foldl
    (fun b p => match b with | some q => if keyLt (s.launchKey p) (s.launchKey q) then some p else b | none => some p) none

/-- Entries whose time has come take their gates while credit lasts, in launch order; one whose gate is not available holds no other
(R181). -/
def takeGates : Nat → State → State
  | 0, s => s
  | fuel + 1, s =>
    match s.gateNext with
    | none => s
    | some p =>
      takeGates fuel ((s.takeGate p.e).modAlm fun a =>
        { a with table := a.table.map fun q => if q.id == p.id then { q with gated := true } else q })

/-- Every gate that can be taken now is taken. -/
def gatesNow (s : State) : State := takeGates s.alm.table.length s

/-- Launch an entry, if it can and no other ready entry comes first (R180 to R183). A promotion makes a HOME object PROMOTING
(R182), withdrawing a pending eviction (R168); one that an eviction of the same control cycle found RESIDENT is so for it. DESIGN CHOICE
(log 97): the entry of an object that is RESIDENT then makes no second copy. -/
def launchEntry (s : State) (id : Nat) : State :=
  let s := s.gatesNow
  match s.alm.table.find? fun p => p.id == id with
  | none => s
  | some p =>
    if s.canLaunch p && s.alm.table.all (fun q => !(s.canLaunch q && keyLt (s.launchKey q) (s.launchKey p))) then
      let s := s.modAlm fun a =>
        { a with launched := Word.satInc a.launched
                 table := a.table.map fun q => if q.id == id then { q with launched := true } else q }
      if p.e.isPromote then
        let s := s.promoteReaches p.e.src.toNat
        match s.obj? p.e.src.toNat with
        | some o =>
          if o.mode = .home ∧ ((s.evictOf p.e.src.toNat).bind (·.was)).isNone then
            s.startPromotion p.e.src.toNat (allocView p.e.dst.toNat) []
          else s
        | none => s
      else if p.e.isBack then s.beginFlash p.e.offset.toNat p.e.len.toNat
      else s
    else s

/-! ## Cancellation (R186 to R188) -/

/-- Start a cancellation of the entries of a job that satisfy `hit`. -/
def cancelWhere (s : State) (job : BitVec 16) (hit : AlmEntry → Bool) : State :=
  let s := s.setWaiting job ((s.waitingEntries job).filter fun e => !hit e)
  let s := s.modAlm fun a =>
    { a with cancelling := true
             table := a.table.map fun p => if p.e.job == job && hit p.e && p.launched then { p with cancelled := true } else p }
  let s := s.alm.table.foldl (fun s p => if p.e.job == job && hit p.e && !p.launched then s.dropEntry p else s) s
  s.prune job

/-- Start a cancellation of one step of a job, or of every step (none). -/
def cancelEntries (s : State) (job : BitVec 16) (step : Option (BitVec 64)) : State :=
  s.cancelWhere job fun e => match step with | some n => e.step == n | none => true

/-- Bytes that a fetch or promote entry writes at DST: a promotion copies its whole object (R165). DESIGN CHOICE (log 97): whatever LEN and
OFFSET say. -/
def deliverLen (s : State) (e : AlmEntry) : Nat :=
  if e.isPromote then (match s.obj? e.src.toNat with | some o => o.len | none => e.len.toNat) else e.len.toNat

/-- Whether the range that an entry names in its object lies within it (R147, R177). -/
def spanOk (s : State) (e : AlmEntry) (oid : Nat) : Bool :=
  match s.obj? oid with
  | some o => e.isPromote || decide (e.offset.toNat + e.len.toNat ≤ o.len)
  | none => true

/-- Which 256-byte parts of a cancelled transfer had become visible, the spec leaves open: a free value for each. -/
def visibleParts (k : Nat) : Nat → List Bool
  | 0 => []
  | n + 1 => (Config.freeNat k % 2 == 1) :: visibleParts (k + 1) n

/-- Write the visible parts of a cancelled fetch (R186: bytes already written stay). Gives the bytes discarded. -/
def writeParts (s : State) (rs : Tbl Region) (a : Nat) : List (List Cell) → List Bool → Nat × State
  | c :: cs, b :: bs =>
    let s := if b then s.store rs a c else s
    let (n, s) := writeParts s rs (a + c.length) cs bs
    (n + (if b then 0 else c.length), s)
  | _, _ => (0, s)

/-- A DRAM source of an entry with NOALLOC is read through the non-allocating view (Table 4-4, R152). -/
def viewOf (e : AlmEntry) : Nat := if e.noAlloc then 0x40000000000 else 0

/-- The bytes of an entry's source, where it may be read. -/
def entryCells (s : State) (x : Env) (e : AlmEntry) : List Cell × State :=
  if e.fromObj then
    match s.obj? e.src.toNat with
    | some o =>
      if e.isPromote then s.objRead x (viewOf e) e.src.toNat o 0 o.len else s.objRead x (viewOf e) e.src.toNat o e.offset.toNat e.len.toNat
    | none => ([], s)
  else
    let a := e.src.toNat
    s.load x (s.regionsOf e.job) (if a < 0x40000000000 then a + viewOf e else a) e.len.toNat

/-- No outside answer. -/
def noEnv : Env := { host := [], hostErr := none, ecc := [] }

/-- The bytes of a write-back are on flash, and its buffer's staging credit returns (R134); `next` tells that they belong to the next
generation of its object, whose poisoned units are marked: a POISONED object stays so (R192). Tells whether they are poisoned. -/
def writeBack (s : State) (x : Env) (e : AlmEntry) (next : Bool) : Bool × State :=
  let (cs, s) := s.load x Tbl.empty e.src.toNat e.len.toNat
  let s := if !next then s
    else s.modObj e.dst.toNat fun o =>
      let (base, bad) := match o.next with | some (_, t, b) => (t, b) | none => (o.data, o.bad)
      let bad := if anyPoison cs then
          (unitsOf e.offset.toNat e.len.toNat).foldl (fun t u => t.set false (u * unitBytes) true) bad
        else bad
      { o with next := some (e.job, putData base e.offset.toNat (cellBytes cs), bad) }
  let a := allocView e.src.toNat
  let here (g : Staged) : Bool := decide (g.dst ≤ a ∧ a < g.dst + g.len)
  let s := (diesOf e.offset.toNat e.len.toNat).foldl takeBlocks s
  (anyPoison cs, s.modSep (a / dieSpan) fun u =>
    { u with stagingCredits := u.stagingCredits + (u.staged.filter fun g => here g && g.credit).length, staged := u.staged.filter fun g => !here g })

/-- Bytes of a cancelled transfer reach its destination in part (R186): the visible parts stay, the rest is discarded. -/
def partly (s : State) (rs : Tbl Region) (a : Nat) (cs : List Cell) : State :=
  let parts := Bytes.chunks 256 cs
  let flags := visibleParts s.free parts.length
  let s := { s with free := s.free + parts.length }
  let (n, s) := s.writeParts rs a parts flags
  s.modAlm fun a => { a with discard := Word.satAdd a.discard n }

/-- Whether step `n` of a work is in flight. -/
def stepFlies (s : State) (job : BitVec 16) (n : BitVec 64) : Bool :=
  match s.job? job with
  | some j => j.steps.any fun r => r.n == n
  | none => false

/-- One launched entry of a cancellation retires once its reads have completed (R186, R187). The write of a write-back completes into
the next generation, which is discarded with its step (R138). -/
def endCancelled (s : State) (p : Placed) : State :=
  let e := p.e
  let s := s.modAlm fun a => { a with cancelCnt := Word.satInc a.cancelCnt }
  if e.isBack then ((s.writeBack noEnv e (s.stepFlies e.job e.step)).2).retireEntry p
  else
    let s := s.returnGate p
    let barred : Bool := e.fromObj && (match s.obj? e.src.toNat with | some o => s.sealedObj e.src.toNat o | none => true)
    let mapped : Bool :=
      if barred then false
      else if e.isPromote then s.oneDram e.dst.toNat (s.deliverLen e)
      else s.permitted e.job e.dst.toNat e.len.toNat true && (e.fromObj || s.permitted e.job e.src.toNat e.len.toNat false)
    let s := if mapped then
        (let (cs, s) := s.entryCells noEnv e
         s.partly (s.regionsOf e.job) (if e.isPromote then allocView e.dst.toNat else e.dst.toNat) cs)
      else s.modAlm fun a => { a with discard := Word.satAdd a.discard e.len.toNat }
    (if e.isPromote then s.cancelPromotion e else s).retireEntry p

/-- The cancellation completes (R187): no write of its entries can still reach a destination. -/
def cancelDone (s : State) : State :=
  let s := s.alm.table.foldl (fun s p => if p.cancelled then s.endCancelled p else s) s
  s.modAlm fun a => { a with cancelling := false }

/-! ## The checks of a schedule (R157, R177) -/

/-- Whether `n` bytes at an address are within a job's windows, a host region counting as declared (R177). -/
def mapCovers (s : State) (ws : List Window) (rs : Tbl Region) (a n : Nat) (write : Bool) : Bool :=
  inWindows ws a n &&
  match s.placeOf a with
  | .window r o =>
    let g := rs.get Region.absent r
    decide (o + n ≤ g.declLen) && g.declPerm.getLsbD (if write then 1 else 0)
  | _ => s.mappedRange Tbl.empty a n write

/-- Whether an entry of a schedule passes R177 against a map of windows, objects and declared regions. -/
def entryFits (s : State) (ws : List Window) (os : List Nat) (rs : Tbl Region) (e : AlmEntry) : Bool :=
  let n := e.len.toNat
  e.fieldsOk &&
  (if e.fromObj then os.contains e.src.toNat && s.spanOk e e.src.toNat else s.mapCovers ws rs e.src.toNat n false) &&
  (if e.isBack then e.deadline == 0 && os.contains e.dst.toNat && s.spanOk e e.dst.toNat
   else if e.isPromote then s.oneDram e.dst.toNat (s.deliverLen e) && s.mapCovers ws rs e.dst.toNat (s.deliverLen e) true
   else s.mapCovers ws rs e.dst.toNat n true)

/-- Objects of a work's map (R147). -/
def objectsOf (s : State) (work : BitVec 16) : List Nat :=
  if work.toNat < 0xFF then (match s.group? (work.setWidth 8) with | some g => g.objects | none => [])
  else (match s.job? work with | some j => j.objects | none => [])

end State
end Sys2Proof.Machine
end

