-- ==== Sys2Proof/Machine/Separator.lean ====
section
/-!
DEFINITION. The Separator (R102 to R104, R117, R121 to R131, R139): update descriptors and their checks, the update arithmetic,
stochastic rounding of masters, the digest, and the work on one segment.
-/
namespace Sys2Proof.Machine

/-- Parameters of a segment (R121). -/
def segParams : Nat := 65536

/-- An update descriptor as its 128 bytes give it (Table 3-7). -/
def updDescOf (b : List Byte) : UpdDesc :=
  let f (o n : Nat) := Bytes.field b o n
  let w (o : Nat) : BitVec 32 := BitVec.ofNat 32 (f o 4)
  { master := f 0 6, mom1 := f 6 6, mom2 := f 12 6, colf := f 18 6, ema := f 24 6, grad := f 30 6, f8dst := f 36 6,
    f8sdst := f 42 6, pbase := BitVec.ofNat 64 (f 48 8), count := f 56 4, rows := f 60 4,
    opt := match f 64 1 % 4 with | 0 => some .am | 1 => some .msgd | 2 => some .fact | _ => none
    flash := Bytes.bit (f 64 1) 2, vecLay := Bytes.bit (f 64 1) 3, emaEn := Bytes.bit (f 65 1) 0,
    nesterov := Bytes.bit (f 65 1) 1, mom1En := Bytes.bit (f 65 1) 2, f8En := Bytes.bit (f 65 1) 3,
    first := Bytes.bit (f 65 1) 4, last := Bytes.bit (f 65 1) 5, shard := BitVec.ofNat 16 (f 66 2), lrScale := w 68, decay := w 72,
    eps := w 76, emaDecay := w 80, emaInt := BitVec.ofNat 16 (f 84 2), pcore := BitVec.ofNat 8 (f 86 1),
    psem := BitVec.ofNat 6 (f 87 1), dgst := f 88 6,
    rsvZero := decide (f 64 1 < 16) && decide (f 65 1 < 64) && decide (f 87 1 < 64) && (Bytes.slice b 94 34).all (· == 0) }

namespace UpdDesc
/-- Whether a first moment is stored (Table 3-1). -/
def hasM1 (d : UpdDesc) : Bool := d.opt != some .fact || d.mom1En
/-- Columns of a factored tensor (R126). -/
def cols (d : UpdDesc) : Nat := if d.rows = 0 then 0 else d.count / d.rows
/-- The arrays that a descriptor uses: base, bytes in all, and whether the array is state (on flash with TIER = 1). -/
def arrays (d : UpdDesc) : List (Nat × Nat × Bool) :=
  [(d.master, 5 * d.count, true), (d.mom1, if d.hasM1 then 2 * d.count else 0, true),
   (d.mom2, if d.opt = some .am then 2 * d.count else if d.opt = some .fact then 2 * d.rows else 0, true),
   (d.colf, if d.opt = some .fact then 2 * d.cols else 0, true), (d.ema, if d.emaEn then 2 * d.count else 0, true),
   (d.grad, if d.flash then 0 else 2 * d.count, false)]
/-- Segments of a descriptor (R121). -/
def segments (d : UpdDesc) : Nat := (d.count + segParams - 1) / segParams
/-- Parameters of segment `k`. -/
def segLen (d : UpdDesc) (k : Nat) : Nat := min segParams (d.count - k * segParams)
end UpdDesc

namespace State

/-- Whether `n` bytes at an address lie in the DRAM of memory die `m` (R104, R122). -/
def ownDram (s : State) (m a n : Nat) : Bool := s.oneDram a n && allocView a / dieSpan == m

/-- Whether the Separator of die `m` rejects a descriptor (R122). A field that Table 3-7 gives as zero, a reserved code and a value
out of a stated range count as reserved fields that are not zero. -/
def descBad (s : State) (m : Nat) (d : UpdDesc) : Bool :=
  let fact := d.opt == some .fact
  !d.rsvZero || d.opt.isNone || d.count % (if d.vecLay then 2048 else 64) != 0 || d.count == 0 ||
  (fact && (d.rows == 0 || d.count % d.rows != 0 || decide (65536 < d.rows + d.cols))) || (!fact && d.rows != 0) ||
  (d.emaEn && d.emaInt == 0) || (d.pcore != 0xFF && decide (176 ≤ d.pcore.toNat)) ||
  (d.arrays.any fun a =>
    if a.2.1 = 0 then a.1 != 0
    else if d.flash && a.2.2 then decide (2 ^ 32 ≤ a.1)
    else a.1 % 64 != 0 || !s.ownDram m a.1 a.2.1) ||
  ([(d.f8dst, d.count), (d.f8sdst, d.count / 32)].any fun a =>
    a.1 % 64 != 0 || (if d.f8En then !s.ownDram m a.1 a.2 else a.1 != 0 && !s.ownDram m a.1 1)) ||
  (if d.last then d.dgst % 8 != 0 || !s.ownDram m d.dgst 8 else d.dgst != 0)

end State

/-! ## Arithmetic (R124 to R126) -/

namespace N32
/-- Sum, rounded (R124). -/
def add (x y : Nat) : Nat := NumFmt.n32.addC x y
/-- Difference, rounded. -/
def sub (x y : Nat) : Nat := NumFmt.n32.subC x y
/-- Product, rounded. -/
def mul (x y : Nat) : Nat := NumFmt.n32.mulC x y
/-- Quotient, rounded. -/
def div (x y : Nat) : Nat := NumFmt.n32.divC x y
/-- Square root, rounded. -/
def sqrt (x : Nat) : Nat := NumFmt.n32.sqrtC x
/-- A 16-bit code widened exactly (R70). -/
def widen (c : Nat) : Nat := NumFmt.n32.encode (NumFmt.h16.decode c)
/-- Rounded to a 16-bit code (R128). -/
def narrow (c : Nat) : Nat := NumFmt.h16.encode (NumFmt.n32.decode c)
/-- 1.0. -/
def one : Nat := 0x3F800000
/-- The code is a zero. -/
def isZero (c : Nat) : Bool := (NumFmt.n32.decode c).isZero
end N32

/-- The generator word for parameter `p` in step `n` (R130). -/
def srWord (seed n p : Nat) : Nat := mix64 (mix64 (seed ^^^ mix64 n) ^^^ p)

/-- Stochastic rounding of an exact value to M40 with generator word `w` (R129). -/
def srM40 (x : Val) (w : Nat) : Nat :=
  match x with
  | .num neg m e =>
    if m = 0 then 0
    else if !Val.magLe x (NumFmt.m40.decode NumFmt.m40.maxCode) then NumFmt.m40.encode x
    else
      let q : Int := max x.log2 (-126) - 31
      if q ≤ e then NumFmt.m40.encode x
      else
        let k := (q - e).toNat
        let lo := m / 2 ^ k
        let f := NumFmt.roundShift (m % 2 ^ k * 2 ^ 32) k
        NumFmt.m40.encode (.num neg (if w % 2 ^ 32 < f then lo + 1 else lo) q)
  | v => NumFmt.m40.encode v

/-- The registers and constants of one list (R125). -/
structure StepConsts where
  e     : Int
  gs    : Nat
  eta   : Nat
  b1    : Nat
  b2    : Nat
  om1   : Nat
  om2   : Nat
  bc1   : Nat
  bc2   : Nat
  bc2p  : Nat
  lam   : Nat
  eps   : Nat
  al    : Nat
  oma   : Nat
  first : Bool
  emaOn : Bool
  seed  : Nat
  step  : Nat
  deriving DecidableEq, Repr

/-- The constants of a descriptor under the registers of its Separator. -/
def stepConsts (u : Sep) (d : UpdDesc) : StepConsts :=
  { e := u.unscale.toInt, gs := u.gscale.toNat, eta := N32.mul u.lr.toNat d.lrScale.toNat, b1 := u.beta1.toNat,
    b2 := u.beta2.toNat, om1 := N32.sub N32.one u.beta1.toNat, om2 := N32.sub N32.one u.beta2.toNat, bc1 := u.bc1.toNat,
    bc2 := u.bc2.toNat, bc2p := u.bc2p.toNat, lam := d.decay.toNat, eps := d.eps.toNat, al := d.emaDecay.toNat,
    oma := N32.sub N32.one d.emaDecay.toNat, first := u.t == 1,
    emaOn := d.emaEn && decide (u.t.toNat % d.emaInt.toNat = 0), seed := u.seed.toNat, step := u.step.toNat }

/-- What the Separator holds of one element: codes of the master, first and second moment, running average and gradient. -/
structure Elem where
  w   : Nat
  m1  : Nat
  v2  : Nat
  ema : Nat
  g   : Nat
  deriving DecidableEq, Repr

/-- Delta, the N32 moments before they are rounded, and ĝ·ĝ (Table 3-8). `vhat` is the factored second moment's reading. -/
def delta (c : StepConsts) (d : UpdDesc) (vhat : Nat → Nat) (x : Elem) : Nat × Nat × Nat × Nat :=
  let gh := N32.mul (NumFmt.n32.encode ((NumFmt.h16.decode x.g).scale (-c.e))) c.gs
  let gg := N32.mul gh gh
  let w32 := NumFmt.n32.encode (NumFmt.m40.decode x.w)
  let fin (dd : Nat) : Nat := N32.mul c.eta (N32.add dd (N32.mul c.lam w32))
  match d.opt with
  | some .am =>
    let m := N32.add (N32.mul c.b1 (N32.widen x.m1)) (N32.mul c.om1 gh)
    let v := N32.add (N32.mul c.b2 (N32.widen x.v2)) (N32.mul c.om2 gg)
    let dd := N32.div (N32.mul m c.bc1) (N32.add (N32.sqrt (N32.mul v c.bc2)) c.eps)
    (fin dd, m, v, gg)
  | some .msgd =>
    let m := N32.add (N32.mul c.b1 (N32.widen x.m1)) gh
    let dd := if d.nesterov then N32.add gh (N32.mul c.b1 m) else m
    (fin dd, m, 0, gg)
  | _ =>
    let u := N32.div gh (N32.add (N32.sqrt (vhat gg)) c.eps)
    let m := N32.add (N32.mul c.b1 (N32.widen x.m1)) (N32.mul c.om1 u)
    (fin (if d.mom1En then N32.mul m c.bc1 else u), m, 0, gg)

/-- The factored second moment of entry (i, j) (Table 3-8). -/
def factVhat (c : StepConsts) (b : FactBuf) (i j gg : Nat) : Nat :=
  if c.first then gg
  else if N32.isZero b.rsum.toNat then 0
  else N32.mul (N32.div (N32.mul (b.rf.get 0 i).toNat (b.cf.get 0 j).toNat) b.rsum.toNat) c.bc2p

/-- One element's update (R125, R128, R129): its new codes, and ĝ·ĝ. `k` is its place in the descriptor. -/
def updateElem (c : StepConsts) (d : UpdDesc) (b : Option FactBuf) (k : Nat) (x : Elem) : Elem × Nat :=
  let vhat (gg : Nat) : Nat :=
    match b with
    | some b => factVhat c b (k / d.cols) (k % d.cols) gg
    | none => gg
  let (dl, m, v, gg) := delta c d vhat x
  let word := srWord c.seed c.step ((d.pbase.toNat + k) % 2 ^ 64)
  let w := srM40 (Val.add (NumFmt.m40.decode x.w) (NumFmt.n32.decode dl).negate) word
  let ema := if c.emaOn then
      N32.narrow (N32.add (N32.mul c.al (N32.widen x.ema)) (N32.mul c.oma (NumFmt.n32.encode (NumFmt.m40.decode w))))
    else x.ema
  ({ w := w, m1 := if d.hasM1 then N32.narrow m else x.m1, v2 := if d.opt = some .am then N32.narrow v else x.v2, ema := ema,
     g := x.g }, gg)

/-- Add ĝ·ĝ of entry (i, j) to the accumulators of a factored update (Table 3-8). -/
def factAdd (b : FactBuf) (i j gg : Nat) : FactBuf :=
  let add (t : Tbl (BitVec 32)) (k : Nat) : Tbl (BitVec 32) :=
    t.set 0 k (BitVec.ofNat 32 (N32.add (t.get 0 k).toNat gg))
  { b with sr := add b.sr i, sc := add b.sc j }

/-- The elements of a segment in ascending order, from place `k` on (R121). -/
def updateAll (c : StepConsts) (d : UpdDesc) : Option FactBuf → Nat → List Elem → List Elem × Option FactBuf
  | b, _, [] => ([], b)
  | b, k, x :: xs =>
    let (y, gg) := updateElem c d b k x
    let b := b.map fun b => factAdd b (k / d.cols) (k % d.cols) gg
    let (ys, b) := updateAll c d b (k + 1) xs
    (y :: ys, b)

/-! ## The digest (R139) -/

/-- CRC-64 of ECMA-182, reflected. -/
def crc64Poly : Nat := 0xC96C5795D7870F42

/-- The digest after more bytes; SEP_DIGEST holds it with its final XOR. -/
def digestFold (d : BitVec 64) (bs : List Byte) : BitVec 64 :=
  BitVec.ofNat 64 (Bytes.crcRun crc64Poly (d.toNat ^^^ 0xFFFFFFFFFFFFFFFF) bs ^^^ 0xFFFFFFFFFFFFFFFF)

/-! ## Forward copies (R128, R103) -/

/-- The forward copy of masters: F8 elements and block scales, in the flat layout or the vector layout of R17 and R18. -/
def forwardCopy (vecLay : Bool) (vals : List Val) : List Byte × List Byte :=
  if vecLay then formBytes .f8 (vals.length / 64) (fun n l => vals.getD (64 * n + l) (.num false 0 0)) (fun _ _ => 0)
  else
    let blocks := (Bytes.chunks 32 vals).map fun b => (chooseScale .f8 b, b)
    (blocks.flatMap fun p => p.2.map fun v => Bytes.byte (convScaled .f8 p.1 v), blocks.map fun p => Bytes.byte p.1)

/-! ## A segment -/

namespace State

/-- Codes of `n` elements of `w` bytes each. -/
def codesOf (w : Nat) (cs : List Cell) : List Nat := (Bytes.chunks w (cellBytes cs)).map Bytes.toNat

/-- The staged buffer of die `m` that holds `n` bytes at `off` of an object for the Separator's step (R134). -/
def stagedFor (s : State) (m oid off n : Nat) : Option Nat :=
  ((s.sep m).staged.find? fun g => g.oid == oid && g.step == (s.sep m).step && decide (g.offset ≤ off ∧ off + n ≤ g.offset + g.len)).map fun g =>
    g.dst + (off - g.offset)

/-- Where `n` bytes at `off` of a state array lie: in its DRAM array, or in the staged buffer of its flash object. -/
def stateAt (s : State) (m : Nat) (d : UpdDesc) (base off n : Nat) : Option Nat :=
  if d.flash then s.stagedFor m base off n else some (base + off)

/-- Bytes an element takes in each state array of a descriptor that a segment reads and writes. -/
def segArrays (d : UpdDesc) : List (Nat × Nat) :=
  [(d.master, 5)] ++ (if d.hasM1 then [(d.mom1, 2)] else []) ++ (if d.opt = some .am then [(d.mom2, 2)] else []) ++
  (if d.emaEn then [(d.ema, 2)] else [])

/-- The job and shard whose list the Separator of die `m` holds. -/
def sepShard (s : State) (m : Nat) : Option (Job × Shard) :=
  s.jobs.findSome? fun j =>
    (j.shards.find? fun sh => sh.die.val == m && sh.listAddr == (s.sep m).list.toNat).map fun sh => (j, sh)

/-- Whether a parked gradient is that of segment `k` of the list that the Separator of die `m` holds (R135). Parameter indices are
those of the job that the list belongs to. -/
def parkedIs (s : State) (m : Nat) (d : UpdDesc) (k : Nat) (p : Parked) : Bool :=
  p.pbase == d.pbase + BitVec.ofNat 64 (k * segParams) && p.step == (s.sep m).step &&
  (match s.sepShard m with | some (j, _) => p.job == j.id | none => true)

/-- The parked gradient of a segment (R135). -/
def parkedFor (s : State) (m : Nat) (d : UpdDesc) (k : Nat) : Option Parked := (s.sep m).parked.find? (s.parkedIs m d k)

/-- Whether the state and the gradient of segment `k` are there (R134, R135). -/
def segReady (s : State) (m : Nat) (d : UpdDesc) (k : Nat) : Bool :=
  !d.flash ||
  ((segArrays d).all (fun a => (s.stagedFor m a.1 (a.2 * k * segParams) (a.2 * d.segLen k)).isSome) &&
   (s.parkedFor m d k).isSome &&
   (d.opt != some .fact || ((s.stagedFor m d.mom2 0 (2 * d.rows)).isSome && (s.stagedFor m d.colf 0 (2 * d.cols)).isSome)))

/-- Read `n` elements of `w` bytes at place `k` of a state array. -/
def readArr (s : State) (x : Env) (m : Nat) (d : UpdDesc) (base w k n : Nat) : List Nat × Bool × State :=
  match s.stateAt m d base (w * k) (w * n) with
  | none => ([], true, s)
  | some a =>
    let (cs, s) := s.load x Tbl.empty a (w * n)
    (codesOf w cs, anyPoison cs, s)

/-- Write codes of `w` bytes at place `k` of a state array. -/
def writeArr (s : State) (m : Nat) (d : UpdDesc) (base w k : Nat) (cs : List Nat) : State :=
  match s.stateAt m d base (w * k) (w * cs.length) with
  | none => s
  | some a => s.store Tbl.empty a (cleanCells (cs.flatMap fun c => Bytes.ofNat w c))

/-- Mark a range poisoned, its bytes as they are. -/
def markPoison (s : State) (a n : Nat) : State :=
  let (cs, s) := s.load noEnv Tbl.empty a n
  s.store Tbl.empty a (cs.map fun c => (c.1, true))

/-- Mark a poisoned segment's master, state and forward copy (R117). -/
def poisonSeg (s : State) (m : Nat) (d : UpdDesc) (k : Nat) : State :=
  let n := d.segLen k
  let p0 := k * segParams
  let s := (segArrays d).foldl
    (fun s a => match s.stateAt m d a.1 (a.2 * p0) (a.2 * n) with | some b => s.markPoison b (a.2 * n) | none => s) s
  if d.f8En then (s.markPoison (d.f8dst + p0) n).markPoison (d.f8sdst + p0 / 32) (n / 32) else s

/-- Staged buffers of a segment's state hold the Separator's results from now on (R134). -/
def stagedDone (s : State) (m : Nat) (d : UpdDesc) (k : Nat) : State :=
  if d.flash then
    s.modSep m fun u =>
      { u with staged := u.staged.map fun g =>
          if g.step == u.step && (segArrays d).any fun a => a.1 == g.oid && decide (g.offset ≤ a.2 * k * segParams ∧ a.2 * k * segParams < g.offset + g.len)
          then { g with written := true } else g }
  else s

/-- Outputs of an element that are not finite (R128). -/
def badOuts (c : StepConsts) (d : UpdDesc) (y : Elem) : Nat :=
  let h (c : Nat) : Nat := Bytes.ofBool (!(NumFmt.h16.decode c).isFinite)
  Bytes.ofBool (!(NumFmt.m40.decode y.w).isFinite) + (if d.hasM1 then h y.m1 else 0) + (if d.opt = some .am then h y.v2 else 0) +
  (if c.emaOn then h y.ema else 0)

/-- Count outputs that are not finite and set NONFINITE (R128). -/
def countNonfinite (s : State) (m n : Nat) : State :=
  let s := { s with fresh := if n = 0 then s.fresh else (s.occur (regKey 3 m 8) 7).fresh }
  s.modSep m fun u => { u with nonfinite := u.nonfinite || decide (n ≠ 0), nonfinCnt := Word.satAdd u.nonfinCnt n }

/-- Apply the update to segment `k` (R124 to R130, R139). True when a read of its state met poison: then nothing is written. -/
def applySeg (s : State) (x : Env) (m : Nat) (d : UpdDesc) (k : Nat) : Bool × State :=
  let u := s.sep m
  let c := stepConsts u d
  let n := d.segLen k
  let p0 := k * segParams
  let (w, bw, s) := s.readArr x m d d.master 5 p0 n
  let (m1, b1, s) := if d.hasM1 then s.readArr x m d d.mom1 2 p0 n else ([], false, s)
  let (v2, b2, s) := if d.opt = some .am then s.readArr x m d d.mom2 2 p0 n else ([], false, s)
  let (em, be, s) := if c.emaOn then s.readArr x m d d.ema 2 p0 n else ([], false, s)
  let (g, bg, s) : List Nat × Bool × State :=
    if d.flash then
      (match s.parkedFor m d k with
       | some p => (p.grads.map fun v => v.toNat, false, s)
       | none => ([], true, s))
    else
      (let (cs, s) := s.load x Tbl.empty (d.grad + 2 * p0) (2 * n)
       (codesOf 2 cs, anyPoison cs, s))
  let fb := match u.fact with | some b => b.bad | none => false
  if bw || b1 || b2 || be || bg || fb then (true, s)
  else
    let xs := (List.range n).map fun i => ({ w := w.getD i 0, m1 := m1.getD i 0, v2 := v2.getD i 0, ema := em.getD i 0, g := g.getD i 0 } : Elem)
    let (ys, fact) := updateAll c d u.fact p0 xs
    let s := s.writeArr m d d.master 5 p0 (ys.map (·.w))
    let s := if d.hasM1 then s.writeArr m d d.mom1 2 p0 (ys.map (·.m1)) else s
    let s := if d.opt = some .am then s.writeArr m d d.mom2 2 p0 (ys.map (·.v2)) else s
    let s := if c.emaOn then s.writeArr m d d.ema 2 p0 (ys.map (·.ema)) else s
    let vals := ys.map fun y => NumFmt.m40.decode y.w
    let (f8, sc) := if d.f8En then forwardCopy d.vecLay vals else ([], [])
    let s := if d.f8En then
        (s.store Tbl.empty (d.f8dst + p0) (cleanCells f8)).store Tbl.empty (d.f8sdst + p0 / 32) (cleanCells sc)
      else s
    let s := s.countNonfinite m ((ys.map (badOuts c d)).foldl (· + ·) 0 +
      (f8.filter fun b => !(NumFmt.f8.decode b.toNat).isFinite).length)
    let s := s.modSep m fun u =>
      { u with
        fact := fact
        params := Word.satAdd u.params n
        digest := digestFold u.digest (ys.flatMap fun y => Bytes.ofNat 5 y.w) }
    (false, s.stagedDone m d k)

/-! ## The list -/

/-- Read the factors at the start of a descriptor (R126). -/
def loadFactors (s : State) (x : Env) (m : Nat) (d : UpdDesc) : State :=
  if d.opt = some .fact then
    let (rf, br, s) := s.readArr x m d d.mom2 2 0 d.rows
    let (cf, bc, s) := s.readArr x m d d.colf 2 0 d.cols
    let table (cs : List Nat) : Tbl (BitVec 32) :=
      (List.range cs.length).foldl (fun t i => t.set 0 i (BitVec.ofNat 32 (N32.widen (cs.getD i 0)))) Tbl.empty
    let rsum := (rf.drop 1).foldl (fun a c => N32.add a (N32.widen c)) (N32.widen (rf.headD 0))
    s.modSep m fun u =>
      { u with fact := some { rf := table rf, cf := table cf, rsum := BitVec.ofNat 32 rsum, sr := Tbl.empty, sc := Tbl.empty,
                              bad := br || bc } }
  else s.modSep m fun u => { u with fact := none }

/-- Write the factors at the end of a descriptor (R126); factors that read poisoned are marked so (R117). -/
def storeFactors (s : State) (m : Nat) (d : UpdDesc) : State :=
  match (s.sep m).fact with
  | none => s
  | some b =>
    if b.bad then
      [(d.mom2, 2 * d.rows), (d.colf, 2 * d.cols)].foldl
        (fun s a => match s.stateAt m d a.1 0 a.2 with | some p => s.markPoison p a.2 | none => s) s
    else
      let b2 := (s.sep m).beta2.toNat
      let om2 := N32.sub N32.one b2
      let out (f acc : Tbl (BitVec 32)) (len by_ : Nat) : List Nat :=
        (List.range len).map fun i =>
          N32.narrow (N32.add (N32.mul b2 (f.get 0 i).toNat)
            (N32.mul om2 (N32.div (acc.get 0 i).toNat (NumFmt.n32.encode (Val.ofNat by_)))))
      let rf := out b.rf b.sr d.rows d.cols
      let cf := out b.cf b.sc d.cols d.rows
      let s := (s.writeArr m d d.mom2 2 0 rf).writeArr m d d.colf 2 0 cf
      let s := s.countNonfinite m ((rf ++ cf).filter fun c => !(NumFmt.h16.decode c).isFinite).length
      if d.flash then
        s.modSep m fun u => { u with staged := u.staged.map fun g =>
          if g.step == u.step && (g.oid == d.mom2 || g.oid == d.colf) then { g with written := true } else g }
      else s

/-- A descriptor commits (R123, R139): its digest if LAST, and its post. -/
def commitDesc (s : State) (d : UpdDesc) (digest : BitVec 64) : State :=
  let s := if d.last then s.store Tbl.empty d.dgst (cleanCells (Bytes.ofNat 8 digest.toNat)) else s
  if d.pcore = 0xFF then s else s.unitPost d.pcore.toNat d.psem 1

/-- The descriptor list of die `m` ends: DONE sets and counts (R131). -/
def sepDone (s : State) (m : Nat) : State :=
  (s.modSep m fun u => { u with mode := .idle, done := true, doneCnt := Word.satInc u.doneCnt, cur := none, fact := none }).occur
    (regKey 3 m 8) 5

/-- Take up the next descriptor that is not rejected, from DESC_INDEX on (R121, R122); true when one was rejected. -/
def sepNext (x : Env) (m : Nat) : Nat → State → Bool × State
  | 0, s => (false, s)
  | fuel + 1, s =>
    let u := s.sep m
    if u.listLen.toNat ≤ u.descIndex then (false, s.sepDone m)
    else
      let a := u.list.toNat + 128 * u.descIndex
      let mapped := s.mappedRange Tbl.empty a 128 false
      let (cs, s) := if mapped then s.load x Tbl.empty a 128 else ([], s)
      let d := updDescOf (cellBytes cs)
      if !mapped || anyPoison cs || s.descBad m d then
        let (_, s) := sepNext x m fuel (s.modSep m fun u => { u with descIndex := u.descIndex + 1 })
        (true, s)
      else
        let s := s.modSep m fun u =>
          { u with cur := some d, segIndex := 0, digest := if d.first then 0 else u.digest }
        if d.flash then (false, s) else (false, s.loadFactors x m d)

/-- GO (R121, Table 3-11): in IDLE, execute the list. -/
def sepGo (s : State) (m : Nat) : Bool × State :=
  if (s.sep m).mode = .idle then
    let s := s.modSep m fun u => { u with mode := .run, descIndex := 0, segIndex := 0, abortReq := false, cur := none }
    sepNext noEnv m ((s.sep m).listLen.toNat + 1) s
  else (false, s)

/-- What became of a segment. -/
inductive SegEnd where
  | idle | waits | applied | poisoned
  deriving DecidableEq, Repr

/-- Move on from a segment (R121, R123): an ABORT takes effect, or the next segment or descriptor follows. `held` tells that the
descriptor's commit is that of its step (TIER = 1). -/
def sepAdvance (s : State) (x : Env) (m : Nat) (d : UpdDesc) : Bool × State :=
  let u := s.sep m
  if u.abortReq then (false, s.modSep m fun u => { u with mode := .idle, abortReq := false, cur := none, fact := none })
  else if u.segIndex + 1 < d.segments then (false, s.modSep m fun u => { u with segIndex := u.segIndex + 1, mode := .run })
  else
    let s := s.storeFactors m d
    let s := if d.flash then s else s.commitDesc d (s.sep m).digest
    sepNext x m (u.listLen.toNat + 1) (s.modSep m fun u => { u with descIndex := u.descIndex + 1, mode := .run })

/-- One segment (R117, R121). `final` tells that the step's verdict is final, so that a poisoned segment is marked. Gives what
became of it, and whether a descriptor was rejected. -/
def sepSegment (s : State) (x : Env) (m : Nat) (final : Bool) : SegEnd × Bool × State :=
  let u := s.sep m
  match u.mode, u.cur with
  | .idle, _ => (.idle, false, s)
  | _, none => (.idle, false, s)
  | _, some d =>
    if !s.segReady m d u.segIndex then
      if u.abortReq then
        (.waits, false, s.modSep m fun u => { u with mode := .idle, abortReq := false, cur := none, fact := none })
      else (.waits, false, s.modSep m fun u => { u with mode := .wait })
    else
      let s := if d.flash && u.segIndex == 0 then s.loadFactors x m d else s
      let (bad, s) := s.applySeg x m d u.segIndex
      let s := if bad && final then
          ((s.poisonSeg m d u.segIndex).modSep m fun u =>
            { u with poison := true, poisonCnt := Word.satInc u.poisonCnt }).occur (regKey 3 m 8) 6
        else s
      let s := if bad then s.stagedDone m d u.segIndex else s
      let s := if d.flash then
          s.modSep m fun v => { v with parked := v.parked.filter fun p => !s.parkedIs m d u.segIndex p }
        else s
      let (rej, s) := s.sepAdvance x m d
      (if bad then .poisoned else .applied, rej, s)

end State
end Sys2Proof.Machine
end

