-- ==== Sys2Proof/Machine/Training.lean ====
section
/-!
DEFINITION. The training step (R106 to R120, R127, R132 to R143) as the firmware runs it: the control of a job's cores, the local
verdict, the loss scale, the registers of a Separator, commit, digests, and the ways in which a step and a job end (R300, R324 to
R326, R466).
-/
namespace Sys2Proof.Machine

/-! ## A core's control register (R56, Table 1-20) -/

namespace State

/-- HALT_REQ: in RUN the core stops issue at its next operation boundary and faults HALTED. -/
def coreHalt (s : State) (c : Nat) : State :=
  let k := s.core c
  if k.regs.mode = .run ∧ k.pipe.faulting = none then
    let (b, pc) := s.boundary c
    (s.markFault c b .halted pc).settle c
  else s

/-- CLEAR: in IDLE or FAULT every queue empties, banks, pending anchor and tile log are invalid, CORE_FAULT is 0, and the core is
IDLE. -/
def coreClear (s : State) (c : Nat) : State :=
  if (s.core c).regs.mode = .run then s
  else
    ((s.notePhase c 0).dropProbe c).modCore c fun k =>
      { k with
        regs := { k.regs with mode := .idle, phase := 0, faultCause := 0, faultPc := 0 }
        pipe := { CorePipe.reset with issued := k.pipe.issued }
        arr := { k.arr with banks := Tbl.empty, shadow := none, pend := none, tiles := [], flying := [], replay := none } }

/-- START: in IDLE the core begins fetching at CORE_START_PC and enters RUN; the first tile of the run is TILE_SEQ 1 (R32). -/
def coreStart (s : State) (c : Nat) : State :=
  if (s.core c).regs.mode = .idle then
    s.modCore c fun k =>
      { k with
        regs := { k.regs with mode := .run, pc := k.regs.startPc.toNat }
        pipe := { k.pipe with fetch := [], fetchPc := k.regs.startPc.toNat }
        arr := { k.arr with tileSeq := 0 } }
  else s

end State

/-! ## Job, step and shard -/

/-- The cores of a set of compute dies, ascending. -/
def coresOf (dies : BitVec 22) : List Nat := (List.range 176).filter fun c => dies.getLsbD (c / 8)

namespace State

/-- Change step `n` of a job. -/
def modRun (s : State) (job : BitVec 16) (n : BitVec 64) (f : StepRun → StepRun) : State :=
  s.modJob job fun j => { j with steps := j.steps.map fun r => if r.n == n then f r else r }

/-- Step `n` of a job, in flight. -/
def run? (s : State) (job : BitVec 16) (n : BitVec 64) : Option (Job × StepRun) :=
  match s.job? job with
  | some j => (j.steps.find? fun r => r.n == n).map fun r => (j, r)
  | none => none

/-- The step of a job whose passes run: the newest in flight that is in that stage. -/
def passesRun (j : Job) : Option StepRun := j.steps.reverse.find? fun r => r.stage == .passes

/-- The step that a failure or poison of a job's work without a step of its own concerns: the one whose passes run, or the newest in
flight, at its update or exchange (R112, R117, R324, R466). -/
def currentStep (j : Job) : Option StepRun := (passesRun j).or j.steps.getLast?

/-- Every core of a job is IDLE: its passes have retired (R113). -/
def coresIdle (s : State) (j : Job) : Bool := (coresOf j.dies).all fun c => (s.core c).regs.mode == .idle

/-- Flash objects that hold a job's state (R134). -/
def stateObjs (j : Job) : List Nat :=
  j.shards.flatMap fun sh => sh.descs.flatMap fun d =>
    if d.flash then (d.arrays.filter fun a => a.2.2 && a.2.1 != 0).map (·.1) else []

/-- Change a shard of a job. -/
def modShard (s : State) (job num : BitVec 16) (f : Shard → Shard) : State :=
  s.modJob job fun j => { j with shards := j.shards.map fun sh => if sh.num == num then f sh else sh }

/-- ABORT (Table 3-11): the Separator stops at the next segment boundary and enters IDLE without DONE; one that waits is at a
boundary. -/
def sepAbort (s : State) (m : Nat) : State :=
  s.modSep m fun u =>
    match u.mode with
    | .idle => u
    | .wait => { u with mode := .idle, abortReq := false, cur := none, fact := none }
    | .run => { u with abortReq := true }

/-! ## The local verdict (R112, R116, R117, R325) -/

/-- The end of a step's work on the module once its local verdict is set (R325): its cores are halted and cleared, its Almanac
entries are cancelled, its gradient collectives go on with their outputs discarded. -/
def tearDown (s : State) (j : Job) (n : BitVec 64) : State :=
  let s := s.modJob j.id fun j => { j with clearing := true }
  let s := (coresOf j.dies).foldl (fun s c => (s.coreHalt c).coreClear c) s
  let s := s.cancelEntries j.id (some n)
  let s := s.modFab fun f =>
    { f with colls := f.colls.map fun c => if c.job == j.id && c.grad.isSome && c.step == n then { c with discard := true } else c }
  s.modRun j.id n fun r => { r with tornDown := true }

/-- A local cause of step `n` (Table 3-5). The first cause is reported, the lowest code among those of one mesh cycle (R116); one
that comes after the verdict has been latched does not void the step (R117, R237): the step will complete POISONED. -/
def setVerdict (s : State) (job : BitVec 16) (n : BitVec 64) (cause : BitVec 8) : State :=
  match s.run? job n with
  | none => s
  | some (j, r) =>
    let cycle := s.ticks / 2
    if r.latched then s.modRun job n fun r => { r with poisoned := true }
    else
      match r.cause with
      | none => (s.modRun job n fun r => { r with cause := some cause, causeAt := cycle }).tearDown j n
      | some old =>
        if r.causeAt = cycle ∧ cause.toNat < old.toNat then s.modRun job n fun r => { r with cause := some cause } else s

/-! ## The loss scale (R118) and the Sounding (R243) -/

/-- END_OF_STEP (R118): the training state after step `n` with its verdict, and whether LOSS_SCALE_STALLED is logged. STEP and
VERSION follow when the step completes. -/
def endOfStep (p : Params) (t : TrainState) (voided : Bool) : TrainState × Bool :=
  if voided then
    let consec := BitVec.ofNat 16 (min (t.consec.toNat + 1) 0xFFFF)
    let e := max (t.lsExp.toInt - 1) p.eMin.toInt
    ({ t with skipped := t.skipped + 1, consec := consec, lsExp := BitVec.ofInt 8 e, clean := 0 }, consec == p.stallLim)
  else
    let clean := t.clean + 1
    let grow := p.growth != 0 && clean == p.growth
    let e := if grow then min (t.lsExp.toInt + 1) p.eMax.toInt else t.lsExp.toInt
    ({ t with t := t.t + 1, consec := 0, clean := if grow then 0 else clean, lsExp := BitVec.ofInt 8 e }, false)

/-- Apply END_OF_STEP to a job (R118), with the event of a stall (Table 12-7). -/
def applyEnd (s : State) (job : BitVec 16) (n : BitVec 64) (voided : Bool) : State :=
  match s.job? job with
  | none => s
  | some j =>
    let (t, stalled) := endOfStep j.params j.train voided
    let s := s.modJob job fun j => { j with train := t }
    if stalled then
      s.fwEvent 0x0020 true job.toNat
        (Bytes.ofNat 8 n.toNat ++ Bytes.ofNat 1 t.lsExp.toNat ++ Bytes.zeros 1 ++ Bytes.ofNat 2 t.consec.toNat)
    else s

end State

namespace D64
/-- Sum in binary64. -/
def add (x y : Nat) : Nat := NumFmt.d64.addC x y
/-- Difference. -/
def sub (x y : Nat) : Nat := NumFmt.d64.subC x y
/-- Product. -/
def mul (x y : Nat) : Nat := NumFmt.d64.mulC x y
/-- Quotient. -/
def div (x y : Nat) : Nat := NumFmt.d64.divC x y
/-- Square root. -/
def sqrt (x : Nat) : Nat := NumFmt.d64.sqrtC x
/-- A natural number. -/
def nat (n : Nat) : Nat := NumFmt.d64.encode (Val.ofNat n)
/-- An N32 code, exactly. -/
def ofN32 (c : Nat) : Nat := NumFmt.d64.encode (NumFmt.n32.decode c)
/-- Rounded to an N32 code. -/
def toN32 (c : Nat) : Nat := NumFmt.n32.encode (NumFmt.d64.decode c)
/-- 1.0. -/
def one : Nat := 0x3FF0000000000000
/-- The code is of a number above zero. -/
def pos (c : Nat) : Bool :=
  match NumFmt.d64.decode c with
  | .num neg m _ => !neg && m != 0
  | .inf neg => !neg
  | .nan => false
end D64

/-- The Sounding of an applied step (R243), from the seal's sums. -/
def soundingOf (j : Job) (n : BitVec 64) (lsq gsq : Nat) : Job :=
  let r := j.replicas.length
  if r < 2 then j
  else
    let b := D64.nat j.params.tokens.toNat
    let a := j.params.smooth.toNat
    let den := D64.nat (r * (r - 1))
    let sEst := D64.div (D64.sub gsq lsq) den
    let tEst := D64.div (D64.mul b (D64.sub (D64.mul (D64.nat r) lsq) gsq)) den
    let avg (old est : Nat) : Nat := D64.add (D64.mul a old) (D64.mul (D64.sub D64.one a) est)
    let sBar := avg j.sBar.toNat sEst
    let tBar := avg j.tBar.toNat tEst
    { j with
      sBar := BitVec.ofNat 64 sBar
      tBar := BitVec.ofNat 64 tBar
      bCrit := BitVec.ofNat 64 (if D64.pos sBar then D64.div tBar sBar else NumFmt.d64.nanCode)
      soundStep := n }

/-! ## The Separator's registers (R120, R127) -/

/-- A positive number m * 2^e with its low bits cut off beyond 512 significant ones. -/
def cut512 (m : Nat) (e : Int) : Nat × Int :=
  let k := Nat.log2 m - 511
  (m / 2 ^ k, e + k)

/-- A power of a number in binary64 (R127): the exact power, rounded once. DEDUCED (log 11): the spec does not say how the firmware
forms it; the intermediate products keep 512 significant bits. -/
def D64.pow (x t : Nat) : Nat :=
  match NumFmt.d64.decode x with
  | .num neg m e =>
    if t = 0 then D64.one
    else if m = 0 then 0
    else
      let p := (List.range 64).foldr
        (fun i (p : Nat × Int) =>
          let q := cut512 (p.1 * p.1) (2 * p.2)
          if t.testBit i then cut512 (q.1 * m) (q.2 + e) else q)
        (1, 0)
      NumFmt.d64.encode (.num (neg && t % 2 == 1) p.1 p.2)
  | v => NumFmt.d64.encode v

/-- 1/(1 − β^t), rounded to N32 (R127). -/
def biasCorr (beta t : Nat) : Nat :=
  D64.toN32 (D64.div D64.one (D64.sub D64.one (D64.pow (D64.ofN32 beta) t)))

/-- GSCALE of a step whose global squared norm is `g` (R127). -/
def gscaleOf (j : Job) (e : Int) (g : Nat) : Nat :=
  let r := D64.nat j.replicas.length
  let c :=
    if D64.pos j.params.clip.toNat then
      let norm := D64.div (NumFmt.d64.encode ((NumFmt.d64.decode (D64.sqrt g)).scale (-e))) r
      let q := D64.div j.params.clip.toNat norm
      if Val.le (NumFmt.d64.decode D64.one) (NumFmt.d64.decode q) then D64.one else q
    else D64.one
  D64.toN32 (D64.div c r)

namespace State

/-- A shard whose every descriptor is TIER = 1. -/
def flashShard (sh : Shard) : Bool := sh.descs.all fun d => d.flash

/-- Every pass of step `n` that writes a gradient of the shard has retired (R120): the collectives of its gradients have started. -/
def shardGrads (s : State) (j : Job) (n : BitVec 64) (sh : Shard) : Bool :=
  s.fab.colls.all fun c =>
    !(c.job == j.id && c.step == n && !c.contributed) || (match c.grad with | some d => !sh.descs.contains d | none => true)

/-- Whether the firmware may start a Separator on a shard of the job's oldest step (R120): DRAM-tier state once the verdict is
final and clear; flash-tier state once the passes that write its gradients have retired, and, with clipping, not before the seal has
brought the norm that GSCALE needs (R127). -/
def shardReady (s : State) (j : Job) (sh : Shard) : Bool :=
  match j.steps.head? with
  | none => false
  | some r =>
    !sh.finished && !sh.descs.isEmpty &&
    ((r.stage == .update && r.final == some false) ||
     (!j.stopped && flashShard sh && r.stage == .passes && r.cause.isNone && !D64.pos j.params.clip.toNat && s.shardGrads j r.n sh))

/-- The forward-copy slots that a list names are those that the step writes (R132, Table 3-14): the firmware puts them into the
list. -/
def fillSlots (s : State) (j : Job) (sh : Shard) : State :=
  if j.params.rule = 0 then s
  else
    (List.range sh.descs.length).foldl
      (fun s i =>
        match sh.descs[i]? with
        | none => s
        | some d =>
          if d.f8En then
            s.store Tbl.empty (sh.listAddr + 128 * i + 36)
              (cleanCells (Bytes.ofNat 6 (slotAddr j.copies (!j.newest) d.f8dst) ++
                Bytes.ofNat 6 (slotAddr j.copies (!j.newest) d.f8sdst)))
          else s)
      s

/-- The firmware writes the per-step registers of an idle Separator for a shard (R127). -/
def sepLoad (s : State) (m : Nat) (j : Job) (sh : Shard) (r : StepRun) : State :=
  let t := if r.final.isSome then j.train.t.toNat else j.train.t.toNat + 1
  let gs := gscaleOf j r.lsExp.toInt r.gsq.toNat
  let s := s.fillSlots j sh
  s.modSep m fun u =>
    { u with
      list := BitVec.ofNat 48 sh.listAddr
      listLen := BitVec.ofNat 16 sh.descs.length
      step := r.n
      t := BitVec.ofNat 64 t
      seed := j.train.seed
      unscale := r.lsExp
      gscale := BitVec.ofNat 32 gs
      lr := r.lr
      beta1 := j.params.beta1
      beta2 := j.params.beta2
      bc1 := BitVec.ofNat 32 (biasCorr j.params.beta1.toNat t)
      bc2 := BitVec.ofNat 32 (biasCorr j.params.beta2.toNat t)
      bc2p := if t ≤ 1 then 0x3F800000 else BitVec.ofNat 32 (biasCorr j.params.beta2.toNat (t - 1)) }

/-- The firmware loads an idle Separator with the next shard that may start (R120), the jobs in the order of their loads. -/
def sepPrepare (s : State) (m : Nat) : State :=
  if (s.sep m).mode = .idle then
    match s.jobs.findSome? fun j =>
        match j.steps.head? with
        | some r => (j.shards.find? fun sh => sh.die.val == m && s.shardReady j sh).map fun sh => (j, sh, r)
        | none => none with
    | some (j, sh, r) => s.sepLoad m j sh r
    | none => s
  else s

/-- Every idle Separator is loaded. -/
def sepPrepareAll (s : State) : State := [0, 1, 2, 3].foldl sepPrepare s

/-- A Separator has set DONE (R131): its shard is finished, and the next is loaded. -/
def sepEnded (s : State) (m : Nat) : State :=
  match s.sepShard m with
  | none => s
  | some (j, sh) =>
    if (match j.steps.head? with | some r => r.n == (s.sep m).step | none => false) && s.shardReady j sh then
      (s.modShard j.id sh.num fun sh =>
        { sh with finished := true
                  newDigest := if sh.descs.any (·.last) then (s.sep m).digest else sh.digest }).sepPrepare m
    else s

/-! ## The end of a step -/

/-- RESULT0 of STEP_SUBMIT (Table 7-10). -/
def stepResult (e : BitVec 8) (cause : BitVec 8) : BitVec 32 := (e ++ cause).setWidth 32

/-- The step gate of a job's oldest step (R109, R110, Table 3-3 stage 3): once every earlier step is over, LS_EXP and PREV_VOID go into
the step parameter line of every core that takes part, and the gate semaphore is posted there. -/
def openGate (s : State) (job : BitVec 16) : State :=
  match s.job? job with
  | none => s
  | some j =>
    match j.steps.head? with
    | none => s
    | some r =>
      if r.gated || j.stopped then s
      else
        let e := j.train.lsExp
        let s := s.modRun job r.n fun r => { r with gated := true, lsExp := e }
        j.streams.foldl
          (fun s c =>
            (s.modCore c.core fun k => k.writeScratch (64 * c.stepLine + 8)
              (cleanCells ([Bytes.byte e.toNat, Bytes.byte (Bytes.ofBool (j.train.consec != 0))] ++ Bytes.zeros 54))).unitPost
              c.core (j.params.gateSem.setWidth 6) 1)
          s

/-- A step leaves the flight and its command completes; the gate of the step after it opens. -/
def closeStep (s : State) (job : BitVec 16) (r : StepRun) (status : BitVec 8) (detail : Nat) (cause : BitVec 8) : State :=
  let e := match s.job? job with | some j => j.train.lsExp | none => 0
  let s := s.modJob job fun j => { j with steps := j.steps.filter fun q => q.n != r.n, gradExp := r.lsExp }
  (s.openGate job).finishTag (some (r.queue, r.tag)) status detail (stepResult e cause) r.n

/-- The staged buffers and parked gradients of step `n` of a job are discarded; the staging credits return (R115, R138). -/
def discardStaged (s : State) (j : Job) (n : BitVec 64) : State :=
  let mine (g : Staged) : Bool := (stateObjs j).contains g.oid && g.step == n
  [0, 1, 2, 3].foldl
    (fun s m => s.modSep m fun u =>
      { u with
        parked := u.parked.filter fun p => !(p.job == j.id && p.step == n)
        staged := u.staged.filter fun g => !mine g
        stagingCredits := u.stagingCredits + (u.staged.filter fun g => mine g && g.credit).length })
    s

/-- What the update of step `n` of a job has made is discarded (R115, R138). Next generations and finished lists are those of the job's
oldest step, the only one that updates. -/
def discardUpdate (s : State) (job : BitVec 16) (n : BitVec 64) : State :=
  match s.job? job with
  | none => s
  | some j =>
    let s := s.discardStaged j n
    if (j.steps.head?.map (·.n)) != some n then s
    else
      let s := { s with objs := s.objs.mapVals fun _ o =>
        match o.next with
        | some (w, _, _) => if w == job then { o with next := none } else o
        | none => o }
      s.modJob job fun j => { j with shards := j.shards.map fun sh => { sh with finished := false } }

/-- Separators that execute a list of step `n` of the job stop (R131, R138). -/
def abortStep (s : State) (job : BitVec 16) (n : BitVec 64) : State :=
  [0, 1, 2, 3].foldl
    (fun s m =>
      match s.sepShard m with
      | some (j, _) => if j.id == job && (s.sep m).step == n then s.sepAbort m else s
      | none => s)
    s

/-- VERSION after step `n`: the version that the next step's forward passes read (R132, R133). -/
def nextVersion (rule : BitVec 8) (n : BitVec 64) : BitVec 64 := if rule = 2 then (if n = 0 then 1 else n) else n + 1

/-- A voided step completes (R115): it is the last completed step, its version is the copy that was newest, nothing of it is
visible. -/
def closeVoided (s : State) (job : BitVec 16) (n : BitVec 64) : State :=
  match s.run? job n with
  | none => s
  | some (_, r) =>
    let s := (s.abortStep job n).discardUpdate job n
    let s := s.modJob job fun j =>
      { j with older := j.newest, train := { j.train with step := n, version := nextVersion j.train.rule n } }
    let cause := r.cause.getD 0x02
    s.closeStep job r Status.voided cause.toNat cause

/-- Remove the gradient collectives of step `n` of a job. -/
def dropGrads (s : State) (job : BitVec 16) (n : BitVec 64) : State :=
  s.modFab fun f => { f with colls := f.colls.filter fun c => !(c.job == job && c.grad.isSome && c.step == n) }

/-- A step is voided without its seal: the job stops (R300), which halts its cores and cancels its entries itself, or a RESHARD
abandons the step (R241). -/
def voidNow (s : State) (job : BitVec 16) (n : BitVec 64) (cause : BitVec 8) : State :=
  match s.run? job n with
  | none => s
  | some (j, r) =>
    let s := s.modRun job n fun r => { r with cause := some (r.cause.getD cause), final := some true }
    let s := if r.tornDown || j.stopped then s else s.tearDown j n
    let s := s.dropGrads job n
    ((s.applyEnd job n true).closeVoided job n)

/-- An applied step completes (R108 stage 7, R313): OK, or POISONED after a late failure (R117). -/
def closeApplied (s : State) (job : BitVec 16) (n : BitVec 64) : State :=
  match s.run? job n with
  | none => s
  | some (_, r) =>
    let s := s.modJob job fun j => soundingOf j n r.lsq.toNat r.gsq.toNat
    s.closeStep job r (if r.poisoned then Status.poisoned else Status.ok) 0 0

/-! ## A job that stops (R300, R326, R466) -/

/-- The destination of a collective that fails holds undefined bytes (R314): the ranges of its output, or of a stream what is due to a
receiver from `from_` on. -/
def spoilOutput (s : State) (c : Coll) (from_ : Nat) : State :=
  let due := ((s.fab.streams.filter fun (k : McStream) => k.receiving && k.held.isNone && k.stream == c.stream).map fun k =>
    k.total - from_).foldl max 0
  let n := if c.op = .multicast then due else rangesLen (c.outRanges (c.rank s.node))
  let (bs, s) := s.drawBytes n
  s.store (s.regionsOf c.job) (c.dst + from_) (cleanCells bs)

/-- The stream of a MULTICAST ends with it. -/
def endStream (s : State) (c : Coll) : State := if c.op = .multicast then s.dropStream c.stream else s

/-- A multicast that repairs a shard for a FIX (R331). -/
def repairs (s : State) (c : Coll) : Bool :=
  c.op == .multicast && s.fab.streams.any fun k => k.stream == c.stream && k.held.isSome

/-- The FIX of a job that is open keeps nothing (R332): its repairs end with it. -/
def dropRepairs (s : State) (job : BitVec 16) : State :=
  let rs := match s.job? job with | some j => j.repairs.getD [] | none => []
  let s := rs.foldl
    (fun s r =>
      if s.fab.streams.any fun k => k.stream == r.stream && k.held.isSome then
        (s.dropStream r.stream).modFab fun b => { b with colls := b.colls.filter fun c => !(c.op == .multicast && c.stream == r.stream) }
      else s)
    s
  s.modJob job fun j => { j with fixSent := none, repairs := none }

/-- The FIX of a job loses its digest exchange or a repair (R238, R332): it completes FABRIC_LOST and writes nothing. -/
def loseFix (s : State) (job : BitVec 16) (det : Nat) : State :=
  match s.job? job with
  | none => s
  | some j =>
    match j.fixSent with
    | none => s
    | some n =>
      let s := s.dropRepairs job
      match (s.queue j.queue.val).flights.find? fun f => f.n == n with
      | some f => s.refuse j.queue.val f Status.fabricLost det
      | none => s

/-- A command of a stopped job that has started goes no further (R326): the collective, the stream or the RESHARD that it waits for goes
with it, and a query runs on without a command. It completes STOPPED in its turn. -/
def endStarted (s : State) (q : QueueId) (f : Flight) : State :=
  let me : Option (QueueId × Tag) := some (q, f.tag)
  let s := (s.fab.colls.filter fun c => c.tag == me).foldl (fun s c => (s.spoilOutput c 0).endStream c) s
  let s := s.modFab fun b =>
    { b with
      colls := b.colls.filter fun c => c.tag != me
      reshard := match b.reshard with | some (p, t, l) => if p == q && t == f.tag then none else some (p, t, l) | none => none }
  let s : State := { s with queries := s.queries.map fun (k : Query) => if k.tag == me then { k with tag := none } else k }
  let s := if f.opc = 0x2A then s.dropRepairs f.job else s
  s.modQueue q fun h =>
    { h with flights := h.flights.map fun (g : Flight) => if g.tag == f.tag then { g with started := false, refused := some (Status.stopped, 0) } else g }

/-- A job stops: its later commands complete STOPPED, its step in flight is voided with cause REMOTE unless its seal has completed
or `how` says how it ends, its Almanac entries are cancelled and its cores halted. After a step that fails, the commands behind it that have
started complete STOPPED too, before those that have not (R326). -/
def stopJob (s : State) (job : BitVec 16) (how : Option (BitVec 64 × BitVec 8 × Nat)) : State :=
  match s.job? job with
  | none => s
  | some j =>
    if j.stopped then s
    else
      let s := s.modJob job fun j => { j with stopped := true }
      let fails (r : StepRun) : Bool := match how with | some (n, _, _) => r.n == n | none => false
      let after := ((j.steps.find? fails).bind fun r => s.flightOf r.tag).map fun p => p.2.n
      let later := (s.queue j.queue.val).flights.filter fun f =>
        f.started && f.job == job && f.opc != 0x22 && f.opc != 0x23 && f.opc != 0x24 &&
        (match after with | some n => decide (n < f.n) | none => false)
      let s := later.foldl (fun s f => s.endStarted j.queue f) s
      let s := s.modQueue j.queue.val fun h =>
        { h with flights := h.flights.map fun f =>
            if !f.started && f.refused.isNone && f.job == job && f.opc != 0x22 && f.opc != 0x23 then
              { f with refused := some (Status.stopped, 0) }
            else f }
      let kept := (j.steps.filter fun r => r.final.isSome && !fails r).map (·.n)
      let s := s.cancelWhere job fun e => !kept.contains e.step
      let s := (coresOf j.dies).foldl coreHalt s
      let s := (j.steps.filter fun r => !kept.contains r.n).foldl
        (fun s r =>
          if fails r then
            match how with
            | some (_, st, det) =>
              (((s.abortStep job r.n).discardUpdate job r.n).dropGrads job r.n).closeStep job r st det (r.cause.getD 0)
            | none => s
          else s.voidNow job r.n 0x02)
        s
      s.stream j.queue.val

/-- A unit fails the work of a step (R324, R466): the step completes FAILED and the job stops. With no step named, it is the job's
current step. -/
def failStep (s : State) (job : BitVec 16) (step : Option (BitVec 64)) (detail : Nat) : State :=
  match s.job? job with
  | none => s
  | some j =>
    let n := match step with | some n => some n | none => (currentStep j).map (·.n)
    match n with
    | some n => if j.steps.any fun r => r.n == n then s.stopJob job (some (n, Status.failed, detail)) else s
    | none => s

/-! ## Digests (R140, R141) -/

/-- The most common of the digests that differ from `mine`; among equals the one of the lowest node (Table 3-15). The list is in
ascending node order. -/
def otherDigest (mine : BitVec 64) (ds : List (BitVec 12 × BitVec 64)) : BitVec 64 :=
  let count (d : BitVec 64) : Nat := (ds.filter fun p => p.2 == d).length
  (ds.foldl
    (fun best p =>
      if p.2 == mine then best
      else match best with
        | some d => if count d < count p.2 then some p.2 else best
        | none => some p.2)
    none).getD mine

/-- Insert by node. -/
def insertNode (p : BitVec 12 × BitVec 64) : List (BitVec 12 × BitVec 64) → List (BitVec 12 × BitVec 64)
  | [] => [p]
  | q :: qs => if p.1.toNat ≤ q.1.toNat then p :: q :: qs else q :: insertNode p qs

/-- Insert by shard number. -/
def insertShard (p : Shard) : List Shard → List Shard
  | [] => [p]
  | q :: qs => if p.num.toNat ≤ q.num.toNat then p :: q :: qs else q :: insertShard p qs

/-- The shards of a job in ascending number. -/
def shardsUp (j : Job) : List Shard := j.shards.foldr insertShard []

/-- The digests of one shard are compared (R141): a mismatch is logged; a strict majority names the replica that repairs the
others, else the shard is DIVERGED. -/
def compareShard (s : State) (job : BitVec 16) (n : BitVec 64) (me : BitVec 12) (sh : Shard)
    (others : List (BitVec 12 × BitVec 64)) : State :=
  let all := ((me, sh.digest) :: others).foldr insertNode []
  let count (d : BitVec 64) : Nat := (all.filter fun p => p.2 == d).length
  if all.all fun p => p.2 == sh.digest then s
  else
    let other := otherDigest sh.digest all
    let s := s.fwEvent 0x0021 true job.toNat
      (Bytes.ofNat 8 n.toNat ++ Bytes.ofNat 2 sh.num.toNat ++ Bytes.ofNat 2 (count sh.digest) ++ Bytes.ofNat 2 (count other) ++
       Bytes.ofNat 2 all.length ++ Bytes.ofNat 8 sh.digest.toNat ++ Bytes.ofNat 8 other.toNat)
    match all.find? fun p => decide (all.length < 2 * count p.2) with
    | some p => s.modShard job sh.num fun sh => { sh with repair := some p.1, diverged := false }
    | none => s.modShard job sh.num fun sh => { sh with diverged := true, repair := none }

/-- The digests of every shard are compared; the training state counts the DIVERGED shards (Table 3-16). -/
def compareDigests (s : State) (job : BitVec 16) (n : BitVec 64) (peers : List PeerDigests) : State :=
  match s.job? job with
  | none => s
  | some j =>
    let me := (s.engine 0).node
    let shards := shardsUp j
    let s := (List.range shards.length).foldl
      (fun s i =>
        match shards[i]? with
        | some sh => s.compareShard job n me sh (peers.map fun p => (p.node, p.digests.getD i 0))
        | none => s)
      s
    s.modJob job fun j => { j with train := { j.train with
      diverged := BitVec.ofNat 16 (j.shards.filter fun sh => sh.diverged).length } }

/-- Peers that answer a digest exchange: every other replica, each once. -/
def peersCover (s : State) (j : Job) (peers : List PeerDigests) : Bool :=
  let want := j.replicas.filter fun n => n != (s.engine 0).node
  want.all (fun n => (peers.filter fun p => p.node == n).length == 1) && peers.all fun p => want.contains p.node

/-! ## Commit (R138) -/

/-- The next generations of a job's objects become current (R138, R159, R169); one with poisoned units is POISONED (R192). -/
def commitObjs (s : State) (job : BitVec 16) : State :=
  s.objs.entries.foldl
    (fun s p =>
      match p.2.next with
      | some (w, t, bad) => if w == job then s.newGeneration p.1 t bad p.2.len (unitsOf 0 p.2.len) else s
      | none => s)
    s

/-- A step commits (R123, R132, R138, R139): flash generations, digests and posts of TIER = 1 descriptors, the newest forward copy,
STEP and VERSION. -/
def commitStep (s : State) (job : BitVec 16) (n : BitVec 64) : State :=
  match s.job? job with
  | none => s
  | some j =>
    let s := s.commitObjs job
    let s := j.shards.foldl
      (fun s sh => sh.descs.foldl (fun s d => if d.flash then s.commitDesc d sh.newDigest else s) s) s
    s.modJob job fun j =>
      { j with
        shards := j.shards.map fun sh => { sh with digest := sh.newDigest, finished := false }
        older := j.newest
        newest := if j.params.rule = 0 then j.newest else !j.newest
        train := { j.train with step := n, version := nextVersion j.train.rule n } }

/-- Whether everything that a commit waits for is visible: every shard finished (R138), every parked gradient applied (R136), every
write-back of the step retired (R134). -/
def commitReady (s : State) (j : Job) (r : StepRun) : Bool :=
  r.stage == .update && r.final == some false && j.shards.all (fun sh => sh.finished || sh.descs.isEmpty) &&
  [0, 1, 2, 3].all (fun m => (s.sep m).parked.all fun p => !(p.job == j.id && p.step == r.n)) &&
  s.alm.table.all (fun p => !(p.e.job == j.id && p.e.step == r.n && p.e.isBack))

end State
end Sys2Proof.Machine
end

