-- ==== Sys2Proof/Machine/Collectives.lean ====
section
/-!
DEFINITION. Collectives, the seal, reshard, multicast streams and pipeline queues (R226 to R252): their shared operations.
-/
namespace Sys2Proof.Machine

/-! ## Reduction order (R230, R231) -/

/-- One level of the strict tree: present ranks with bit `b` clear take their partners' sums. -/
def strictLevel (b : Nat) (v : List (Option Nat)) : List (Option Nat) :=
  (List.range v.length).map fun r =>
    match (v[r]?).join with
    | none => none
    | some x =>
      if r / 2 ^ b % 2 = 0 then
        match (v[r + 2 ^ b]?).join with
        | some y => some (N32.add x y)
        | none => some x
      else if ((v[r - 2 ^ b]?).join).isSome then none else some x

/-- Levels `t` to `l - 1` of the strict tree with rotation `rho`. -/
def strictLevels (l rho : Nat) : Nat → Nat → List (Option Nat) → List (Option Nat)
  | 0, _, v => v
  | fuel + 1, t, v => strictLevels l rho fuel (t + 1) (strictLevel ((t + rho) % l) v)

/-- ceil(log2 n), 0 for n = 1. -/
def clog2 (n : Nat) : Nat := if n ≤ 1 then 0 else (n - 1).log2 + 1

/-- Rotation of element `i` (R230). -/
def strictRho (n i : Nat) : Nat :=
  let l := clog2 n
  if l = 0 then 0 else (i / 4096 % 4 * ((l + 3) / 4)) % l

/-- strict_sum of R230: N32 codes in rank order. -/
def strictSum (v : List Nat) (i : Nat) : Nat :=
  let l := clog2 v.length
  ((strictLevels l (strictRho v.length i) l 0 (v.map some)).findSome? id).getD 0

/-- Sum in a given order (R231). -/
def orderSum : List Nat → Nat
  | [] => 0
  | x :: xs => xs.foldl N32.add x

/-- The widened value of element `i` of a member (R229). -/
def elemOf (c : Coll) (n : BitVec 12) (i : Nat) : Nat :=
  let w := c.ifmt.width
  let code := Bytes.toNat ((List.range w).map fun b => (c.got n).get 0 (w * i + b))
  NumFmt.n32.encode (c.ifmt.num.decode code)

/-- The reduced N32 value of element `i` (R230, R231), at the one member that reduces it: in throughput mode in the order in which its
contributions reached this module. -/
def reduceElem (c : Coll) (i : Nat) : Nat :=
  if c.throughput then
    let at_ := c.ifmt.width * i
    orderSum ((c.arrivals.filter fun a => decide (a.2.1 ≤ at_ ∧ at_ < a.2.1 + a.2.2)).map fun a => elemOf c a.1 i)
  else strictSum (c.group.map fun n => elemOf c n i) i

/-- The reduced code of a value in the output's format (R229). -/
def outCode (f : ElFmt) (v : Nat) : Nat := f.num.encode (NumFmt.n32.decode v)

/-- Element `i` of the reduced gradient is not finite in G16 though every member's element was finite: the engine that reduced it
produced it (R112; the reduced element of another replica's infinity is that replica's cause, as the example of R119 shows). -/
def producedNonfinite (c : Coll) (v i : Nat) : Bool :=
  !(NumFmt.h16.decode (outCode .g16 v)).isFinite && c.group.all fun n => (NumFmt.n32.decode (elemOf c n i)).isFinite

/-- Σ of squares in binary64, ascending (R236), from `acc` on. -/
def squares (acc : Nat) (xs : List Nat) : Nat :=
  xs.foldl (fun a x => D64.add a (D64.mul (D64.ofN32 x) (D64.ofN32 x))) acc

namespace State

/-- Change the collective with an identifier. -/
def modColl (s : State) (id : Nat) (f : Coll → Coll) : State :=
  s.modFab fun b => { b with colls := b.colls.map fun c => if c.id == id then f c else c }

/-- The collective with an identifier. -/
def coll? (s : State) (id : Nat) : Option Coll := s.fab.colls.find? fun c => c.id == id

/-- Remove a collective. -/
def dropColl (s : State) (id : Nat) : State := s.modFab fun b => { b with colls := b.colls.filter fun c => c.id != id }

/-! ## Contributions (R228, R233, R234) -/

/-- A COLL frame applies to a collective. -/
def frameFits (f : Frame) (c : Coll) : Bool :=
  c.stream == f.stream && c.epoch == f.epoch && collCode c.op == f.op && c.group.contains f.src

/-- What a COLL frame brings to the member `me`: whether it is of a reduced slice, the offset in the input or the output, and the bytes,
without what fills the payload to a multiple of 16. -/
def framePiece (c : Coll) (me : BitVec 12) (f : Frame) : Bool × Nat × List Byte :=
  let result := reduces c.op && decide (c.inTotal ≤ f.offset.toNat)
  let o := if result then f.offset.toNat - c.inTotal else f.offset.toNat
  let r := c.rank f.src
  let rs := if result then elRanges c.ofmt c.n (c.slice r).1 (c.slice r).2 else c.sendsTo r (c.rank me)
  match rs.find? fun r => decide (r.1 ≤ o ∧ o < r.1 + r.2) with
  | some r => (result, o, (f.payload.drop 16).take (r.1 + r.2 - o))
  | none => (result, o, [])

/-- A collective engine stopped at its critical temperature makes no progress (R405): a collective with elements of it waits. -/
def stoppedFor (s : State) (c : Coll) : Bool := (enginesOf c.n).any fun e => (s.engine e).thermal == 2

/-- The engines that run and handle elements of a collective. -/
def running (s : State) (c : Coll) : List Nat := (enginesOf c.n).filter fun e => (s.engine e).thermal != 2

/-- The local verdict of a job's step in flight (R234). -/
def jobVerdict (s : State) (job : BitVec 16) : Bool :=
  match s.job? job with
  | some j => j.steps.any fun r => r.final.isNone && r.cause.isSome
  | none => false

/-- Send ranges of a stream to one member in COLL frames of up to 512 bytes of elements, each behind the norm extension; a member to which
nothing is due of a reducing collective still gets the extension. -/
def sendPieces (s : State) (c : Coll) (norm : List Byte) (n : BitVec 12) (rs : List (Nat × List Byte)) : State :=
  let pieces := rs.flatMap fun r => (List.range ((r.2.length + 511) / 512)).map fun i => (r.1 + 512 * i, (r.2.drop (512 * i)).take 512)
  let pieces := if pieces.isEmpty && reduces c.op then [(0, [])] else pieces
  (List.range pieces.length).foldl
    (fun s i =>
      let q := pieces.getD i (0, [])
      s.sendFrame { blankFrame 6 false (collCode c.op) with
        dst := n, stream := c.stream, verdict := c.verdict, last := i + 1 == pieces.length, poison := c.poisoned
        offset := BitVec.ofNat 48 q.1
        payload := norm ++ Bytes.fit (((q.2.length + 15) / 16) * 16) q.2 })
    s

/-- The other members of a group. -/
def others (s : State) (c : Coll) : List (BitVec 12) := c.group.filter fun n => n != s.node

/-- The engines of this member reduce their shares of its slice, each once every contribution to its elements has come (R226, R231, R236),
and deliver the reduced bits to the other members of an ALL_REDUCE. A gradient element that one produces and that is not finite sets the
local verdict (R112). -/
def sumSlice (s : State) (id : Nat) : State :=
  match s.coll? id with
  | none => s
  | some c =>
    let es := (s.running c).filter fun e => !c.done.contains e && c.shareIn s.node e
    if c.summed || !reduces c.op || es.isEmpty then s
    else
      let p := c.slice (c.rank s.node)
      let w := c.ofmt.width
      let spans := engineSpans c.n p.1 p.2 es
      let vals (q : Nat × Nat) : List Nat := (List.range (q.2 - q.1)).map fun i => reduceElem c (q.1 + i)
      let parts := spans.map fun q => (q.1, vals q)
      let pieces := parts.map fun q => (w * q.1, q.2.flatMap fun v => Bytes.ofNat w (outCode c.ofmt v))
      let summed := (enginesOf c.n).all fun e => c.done.contains e || es.contains e
      let gsq := squares 0 (if summed then vals p else parts.flatMap (·.2))
      let bad := c.grad.isSome && parts.any fun q => (List.range q.2.length).any fun i => producedNonfinite c (q.2.getD i 0) (q.1 + i)
      let s := if bad then s.setVerdict c.job c.step 0x01 else s
      let v := c.verdict || s.jobVerdict c.job
      let s := s.modColl id fun c =>
        { c with done := c.done ++ es, summed := summed, gsq := if summed then gsq else c.gsq, verdict := v, progress := s.ns
                 results := pieces.foldl (fun t q => putEvery t q.1 q.2) c.results }
      if c.op = .allReduce then
        let norm := if c.grad.isSome then Bytes.zeros 8 ++ Bytes.ofNat 8 gsq else Bytes.zeros 16
        (s.others c).foldl
          (fun s n => s.sendPieces { c with verdict := v } norm n (pieces.map fun q => (c.inTotal + q.1, q.2))) s
      else s

/-- A COLL frame's elements and bits enter a collective (R231, R234). -/
def takeColl (s : State) (c : Coll) (f : Frame) : State :=
  let p := framePiece c s.node f
  (s.modColl c.id fun c =>
    let c := if p.1 then { c with results := putEvery c.results p.2.1 p.2.2 } else c.take f.src p.2.1 p.2.2
    { c with verdict := c.verdict || f.verdict, poisoned := c.poisoned || f.poison, progress := s.ns }).sumSlice c.id

/-- A collective begins on this module; frames that came before it are taken in. -/
def openColl (s : State) (c : Coll) : State :=
  let c := { c with id := s.fab.collNext }
  let mine := s.fab.early.filter fun f => f.type == 6 && frameFits f c
  let s := s.modFab fun b =>
    { b with colls := b.colls ++ [c], collNext := b.collNext + 1,
             early := b.early.filter fun f => !(f.type == 6 && frameFits f c) }
  mine.foldl (fun s f => match s.coll? c.id with | some c => s.takeColl c f | none => s) s

/-- A part of what this member has read as its input. -/
def cutCells (cells : List (Nat × List Cell)) (r : Nat × Nat) : List Cell :=
  match cells.find? fun q => decide (q.1 ≤ r.1 ∧ r.1 + r.2 ≤ q.1 + q.2.length) with
  | some q => (q.2.drop (r.1 - q.1)).take r.2
  | none => []

/-- The contribution of some engines of this member: its cells by range of the whole input, in the order of the ranges. Each other member
gets what it takes of them. -/
def contribute (s : State) (id : Nat) (norm : List Byte) (es : List Nat) (cells : List (Nat × List Cell)) : State :=
  match s.coll? id with
  | none => s
  | some c =>
    let bad := c.poisoned || cells.any fun r => anyPoison r.2
    let v := c.verdict || s.jobVerdict c.job
    let all := (enginesOf c.n).all fun e => c.read.contains e || es.contains e
    let s := s.modColl id fun c =>
      { cells.foldl (fun c r => c.take s.node r.1 (cellBytes r.2)) c with
        poisoned := bad, verdict := v, read := c.read ++ es, contributed := all, progress := s.ns }
    let s := (s.others c).foldl
      (fun s n => s.sendPieces { c with poisoned := bad, verdict := v } norm n
        ((c.sendShare (c.rank s.node) (c.rank n) es).map fun r => (r.1, cellBytes (cutCells cells r))))
      s
    s.sumSlice id

/-- Read what some engines take of this member's input of a host's collective from SRC (R226): a slice lies there from its first byte. -/
def readInput (s : State) (x : Env) (c : Coll) (es : List Nat) : List (Nat × List Cell) × State :=
  let r := c.rank s.node
  let regions := s.regionsOf c.job
  (c.inShare r es).foldl
    (fun (acc : List (Nat × List Cell) × State) q =>
      let (cs, s) := acc.2.load x regions (c.src + placeIn (c.inRanges r) q.1) q.2
      (acc.1 ++ [(q.1, cs)], s))
    ([], s)

/-- The engines that run and have not read their share of a host's collective do so now. -/
def takeShare (s : State) (x : Env) (id : Nat) : State :=
  match s.coll? id with
  | none => s
  | some c =>
    let es := (s.running c).filter fun e => !c.read.contains e
    if es.isEmpty then s
    else
      let (cells, s) := s.readInput x c es
      s.contribute id (Bytes.zeros 16) es cells

/-- `n` bytes from byte `off` on of the local gradient of a descriptor (R111, R233). The spec gives no place of a TIER = 1 gradient
buffer. -/
def readGrad (s : State) (c : Coll) (d : UpdDesc) (off n : Nat) : List Cell × State :=
  let rs := s.regionsOf c.job
  let a := (if d.flash then Config.gradBuffer d.pbase.toNat else d.grad) + off
  if s.mappedRange rs a n false then s.load noEnv rs a n
  else
    let (bs, s) := s.drawBytes n
    (cleanCells bs, s)

/-- What some engines read of this member's local gradient, by range. -/
def readGrads (s : State) (c : Coll) (d : UpdDesc) (es : List Nat) : List (Nat × List Cell) × State :=
  (engineRanges .g16 d.count 0 d.count es).foldl
    (fun (acc : List (Nat × List Cell) × State) q =>
      let (cs, s) := acc.2.readGrad c d q.1 q.2
      (acc.1 ++ [(q.1, cs)], s))
    ([], s)

/-- The engines that run read their shares of this member's local gradient (R226, R233): a poisoned read or an element that is not finite
sets the local verdict, each element's square is added to LSQ in ascending order (R236), and the contribution leaves. -/
def contributeGrad (s : State) (id : Nat) : State :=
  match s.coll? id with
  | none => s
  | some c =>
    match c.grad with
    | none => s
    | some d =>
      let es := (s.running c).filter fun e => !c.read.contains e
      if c.contributed || es.isEmpty then s
      else
      let (cells, s) := s.readGrads c d es
      let vals := cells.flatMap fun q => (codesOf 2 q.2).map N32.widen
      let s := if cells.any fun q => anyPoison q.2 then s.setVerdict c.job c.step 0x04 else s
      let s := if vals.any fun v => !(NumFmt.n32.decode v).isFinite then s.setVerdict c.job c.step 0x01 else s
      let mine := cells.foldl (fun (c : Coll) q => c.take s.node q.1 (cellBytes q.2)) c
      let lsq := squares 0 (if c.read.isEmpty then vals
        else ((List.range d.count).filter fun i => c.read.contains (engineOfEl i) || es.contains (engineOfEl i)).map (elemOf mine s.node))
      let v := match s.run? c.job c.step with | some (_, r) => r.cause.isSome | none => false
      let s := s.modColl id fun c => { c with lsq := lsq, verdict := c.verdict || v, discard := c.discard || v }
      s.contribute id (Bytes.ofNat 8 lsq ++ Bytes.zeros 8) es (cells.map fun q => (q.1, q.2.map fun x => (x.1, false)))

/-- The gradient collectives of a step on this module that have not completed, in submission order. -/
def gradColls (s : State) (job : BitVec 16) (n : BitVec 64) : List Coll :=
  s.fab.colls.filter fun c => c.job == job && c.grad.isSome && c.step == n

/-! ## The seal (R235 to R237) -/

/-- The 32 bytes of a seal record (Table 5-8). -/
def sealBytes (r : SealRec) : List Byte :=
  Bytes.ofNat 8 r.step.toNat ++ Bytes.ofNat 1 (Bytes.ofBool r.verdict) ++ Bytes.zeros 7 ++ Bytes.ofNat 8 r.lsq.toNat ++
  Bytes.ofNat 8 r.gsq.toNat

/-- A seal record as a frame carries it. -/
def sealOf (bs : List Byte) : SealRec :=
  { step := BitVec.ofNat 64 (Bytes.field bs 0 8), verdict := Bytes.bit (Bytes.field bs 8 1) 0,
    lsq := BitVec.ofNat 64 (Bytes.field bs 16 8), gsq := BitVec.ofNat 64 (Bytes.field bs 24 8) }

/-- The verdict is latched and this member's seal contribution leaves (R237): after the last gradient collective of the step. -/
def latch (s : State) (job : BitVec 16) (n : BitVec 64) : State :=
  match s.run? job n with
  | none => s
  | some (j, r) =>
    if r.latched || !r.contributed || !(s.gradColls job n).isEmpty then s
    else
      let rec_ : SealRec := { step := n, verdict := r.cause.isSome, lsq := r.lsq, gsq := r.gsq }
      let s := s.modRun job n fun r =>
        { r with latched := true, sealAt := s.ns, seals := r.seals.filter (fun p => p.1 != s.node) ++ [(s.node, rec_)] }
      (j.replicas.filter fun m => m != s.node).foldl
        (fun s m => s.sendFrame { blankFrame 7 true 0x12 with
          dst := m, stream := job, verdict := rec_.verdict, last := true, payload := sealBytes rec_ })
        s

/-- The firmware starts gradient collectives of a running step while its passes still run (Table 3-3): in submission order up to the
one named, and never the step's last (R113). Its flash-tier shards may then be updated (R120). -/
def startGrads (s : State) (id : Nat) : State :=
  match s.coll? id with
  | none => s
  | some c =>
    match s.run? c.job c.step with
    | none => s
    | some (j, r) =>
      let ids := (s.gradColls c.job c.step).map (·.id)
      if c.contributed || c.grad.isNone || r.stage != .passes || r.contributed || !r.gated || j.stopped ||
          (j.steps.head?).map (·.n) != some r.n || ids.getLast? == some id then s
      else ((ids.filter fun i => decide (i ≤ id)).foldl contributeGrad s).sepPrepareAll

/-- The firmware starts gradient collectives of a running step, and engines that were stopped go on with one that has begun. -/
def gradsGoOn (s : State) (id : Nat) : State :=
  let s := s.startGrads id
  match s.coll? id with
  | none => s
  | some c =>
    let begun := !c.read.isEmpty || (match s.run? c.job c.step with | some (_, r) => r.contributed | none => false)
    if begun then s.contributeGrad id else s

/-- The passes of a job's oldest step have retired (R113): its gradients leave for their collectives, in submission order, and its
flash-tier shards may be updated (R120). -/
def passesDone (s : State) (job : BitVec 16) : State :=
  match s.job? job with
  | none => s
  | some j =>
    match j.steps.head? with
    | none => s
    | some r =>
      if r.contributed || r.stage != .passes || j.stopped || !s.coresIdle j then s
      else
        let s := s.modRun job r.n fun r => { r with contributed := true }
        let s := ((s.gradColls job r.n).map (·.id)).foldl contributeGrad s
        (s.latch job r.n).sepPrepareAll

/-- A seal record arrives from a replica (R235). A STEP other than this member's stops the job FABRIC_LOST. -/
def sealArrives (s : State) (p : Nat) (f : Frame) : State :=
  let rec_ := sealOf f.payload
  match s.job? f.stream with
  | none => s
  | some j =>
    if j.stopped || !j.replicas.contains f.src then s
    else
      match j.steps.find? fun r => r.final.isNone with
      | none => s.modFab fun b => { b with early := b.early ++ [f] }
      | some r =>
        if rec_.step = r.n then
          s.modRun j.id r.n fun r => { r with sealAt := s.ns, seals := r.seals.filter (fun q => q.1 != f.src) ++ [(f.src, rec_)] }
        else
          let s := s.event 0x0022 0x09 p true 0xFF j.id.toNat
            (Bytes.ofNat 8 r.n.toNat ++ Bytes.ofNat 8 rec_.step.toNat ++ Bytes.ofNat 2 f.src.toNat)
          s.stopJob j.id (some (r.n, Status.fabricLost, p))

/-- Seal frames that came before their step began are taken in. -/
def earlySeals (s : State) (job : BitVec 16) : State :=
  let mine := s.fab.early.filter fun f => f.type == 7 && f.stream == job
  let s := s.modFab fun b => { b with early := b.early.filter fun f => !(f.type == 7 && f.stream == job) }
  mine.foldl (fun s f => s.sealArrives ((nextPort s.dim s.node f.src s.node).getD 0) f) s

/-- One level of the binary64 tree. -/
def sealLevel (b : Nat) (v : List (Option Nat)) : List (Option Nat) :=
  (List.range v.length).map fun r =>
    match (v[r]?).join with
    | none => none
    | some x =>
      if r / 2 ^ b % 2 = 0 then
        match (v[r + 2 ^ b]?).join with
        | some y => some (D64.add x y)
        | none => some x
      else if ((v[r - 2 ^ b]?).join).isSome then none else some x

/-- Sum in binary64 in the strict order with ρ = 0 (R235). -/
def sealSum (v : List Nat) : Nat :=
  (((List.range (clog2 v.length)).foldl (fun v b => sealLevel b v) (v.map some)).findSome? id).getD 0

/-- The seal completes (R114, R235, R237): the verdict and the norms are final. A set verdict voids the step; a clear one lets the
update begin. -/
def sealDone (s : State) (job : BitVec 16) : State :=
  match s.job? job with
  | none => s
  | some j =>
    match j.steps.find? fun r => r.final.isNone with
    | none => s
    | some r =>
      let ranks := ranked j.replicas
      let recs := ranks.filterMap fun n => (r.seals.find? fun p => p.1 == n).map (·.2)
      if !r.latched || recs.length != ranks.length then s
      else
        let v := recs.any fun q => q.verdict
        let s := s.modRun job r.n fun r =>
          { r with
            final := some v
            stage := .update
            lsq := BitVec.ofNat 64 (sealSum (recs.map fun q => q.lsq.toNat))
            gsq := BitVec.ofNat 64 (sealSum (recs.map fun q => q.gsq.toNat)) }
        let s := s.applyEnd job r.n v
        if v then
          let s := if r.tornDown then s else s.cancelEntries job (some r.n)
          s.closeVoided job r.n
        else s.sepPrepareAll

/-! ## Completion of a collective -/

/-- The engines' outputs of a host's collective reach DST (R228, R229): a slice stands there from its first byte. -/
def writeOutput (s : State) (c : Coll) : State :=
  let bytesAt (o : Nat) : Byte :=
    match c.op with
    | .broadcast => (c.got (c.group.getD c.root 0)).get 0 o
    | .reduceScatter | .allReduce => c.results.get 0 o
    | _ => (c.group.findSome? fun n => (c.got n).find? o).getD 0
  let data := (c.outRanges (c.rank s.node)).flatMap fun r => (List.range r.2).map fun i => bytesAt (r.1 + i)
  s.store (s.regionsOf c.job) c.dst (data.map fun b => (b, c.poisoned))

/-- The reduced gradient of a collective whose output is whole, as codes (R233). -/
def gradReduced (s : State) (id : Nat) : State :=
  s.modColl id fun c =>
    { c with reduced := (List.range c.n).map fun i => BitVec.ofNat 16 (Bytes.toNat [c.results.get 0 (2 * i), c.results.get 0 (2 * i + 1)]) }

/-- The groups of a layout, each ranked (R227). -/
def layoutTable (b : List Byte) : Tbl (List (BitVec 12)) := (Config.layoutGroups b).foldl (fun t g => t.put g.1 (ranked g.2)) Tbl.empty

/-- A layout is loaded for a job (R227, R240, Table 7-14): its groups, its replica group, and FAB_DIM. -/
def loadLayout (s : State) (job : BitVec 16) (b : List Byte) : State :=
  let reps := ranked (Config.layoutReplicas b)
  let d := Config.layoutDim b
  (s.modJob job fun j => { j with groups := layoutTable b, replicas := if reps.isEmpty then j.replicas else reps }).modEngines fun e =>
    { e with dim := if dimOk d then d else e.dim }

/-- Collectives of the epoch that have not completed: those in progress, the gradient collectives and seals of steps in flight, and digest
exchanges (R140, R240). -/
def epochBusy (s : State) : Bool :=
  !s.fab.colls.isEmpty || s.jobs.any fun j => j.fixSent.isSome || j.steps.any fun r => r.final.isNone || r.stage == .exchange

/-- A RESHARD that waits takes effect once no collective of the epoch is left (R240). -/
def reshardNow (s : State) : State :=
  match s.fab.reshard with
  | none => s
  | some (q, t, layout) =>
    if s.epochBusy then s
    else
      let e := s.epoch + 1
      let job : BitVec 16 := match s.flightOf t with | some (_, f) => f.job | none => 0
      let s := (s.modFab fun b => { b with reshard := none }).loadLayout job layout
      (s.enterEpoch e).unusedPorts.finishTag (some (q, t)) Status.ok 0 (e.setWidth 32) 0

/-- A gradient collective completes (R113, R233): in submission order, its output written to the gradient array or already in the
parking area, or discarded. -/
def gradDone (s : State) (c : Coll) (d : UpdDesc) : State :=
  if ((s.gradColls c.job c.step).head?.map (·.id)) != some c.id || !c.whole s.node then s
  else
    let s := s.gradReduced c.id
    match s.coll? c.id with
    | none => s
    | some c =>
      if d.flash && !c.discard && c.parkedSegs < d.segments then s
      else
        let s := if d.flash || c.discard || c.group.length ≤ 1 then s
          else s.store (s.regionsOf c.job) d.grad (cleanCells (c.reduced.flatMap fun v => Bytes.ofNat 2 v.toNat))
        let s := s.modRun c.job c.step fun r =>
          { r with lsq := BitVec.ofNat 64 (D64.add r.lsq.toNat c.lsq), gsq := BitVec.ofNat 64 (D64.add r.gsq.toNat c.gsq) }
        ((s.dropColl c.id).latch c.job c.step).reshardNow

/-- A frame of this module that belongs to a collective. -/
def ofColl (me : BitVec 12) (c : Coll) (f : Frame) : Bool :=
  f.type == 6 && f.stream == c.stream && f.op == collCode c.op && f.src == me

/-- Frames of a collective that this module has not been able to send yet. -/
def collQueued (s : State) (c : Coll) : Bool :=
  s.fab.heldTo.any (ofColl s.node c) || (List.range 8).any fun p => (s.port p).waitTx.any fun w => w.hold.isNone && ofColl s.node c w.frame

/-- A collective that ends without its result: its frames that wait to be sent go with it. -/
def endColl (s : State) (c : Coll) : State :=
  let s := (s.dropColl c.id).modFab fun b => { b with heldTo := b.heldTo.filter fun f => !ofColl s.node c f }
  (List.range 8).foldl
    (fun s p => s.modPort p fun x => { x with waitTx := x.waitTx.filter fun w => !(w.hold.isNone && ofColl s.node c w.frame) }) s

/-- A collective goes on with the engines that run (R226), and completes on this module (R228) once none is stopped. The root of a BROADCAST goes on until its last frame has left: a slow member holds it
(R248). -/
def collDone (s : State) (id : Nat) : State :=
  match s.coll? id with
  | none => s
  | some c =>
    if s.stoppedFor c then
      if c.op = .multicast then s else if c.grad.isSome then (s.gradsGoOn id).sumSlice id else (s.takeShare noEnv id).sumSlice id
    else
    match c.grad with
    | some d => let s := (s.gradsGoOn id).sumSlice id; (match s.coll? id with | some c => s.gradDone c d | none => s)
    | none =>
      if c.op = .multicast then
        match s.fab.streams.find? fun k => k.stream == c.stream with
        | none => s
        | some k =>
          let ended := if k.receiving then decide (k.total ≤ k.avail) && k.branches.all (fun b => b.gone || decide (k.total ≤ b.pos))
            else k.branches.all fun b => b.gone || decide (k.total ≤ b.pos)
          if ended && k.held.isSome then
            (((s.dropStream c.stream).dropColl id).modJob c.job fun j =>
              { j with repairs := j.repairs.map fun rs => rs.map fun r => if r.stream == c.stream then { r with bytes := k.held } else r }).reshardNow
          else if ended then
            let s := (s.dropStream c.stream).dropColl id
            (s.finishTag c.tag (if c.poisoned then Status.poisoned else Status.ok) 0 0 0).reshardNow
          else s
      else
        let s := (s.takeShare noEnv id).sumSlice id
        match s.coll? id with
        | none => s
        | some c =>
          if c.whole s.node && !(c.op == .broadcast && s.collQueued c) then
            let s := (s.writeOutput c).dropColl id
            (s.finishTag c.tag (if c.poisoned then Status.poisoned else Status.ok) 0 0 0).reshardNow
          else s

/-- This module's part of the digest exchange of step `n` leaves for the other replicas (R140, R332): STEP and one digest a shard, in COLL
frames of an ALL_GATHER under the job's number. -/
def sendDigests (s : State) (job : BitVec 16) (n : BitVec 64) : State :=
  match s.job? job with
  | none => s
  | some j =>
    let body := Bytes.ofNat 8 n.toNat ++ (shardsUp j).flatMap fun sh => Bytes.ofNat 8 sh.digest.toNat
    let parts := Bytes.chunks 512 (Bytes.fit ((body.length + 15) / 16 * 16) body)
    let s := s.modRun job n fun r => { r with sealAt := s.ns }
    (j.replicas.filter fun m => m != s.node).foldl
      (fun s m =>
        (List.range parts.length).foldl
          (fun s i => s.sendFrame { blankFrame 6 false 0x11 with
            dst := m, stream := job, last := i + 1 == parts.length, offset := BitVec.ofNat 48 (512 * i)
            payload := Bytes.zeros 16 ++ parts.getD i [] })
          s)
      s

/-! ## Failures (R209, R238, R241) -/

/-- A collective fails FABRIC_LOST (R238): a gradient collective stops its job. -/
def loseColl (s : State) (c : Coll) (det : Nat) : State :=
  match c.grad with
  | some _ => (s.endColl c).stopJob c.job (some (c.step, Status.fabricLost, det))
  | none =>
    if s.repairs c then (s.loseFix c.job det).reshardNow
    else (((s.spoilOutput c 0).endStream c).endColl c |>.finishTag c.tag Status.fabricLost det 0 0).reshardNow

/-- Milliseconds of a collective engine's timeout, in ns. -/
def timeoutNs (s : State) (e : Nat) : Nat := 1000000 * (s.engine e).collTimeout.toNat

/-- OPT_STATUS.TIMEOUT of an engine (R238). -/
def engineTimeout (s : State) (e : Nat) : State :=
  (s.modEngine e fun x => { x with timeout := true, timeoutCnt := Word.satInc x.timeoutCnt }).occur (regKey 8 e 8) 7

/-- A pipeline queue fails (R209, R225, R251): the step of its job that waits on it completes FABRIC_LOST, and what it has not sent goes
with it. -/
def loseQueue (s : State) (q : PipeQ) (det : Nat) : State :=
  if q.lost then s
  else
    let s := s.modFab fun b =>
      { b with
        queues := b.queues.map fun k => if k.rec_.qid == q.rec_.qid then { k with lost := true } else k
        heldTo := b.heldTo.filter fun f => !(f.type == 4 && f.stream == q.rec_.qid) }
    match (s.job? q.job).bind passesRun with
    | some r => s.stopJob q.job (some (r.n, Status.fabricLost, det))
    | none => s

/-- The step of a job that waits for a seal, or for the digests of the other replicas (R140, R235). -/
def sealWaits (j : Job) : Option StepRun := j.steps.find? fun r => (r.latched && r.final.isNone) || r.stage == .exchange

/-- The seal or the digest exchange that a job waits for makes no progress (R238). -/
def sealTimesOut (s : State) (j : Job) : State :=
  match sealWaits j with
  | none => s
  | some r =>
    if r.sealAt + s.timeoutNs 0 ≤ s.ns then (s.engineTimeout 0).stopJob j.id (some (r.n, Status.fabricLost, 0xFF)) else s

/-- The digest exchange of a FIX makes no progress (R140, R238). -/
def fixTimesOut (s : State) (j : Job) : State :=
  if j.fixSent.isSome && j.repairs.isNone && decide (j.fixAt + s.timeoutNs 0 ≤ s.ns) then (s.engineTimeout 0).loseFix j.id 0xFF else s

/-- Whether a pipeline queue has stalled (R225, R251): it has lost a frame here, an entry has come in part, or one waits for a peer's
answer. One whose entries are out without a credit, or whose consumer waits for one, may have lost a frame elsewhere or only be slow, which
cannot be told here: a free value (DESIGN CHOICE, log 99). -/
def queueStalls (s : State) (q : PipeQ) : Bool × State :=
  let r := q.rec_
  let held := s.fab.heldTo.any fun f => f.type == 4 && f.stream == r.qid
  let waits := if r.pNode = s.node then decide (q.credits < r.depth) else (s.core r.cCore.toNat).sem r.cFull == 0
  if q.progress + s.timeoutNs 0 ≤ s.ns then
    if q.cut || q.got != 0 || held then (true, s)
    else if waits && r.pNode != r.cNode then (let (n, s) := s.drawNat; (n % 2 == 1, s))
    else (false, s)
  else (false, s)

/-- COLL_TIMEOUT (R225, R238): the collective of a number, or, where none has it, the seals, the digest exchanges and the pipeline queues
that have stalled. -/
def collTimesOut (s : State) (id : Nat) : State :=
  match s.coll? id with
  | none =>
    let s := s.jobs.foldl (fun s j => match s.job? j.id with | some j => (s.sealTimesOut j).fixTimesOut j | none => s) s
    s.fab.queues.foldl
      (fun s q =>
        let (stalls, s) := s.queueStalls q
        if stalls then s.loseQueue q 0xFF else s)
      s
  | some c =>
    let late := (enginesOf c.n).filter fun e => decide (c.progress + s.timeoutNs e ≤ s.ns)
    if (c.contributed || !c.read.isEmpty) && !late.isEmpty then (late.foldl engineTimeout s).loseColl c 0xFF else s

/-- Whether frames to or from a node pass through port `p` of this module (R222). -/
def viaPort (s : State) (p : Nat) (n : BitVec 12) : Bool :=
  n != s.node && (nextPort s.dim s.node n s.node == some p || inPort s.dim s.node n 28 n == some p)

/-- What fails with a port that has gone DARK (R209, R251): collectives with a member behind it, seals and digests that have not come
together, and queues whose other end lies behind it, which take their job's step with them. -/
def portLost (s : State) (p : Nat) : State :=
  let s := s.fab.colls.foldl
    (fun s c => match s.coll? c.id with
      | some c => if (c.contributed || !c.contribs.isEmpty) && c.group.any (s.viaPort p) then s.loseColl c p else s
      | none => s)
    s
  let s := s.jobs.foldl
    (fun s j =>
      match (s.job? j.id).bind sealWaits with
      | some r => if j.replicas.any (s.viaPort p) then s.stopJob j.id (some (r.n, Status.fabricLost, p)) else s
      | none => s)
    s
  let s := (s.jobs.filter fun j => j.repairs.isNone && j.replicas.any (s.viaPort p)).foldl (fun s j => s.loseFix j.id p) s
  s.fab.queues.foldl
    (fun s q =>
      let peer := if q.rec_.pNode = s.node then q.rec_.cNode else q.rec_.pNode
      if s.viaPort p peer then s.loseQueue q p else s)
    s

/-- The module's collectives of the current epoch complete VOIDED and its unsealed steps are voided with cause RESHARD_ABANDON
(R241); `who` tells which groups are concerned. DESIGN CHOICE (log 99): a step that has committed and waits for a digest exchange completes
without it. -/
def abandonEpoch (s : State) (who : List (BitVec 12) → Bool) : State :=
  let s := s.jobs.foldl
    (fun s j =>
      if who j.replicas then
        (let s := (j.steps.filter fun r => r.stage == .exchange).foldl (fun s r => s.closeApplied j.id r.n) s
         (j.steps.filter fun r => r.final.isNone).foldl (fun s r => s.voidNow j.id r.n 0x06) s)
      else s)
    s
  let s := (s.jobs.filter fun j => j.repairs.isNone && who j.replicas).foldl (fun s j => s.loseFix j.id 0xFF) s
  s.fab.colls.foldl
    (fun s c =>
      if s.repairs c && who c.group then s.loseFix c.job 0xFF
      else if c.grad.isNone && who c.group then
        ((s.endStream c).endColl c).finishTag c.tag Status.voided 0x06 0 0
      else s)
    s

/-! ## Multicast streams (R244 to R247) -/

/-- The receivers that a branch point at `me` sends to next: those whose path from the root passes `me` with no receiver between. A module
that is not of the group is no branch point (no layout tells it of the stream): where the tree parts there, it forwards the copies. -/
def children (dim : BitVec 16) (root me : BitVec 12) (recv : List (BitVec 12)) : List (BitVec 12) :=
  recv.filter fun v =>
    let path := root :: walk dim v root 28 root
    let after := (path.dropWhile fun n => n != me).drop 1
    v != me && path.contains me && (after.takeWhile fun n => n != v).all fun n => !recv.contains n

/-- The receivers behind a child, the child first. -/
def behind (dim : BitVec 16) (root child : BitVec 12) (recv : List (BitVec 12)) : List (BitVec 12) :=
  child :: recv.filter fun v => v != child && (walk dim v root 28 root).contains child

/-- The member from which `me` gets the stream. -/
def parentOf (dim : BitVec 16) (root me : BitVec 12) (recv : List (BitVec 12)) : BitVec 12 :=
  let path := root :: walk dim me root 28 root
  ((path.filter fun n => n != me && (n == root || recv.contains n)).getLast?).getD root

/-- Change a stream. -/
def modStream (s : State) (st : BitVec 16) (f : McStream → McStream) : State :=
  s.modFab fun b => { b with streams := b.streams.map fun k => if k.stream == st then f k else k }

/-- The stream with an identifier. -/
def stream? (s : State) (st : BitVec 16) : Option McStream := s.fab.streams.find? fun k => k.stream == st

/-- Blocks of 64 bytes. -/
def blocksOf (n : Nat) : Nat := (n + 63) / 64

/-- A branch keeps up: it is neither lagging nor removed. -/
def live (b : McBranch) : Bool := !b.gone && !b.lagging

/-- A stream has made progress (R238). -/
def mcProgress (s : State) (st : BitVec 16) : State :=
  s.modFab fun b => { b with colls := b.colls.map fun c => if c.op == .multicast && c.stream == st then { c with progress := s.ns } else c }

/-- `n` bytes of a stream at offset `off`, where this module has them: at SRC or DST, or with a repair. -/
def streamCells (s : State) (k : McStream) (off n : Nat) : List Cell × State :=
  match k.held with
  | some t => ((List.range n).map fun i => t.get (0, false) (off + i), s)
  | none => s.load noEnv (s.regionsOf k.job) (k.src + off) n

/-- Send bytes of a stream to a branch's child. -/
def sendMc (s : State) (k : McStream) (b : McBranch) (off : Nat) (cs : List Cell) : State :=
  s.sendFrame { blankFrame 8 false 0x14 with
    dst := b.nodes.headD 0, stream := k.stream, offset := BitVec.ofNat 48 off, poison := anyPoison cs
    last := decide (k.total ≤ off + cs.length), payload := Bytes.fit ((cs.length + 15) / 16 * 16) (cellBytes cs) }

/-- Position of the slowest lagging branch, or the head. -/
def slowest (k : McStream) : Nat := (k.branches.filter fun b => !b.gone && b.lagging).foldl (fun m b => min m b.pos) k.head

/-- A branch is removed (R246): REMOVED goes down it, the event is written, LAGGARD sets. -/
def removeBranch (s : State) (k : McStream) (b : McBranch) : State :=
  let s := s.sendCtrl (b.nodes.headD 0) 0x0B k.stream s.epoch
  let s := s.event 0x0041 0x09 b.port true 0xFF k.job.toNat
    (Bytes.ofNat 2 k.stream.toNat ++ Bytes.ofNat 2 b.nodes.length ++ Bytes.zeros 4 ++ Bytes.ofNat 8 b.pos)
  let s := (s.modEngine (b.port / 2) fun e => { e with laggard := true, lagCnt := Word.satInc e.lagCnt }).occur
    (regKey 8 (b.port / 2) 8) 5
  s.modStream k.stream fun k =>
    { k with branches := k.branches.map fun c => if c.nodes == b.nodes then { c with gone := true, lagging := false } else c }

/-- While `n` more bytes would overflow the replay buffer, the branch that is furthest behind is removed (R246). -/
def makeRoom (st : BitVec 16) (n : Nat) : Nat → State → State
  | 0, s => s
  | fuel + 1, s =>
    match s.stream? st with
    | none => s
    | some k =>
      let low := slowest k
      if k.head + n - low ≤ k.cap then s
      else match k.branches.find? fun b => !b.gone && b.lagging && b.pos == low with
        | some b => makeRoom st n fuel (s.removeBranch k b)
        | none => s

/-- Bytes with their poison kept in a replay buffer from `off` on. -/
def putReplay (t : Tbl Cell) (off : Nat) : List Cell → Tbl Cell
  | [] => t
  | c :: cs => putReplay (t.set (0, false) off c) (off + 1) cs

/-- Send a lagging branch what the replay buffer holds for it while its credits last; one that drains its share rejoins (R245), and so
does one whose share is still empty once it has credits for what comes next. -/
def drainBranch (st : BitVec 16) (child : List (BitVec 12)) : Nat → State → State
  | 0, s => s
  | fuel + 1, s =>
    match s.stream? st with
    | none => s
    | some k =>
      match k.branches.find? fun b => b.nodes == child with
      | none => s
      | some b =>
        let n := min 512 (k.head - b.pos)
        let set (s : State) (f : McBranch → McBranch) : State :=
          s.modStream st fun k => { k with branches := k.branches.map fun c => if c.nodes == child then f c else c }
        if b.gone || !b.lagging then s
        else if n = 0 then
          if blocksOf (min 512 (k.avail - k.head)) ≤ b.credits then set s fun c => { c with lagging := false } else s
        else if b.credits < blocksOf n then s
        else
          let s := (s.sendMc k b b.pos ((List.range n).map fun i => k.replay.get (0, false) (b.pos + i))).mcProgress st
          drainBranch st child fuel (set s fun c =>
            { c with pos := c.pos + n, credits := c.credits - blocksOf n, lagging := decide (c.pos + n < k.head) })

/-- The head of a stream moves on while every branch that keeps up has credits (R245): lagging branches' shares go into the replay
buffer. -/
def advanceHead (st : BitVec 16) : Nat → State → State
  | 0, s => s
  | fuel + 1, s =>
    match s.stream? st with
    | none => s
    | some k =>
      let n := min 512 (k.avail - k.head)
      if n = 0 then s
      else if k.branches.any fun b => live b && decide (b.credits < blocksOf n) then
        s.modStream st fun k => { k with holdFrom := some (k.holdFrom.getD s.ns) }
      else
        let (cs, s) := s.streamCells k k.head n
        let s := if k.branches.any fun b => b.lagging && !b.gone then makeRoom st n k.branches.length s else s
        match s.stream? st with
        | none => s
        | some k =>
          let s := ((k.branches.filter live).foldl (fun s b => s.sendMc k b k.head cs) s).mcProgress st
          let lag := k.branches.any fun b => b.lagging && !b.gone
          advanceHead st fuel (s.modStream st fun k =>
            { k with
              head := k.head + n
              holdFrom := none
              replay := if lag then (putReplay k.replay k.head cs).keep fun o _ => decide (slowest k ≤ o) else Tbl.empty
              branches := k.branches.map fun b =>
                if live b then { b with pos := b.pos + n, credits := b.credits - blocksOf n } else b })

/-- A stream goes on as far as credits allow. -/
def mcPump (s : State) (st : BitVec 16) : State :=
  match s.stream? st with
  | none => s
  | some k =>
    let s := k.branches.foldl (fun s b => drainBranch st b.nodes (k.total / 512 + 2) s) s
    advanceHead st (k.total / 512 + 2) s

/-- A receiver grants its parent credits for `n` bytes more (R245). -/
def grantMc (s : State) (k : McStream) (n : Nat) : State :=
  if n = 0 then s
  else s.route none { blankFrame 2 true 0x14 with
    dst := parentOf s.dim k.root s.node (k.group.filter fun m => m != k.root), src := s.node, epoch := s.epoch, stream := k.stream,
    cred := BitVec.ofNat 14 (min 16383 (blocksOf n)) }

/-- MCAST bytes arrive (R244): they reach DST, credits go back, and the stream goes on to this module's branches. A receiver that was removed
takes nothing more until the host has rejoined it, and then goes on from the first bytes that come (R247). -/
def mcArrives (s : State) (f : Frame) : State :=
  match s.stream? f.stream with
  | none => if s.fab.removed.contains f.stream then s else s.modFab fun b => { b with early := b.early ++ [f] }
  | some k =>
    if !k.receiving then s
    else
      let s := if k.joins then s.modStream k.stream fun k =>
          { k with joins := false, head := f.offset.toNat, branches := k.branches.map fun b => { b with pos := f.offset.toNat } }
        else s
      let n := min f.payload.length (k.total - f.offset.toNat)
      let cs : List Cell := (f.payload.take n).map fun b => (b, f.poison)
      let s := match k.held with
        | some t => s.modStream k.stream fun k => { k with held := some (putReplay t f.offset.toNat cs) }
        | none => s.store (s.regionsOf k.job) (k.dst + f.offset.toNat) cs
      let s := s.modFab fun b => { b with colls := b.colls.map fun c =>
        if c.op == .multicast && c.stream == k.stream then { c with poisoned := c.poisoned || f.poison, progress := s.ns } else c }
      let s := s.modStream k.stream fun k => { k with avail := max k.avail (f.offset.toNat + n) }
      (s.grantMc k n).mcPump k.stream

/-- Credits of a stream come back from a child (R245). -/
def mcCredit (s : State) (f : Frame) : State :=
  (s.modStream f.stream fun k =>
    { k with branches := k.branches.map fun b => if b.nodes.head? == some f.src then { b with credits := b.credits + f.cred.toNat } else b }).mcPump
    f.stream

/-- REMOVED (R246, R247): this receiver and those behind it are out of the stream; one whose receive has not begun is so as soon as it
begins. -/
def mcRemoved (s : State) (f : Frame) : State :=
  match s.stream? f.stream with
  | none => s.modFab fun b => { b with early := b.early ++ [f] }
  | some k =>
    let s := (k.branches.filter fun b => !b.gone).foldl (fun s b => s.sendCtrl (b.nodes.headD 0) 0x0B k.stream s.epoch) s
    match s.fab.colls.find? fun c => c.op == .multicast && c.stream == k.stream with
    | some c =>
      if k.held.isSome then (s.loseFix c.job 0xFF).reshardNow else
      let s := (((s.spoilOutput c k.avail).dropStream k.stream).dropColl c.id).modFab fun b => { b with removed := b.removed ++ [k.stream] }
      (s.finishTag c.tag Status.removedFromGroup 0 0 0).reshardNow
    | none => s

/-- OPT_MC_HOLD has passed with a branch without credit (R245): the stream goes on without waiting for it. -/
def mcHoldOver (s : State) (st : BitVec 16) (p : Nat) : State :=
  match s.stream? st with
  | none => s
  | some k =>
    match k.holdFrom with
    | none => s
    | some t =>
      if t + 1000 * (s.engine (p / 2)).mcHold.toNat ≤ s.ns then
        let n := min 512 (k.avail - k.head)
        (s.modStream st fun k =>
          { k with
            branches := k.branches.map fun b =>
              if b.port == p && live b && decide (b.credits < blocksOf n) then { b with lagging := true } else b }).mcPump st
      else s

/-- The memory die whose device area takes a stream's replay buffer (R156, R244): that of the stream's bytes, or die 0 where they are in no
DRAM. -/
def replayDie (s : State) (a : Nat) : Nat := match s.placeOf a with | .dram m _ _ => m | _ => 0

/-- A multicast stream of `total` bytes begins on this module (R244, R245): at the root with all its bytes, at a receiver with its credits
granted; a repair's bytes are `held`. -/
def openStream (s : State) (c : Coll) (cap total : Nat) (held : Option (Tbl Cell)) : State :=
  let me := s.node
  let root := c.group.getD c.root 0
  let recv := c.group.filter fun n => n != root
  let branches := (children s.dim root me recv).map fun n =>
    ({ port := (nextPort s.dim me n me).getD 0, nodes := behind s.dim root n recv, credits := 0, pos := 0, lagging := false,
       gone := false } : McBranch)
  let k : McStream :=
    { stream := c.stream, job := c.job, root := root, head := 0, cap := cap, replay := Tbl.empty, dst := c.dst, receiving := me != root,
      total := total, src := if me = root then c.src else c.dst, avail := if me = root then total else 0, group := c.group,
      holdFrom := none, joins := s.fab.removed.contains c.stream, branches := branches, tag := c.tag,
      held := held }
  let mine (f : Frame) : Bool := f.stream == c.stream && (f.type == 8 || f.streamCredit || (f.type == 3 && f.op == 0x0B))
  let early := s.fab.early.filter mine
  let s := s.modFab fun b =>
    { b with streams := b.streams ++ [k]
             removed := b.removed.filter fun x => x != c.stream
             early := b.early.filter fun f => !mine f }
  let s := s.modMem (s.replayDie k.src) fun d => { d with area := d.area ++ [(replayKey c.stream, cap)] }
  let s := if me = root then s else s.grantMc k total
  let s := early.foldl (fun s f => if f.type = 8 then s.mcArrives f else if f.type = 3 then s.mcRemoved f else s.mcCredit f) s
  s.mcPump c.stream

/-! ## Pipeline queues (R249 to R251) -/

/-- Change a queue. -/
def modPipe (s : State) (qid : BitVec 16) (f : PipeQ → PipeQ) : State :=
  s.modFab fun b => { b with queues := b.queues.map fun q => if q.rec_.qid == qid then f q else q }

/-- The producer engine takes P_READY for the next entry, waits for a queue credit, and sends the entry (R250); P_CREDIT is posted as its
last frame leaves. -/
def sendEntry (s : State) (qid : BitVec 16) : State :=
  match s.fab.queues.find? fun q => q.rec_.qid == qid with
  | none => s
  | some q =>
    let r := q.rec_
    let k := s.core r.pCore.toNat
    if r.pNode ≠ s.node ∨ r.cNode = s.node ∨ q.lost ∨ (q.ready = false ∧ k.sem r.pReady = 0) then s
    else
      let s := if q.ready then s else s.modCore r.pCore.toNat fun k => k.setSem r.pReady (k.sem r.pReady - 1)
      if q.credits = 0 then s.modPipe qid fun q => { q with ready := true }
      else
        let (cs, s) := s.load noEnv (s.regionsOf q.job) (r.pBase + q.sent % max 1 r.outDepth * r.entry) r.entry
        let slot := q.sent % max 1 r.depth * r.entry
        let parts := Bytes.chunks 512 cs
        let s := s.modPipe qid fun q =>
          { q with ready := false, credits := q.credits - 1, sent := q.sent + 1, progress := s.ns
                   peakUsed := max q.peakUsed (r.depth - (q.credits - 1)) }
        (List.range parts.length).foldl
          (fun s i =>
            let part := parts.getD i []
            s.sendFrame { blankFrame 4 (decide (r.entry ≤ 256)) 0 with
              dst := r.cNode, stream := qid, offset := BitVec.ofNat 48 (slot + 512 * i), poison := anyPoison part
              last := i + 1 == parts.length, payload := cellBytes part })
          s

/-- Entry bytes arrive at the consumer (R250): C_FULL is posted once the whole entry is visible. `credits` are here the slots of the queue
that are free (R197). -/
def entryArrives (s : State) (f : Frame) : State :=
  match s.fab.queues.find? fun q => q.rec_.qid == f.stream && q.rec_.cNode == s.node && q.rec_.pNode == f.src with
  | none => s
  | some q =>
    let r := q.rec_
    let s := s.store (s.regionsOf q.job) (r.cBase + f.offset.toNat % (max 1 (r.entry * r.depth)))
      (f.payload.map fun b => (b, f.poison))
    let got := q.got + f.payload.length
    let s := s.modPipe r.qid fun q =>
      if q.got = 0 then { q with credits := q.credits - 1, peakUsed := max q.peakUsed (r.depth - (q.credits - 1)), progress := s.ns }
      else { q with progress := s.ns }
    if r.entry ≤ got then
      (s.modPipe r.qid fun q => { q with got := 0, arrived := q.arrived + 1 }).unitPost r.cCore.toNat r.cFull 1
    else s.modPipe r.qid fun q => { q with got := got }

/-- The consumer engine takes C_FREE and returns a queue credit for it (R250), once for each post it finds. -/
def returnCredits (s : State) : State :=
  s.fab.queues.foldl
    (fun s q =>
      let r := q.rec_
      let n := ((s.core r.cCore.toNat).sem r.cFree).toNat
      if r.cNode = s.node ∧ r.pNode ≠ s.node ∧ n ≠ 0 then
        let s := s.modCore r.cCore.toNat fun k => k.setSem r.cFree 0
        let s := s.modPipe r.qid fun q => { q with credits := min r.depth (q.credits + n) }
        (List.range n).foldl (fun s _ => s.sendCtrl r.pNode 0x0C r.qid s.epoch) s
      else s)
    s

end State
end Sys2Proof.Machine
end

