-- ==== Sys2Proof/Machine/Serving.lean ====
section
/-!
DEFINITION. Similarity queries and serving requests (R254 to R278): descriptors and their checks, the Skimmers' shares, scores and
order, the merge, the operations of a request and the reports of missed deadlines.
-/
namespace Sys2Proof.Machine

/-! ## Query descriptors (R255 to R257) -/

/-- A query descriptor as its 128 bytes give it (Table 6-3). -/
def queryDescOf (b : List Byte) : QueryDesc :=
  let f (o n : Nat) := Bytes.field b o n
  { job := BitVec.ofNat 16 (f 0 2), metric := BitVec.ofNat 2 (f 2 1), s16 := Bytes.bit (f 2 1) 2, prio := Bytes.bit (f 2 1) 3,
    nq := f 3 1 % 32, dim := f 4 2, k := f 6 2, kmax := f 8 1, home := Fin.ofNat 4 (f 9 1), nseg := f 10 2, qaddr := f 16 6,
    qsaddr := f 22 6, seglist := f 28 6, result := f 34 6, deadline := BitVec.ofNat 64 (f 40 8), seq := BitVec.ofNat 64 (f 48 8),
    pcore := BitVec.ofNat 8 (f 56 1), psem := BitVec.ofNat 6 (f 57 1), rsvZero := true }

/-- Bits of byte `i` of a query descriptor that Table 6-3 assigns. -/
def queryMask (i : Nat) : Nat :=
  if i = 2 then 0x0F else if i = 3 then 0x1F else if i = 9 then 0x03 else if 12 ≤ i ∧ i < 16 then 0 else if i = 57 then 0x3F
  else if 58 ≤ i then 0 else 0xFF

/-- The first byte of a query descriptor with a reserved bit that is not zero. -/
def queryReserved (b : List Byte) : Option Nat :=
  (List.range 128).find? fun i => Bytes.field b i 1 &&& queryMask i != Bytes.field b i 1

/-- A segment record as its 32 bytes give it (Table 6-2). -/
def segmentOf (b : List Byte) : Segment :=
  let f (o n : Nat) := Bytes.field b o n
  { src := f 0 6, offset := f 6 6, scl := f 12 6, isObj := Bytes.bit (f 18 1) 0, count := f 20 4, idBase := BitVec.ofNat 64 (f 24 8),
    rsvZero := decide (f 18 1 < 2) && f 19 1 == 0 }

namespace QueryDesc
/-- Bytes of an element, w of R255. -/
def width (d : QueryDesc) : Nat := if d.s16 then 2 else 1
/-- Data bytes of a vector. -/
def dataLen (d : QueryDesc) : Nat := d.dim * d.width
/-- Scale bytes of a vector. -/
def sclLen (d : QueryDesc) : Nat := if d.s16 then 0 else d.dim / 32
/-- Bytes from one result block to the next (R263). -/
def blockLen (d : QueryDesc) : Nat := Word.roundUp (64 + 16 * d.k) 64
/-- The offset of the first field whose value lies outside Table 6-3. -/
def rangeBad (d : QueryDesc) : Option Nat :=
  ([(2, decide (1 < d.metric.toNat)), (3, decide (d.nq = 0 ∨ 16 < d.nq)), (4, decide (d.dim % 64 ≠ 0 ∨ d.dim = 0 ∨ 4096 < d.dim)),
    (6, decide (d.k = 0 ∨ 1024 < d.k)), (8, decide (d.kmax = 0 ∨ 0xFE < d.kmax)), (10, decide (d.nseg = 0)),
    (16, decide (d.qaddr % 64 ≠ 0)), (22, d.s16 && d.qsaddr != 0), (28, decide (d.seglist % 32 ≠ 0)),
    (34, decide (d.result % 64 ≠ 0)), (56, decide (176 ≤ d.pcore.toNat ∧ d.pcore ≠ 0xFF))].find? fun p => p.2).map (·.1)
/-- The address areas that a query names: offset of the field, address, length, and whether it is written. -/
def areas (d : QueryDesc) : List (Nat × Nat × Nat × Bool) :=
  [(16, d.qaddr, d.nq * d.dataLen, false), (22, d.qsaddr, d.nq * d.sclLen, false), (28, d.seglist, 32 * d.nseg, false),
   (34, d.result, d.nq * d.blockLen, true)]
end QueryDesc

/-- What the check of a query or a segment came to. -/
inductive QueryCheck where
  | ok (segs : List Segment) (refs : List (BitVec 32))
  | waits
  | bad (status : BitVec 8) (detail : Nat)
  deriving DecidableEq, Repr

namespace State

/-- A device address in the non-allocating view, if it is DRAM (R254). -/
def naView (a : Nat) : Nat := if a < 0x40000000000 then a + 0x40000000000 else a

/-- One segment record checked (R256, R257, R361) and substituted (R258): a RESIDENT object is read at its copy's address. A
WRITING object is waited for (Table 4-8). `s16` and the lengths are the query's. -/
def segmentCheck (s : State) (work : BitVec 16) (d : QueryDesc) (g : Segment) : QueryCheck :=
  let dn := g.count * d.dataLen
  let sn := g.count * d.sclLen
  let field := QueryCheck.bad Status.invalidField (0x8000 + 28)
  if !g.rsvZero || g.count == 0 || g.offset % 64 != 0 || (d.s16 && g.scl != 0) then field
  else if !g.isObj then
    if g.src % 64 ≠ 0 ∨ g.offset ≠ 0 ∨ s.oneDram g.src dn = false ∨ (d.s16 = false ∧ s.oneDram g.scl sn = false) then field
    else if s.permitted work g.src dn false = false ∨ (d.s16 = false ∧ s.permitted work g.scl sn false = false) then
      .bad Status.mapViolation 28
    else .ok [g] []
  else
    match s.obj? g.src with
    | none => field
    | some o =>
      if o.mode = .writing then .waits
      else if o.len < g.offset + dn ∨ o.len < g.scl + sn then field
      else if s.sealedObj g.src o then .bad Status.notPermitted 0x09
      else
        match o.mode, o.resident with
        | .resident, some r =>
          .ok [{ g with isObj := false, src := r + g.offset, offset := 0, scl := if d.s16 then 0 else r + g.scl }]
            [BitVec.ofNat 32 g.src]
        | _, _ => if o.home = .host then field else .ok [g] [BitVec.ofNat 32 g.src]

/-- The segment records of a list, one after another. -/
def segmentsCheck (s : State) (work : BitVec 16) (d : QueryDesc) : List (List Byte) → QueryCheck
  | [] => .ok [] []
  | b :: bs =>
    match s.segmentCheck work d (segmentOf b) with
    | .ok gs rs =>
      (match segmentsCheck s work d bs with
       | .ok gs' rs' => .ok (gs ++ gs') (rs ++ rs')
       | other => other)
    | other => other

/-- The checks of R257 on a descriptor, in the order of the rule; they read the segment list. -/
def queryCheck (s : State) (x : Env) (work : BitVec 16) (b : List Byte) : QueryCheck × State :=
  let d := queryDescOf b
  match queryReserved b with
  | some i => (.bad Status.invalidField (0x8000 + i), s)
  | none =>
    match d.rangeBad with
    | some i => (.bad Status.invalidField (0x8000 + i), s)
    | none =>
      match d.areas.find? fun a => decide (0 < a.2.2.1) && !s.permitted work a.2.1 a.2.2.1 a.2.2.2 with
      | some a => (.bad Status.mapViolation a.1, s)
      | none =>
        match s.placeOf d.qaddr with
        | .dram _ _ _ =>
          let (cs, s) := s.load x (s.regionsOf work) d.seglist (32 * d.nseg)
          if anyPoison cs then (.bad Status.invalidField (0x8000 + 28), s)
          else (s.segmentsCheck work d (Bytes.chunks 32 (cellBytes cs)), s)
        | _ => (.bad Status.invalidField (0x8000 + 16), s)

/-! ## Shares (R254, R258) -/

/-- The Skimmer that scores vector `i` of a segment: that of its first data byte. -/
def skimmerOf (s : State) (d : QueryDesc) (g : Segment) (i : Nat) : Nat :=
  let o := i * d.dataLen
  if g.isObj then
    match s.obj? g.src with
    | some ob => if ob.home = .dram then allocView (ob.addr + g.offset + o) / dieSpan else 4 + (g.offset + o) / unitBytes % 4
    | none => 4 + (g.offset + o) / unitBytes % 4
  else allocView (g.src + o) / dieSpan

/-- Submit a query to Skimmer `k`: a full queue holds it back (R264). -/
def skmPush (s : State) (k id : Nat) : State :=
  s.modSkm k fun u => if u.queue.length < 4 then { u with queue := u.queue ++ [id] } else { u with waiting := u.waiting ++ [id] }

/-- Queue a query at some Skimmers. -/
def queueQuery (s : State) (d : QueryDesc) (segs : List Segment) (refs : List (BitVec 32)) (units : List Nat)
    (tag : Option (QueueId × Tag)) (group : Option (BitVec 8)) : State :=
  let q : Query := { id := s.queryNext, d := d, segs := segs, refs := refs, todo := units, shares := [], tag := tag, group := group }
  let s := { s with queries := s.queries ++ [q], queryNext := s.queryNext + 1 }
  units.foldl (fun s k => s.skmPush k q.id) s

/-- Accept a checked query (R258): references are taken, the list is copied, and every Skimmer that holds data of it gets the
descriptor. -/
def queryAccept (s : State) (d : QueryDesc) (segs : List Segment) (refs : List (BitVec 32)) (tag : Option (QueueId × Tag))
    (group : Option (BitVec 8)) : State :=
  let s := refs.foldl (fun s r => s.ref r.toNat) s
  s.queueQuery d segs refs
    ((List.range 8).filter fun k => segs.any fun g => (List.range g.count).any fun i => s.skimmerOf d g i == k) tag group

/-- The objects that the segments of a descriptor name. -/
def queryObjs (s : State) (x : Env) (work : BitVec 16) (d : QueryDesc) : List Nat :=
  ((Bytes.chunks 32 (cellBytes (s.load x (s.regionsOf work) d.seglist (32 * d.nseg)).1)).map segmentOf).filterMap fun g =>
    if g.isObj then some g.src else none

/-- The query with a number. -/
def query? (s : State) (id : Nat) : Option Query := s.queries.find? fun q => q.id == id

/-- Change a query. -/
def modQuery (s : State) (id : Nat) (f : Query → Query) : State :=
  { s with queries := s.queries.map fun q => if q.id == id then f q else q }

/-! ## Scores (R259, R260) -/

end State

/-- Scale codes (F8) or exponent fields (S16) of a vector. -/
def scaleCodes (d : QueryDesc) (data scl : List Byte) : List Nat :=
  if d.s16 then (Bytes.chunks 2 data).map fun b => Bytes.toNat b / 128 % 256 else scl.map (·.toNat)

/-- kq: the largest scale code or exponent field of a query, 0xFF included (R259). -/
def kqOf (d : QueryDesc) (data scl : List Byte) : Nat := (scaleCodes d data scl).foldl max 0

/-- The anchor of a query (Table 6-4). -/
def skimAnchor (d : QueryDesc) (kq : Nat) : Int :=
  let e : Int := if d.s16 then 2 else 18
  if d.metric = 0 then ((kq : Int) - 127) + ((d.kmax : Int) - 127) + e - 42
  else 2 * ((max kq d.kmax : Nat) - 127 : Int) + e + 2 - 42

/-- The values of a vector (R255). -/
def vecVals (d : QueryDesc) (data scl : List Byte) : List Val :=
  if d.s16 then (Bytes.chunks 2 data).map fun b => NumFmt.h16.decode (Bytes.toNat b)
  else (List.range d.dim).map fun i => scaled .f8 (Bytes.field data i 1) (Bytes.field scl (i / 32) 1)

/-- The contributions of a pair to the window (Table 6-4). -/
def skimTerms (d : QueryDesc) (x q : List Val) : List Val :=
  let cross := List.zipWith Val.mul x q
  if d.metric = 0 then cross
  else (x.map fun v => Val.mul v v) ++ (cross.map fun v => (v.scale 1).negate) ++ (q.map fun v => Val.mul v v)

/-- A pair scored (R259): the N32 code, whether it is NaN, and the contributions dropped. -/
def skimScore (d : QueryDesc) (anchor : Int) (x q : List Val) : BitVec 32 × Bool × Nat :=
  let (w, drops, st) := Acc.gather anchor (skimTerms d x q)
  let code := NumFmt.n32.encode ((Acc.mk w st).value anchor)
  (BitVec.ofNat 32 code, st == .nan, drops)

/-- Whether candidate `a` comes before `b` (R261). -/
def candBefore (d : QueryDesc) (a b : Cand) : Bool :=
  let x := NumFmt.n32.decode a.score.toNat
  let y := NumFmt.n32.decode b.score.toNat
  if Val.same x y then
    decide (a.vid.toNat < b.vid.toNat ∨ (a.vid = b.vid ∧ (a.seg < b.seg ∨ (a.seg = b.seg ∧ a.pos < b.pos))))
  else if d.metric = 0 then Val.le y x else Val.le x y

/-- Insert a candidate in order. -/
def insertCand (d : QueryDesc) (c : Cand) : List Cand → List Cand
  | [] => [c]
  | e :: es => if candBefore d c e then c :: e :: es else e :: insertCand d c es

/-- The first K of candidates in order. -/
def topCands (d : QueryDesc) (cs : List Cand) : List Cand := cs.foldl (fun top c => (insertCand d c top).take d.k) []

/-- Nothing scored. -/
def ShareRes.none : ShareRes := { cands := [], scanned := 0, dropped := 0, nanVecs := 0, overVecs := 0, poisonVecs := 0, anchor := 0 }

/-- One query vector as LOAD has read it: its data, its scales, and whether they read poisoned. -/
def queryVec (d : QueryDesc) (u : Skimmer) (j : Nat) : List Byte × List Byte × Bool :=
  let a := (u.qdata.drop (j * d.dataLen)).take d.dataLen
  let b := (u.qscl.drop (j * d.sclLen)).take d.sclLen
  (cellBytes a, cellBytes b, anyPoison a || anyPoison b)

/-- The anchor of one query vector, from its bytes as LOAD has read them (R259). -/
def queryAnchor (d : QueryDesc) (data scl : List Cell) (j : Nat) : Int :=
  skimAnchor d (kqOf d (cellBytes ((data.drop (j * d.dataLen)).take d.dataLen)) (cellBytes ((scl.drop (j * d.sclLen)).take d.sclLen)))

/-- A stored vector enters the share of one query vector (R259, R260, R265). -/
def scoreOne (d : QueryDesc) (qv : List Byte × List Byte × Bool) (x : Option (List Val)) (ended : Bool) (c : Cand) (r : ShareRes) :
    ShareRes :=
  match x with
  | Option.none => { r with poisonVecs := r.poisonVecs + 1 }
  | some xv =>
    if ended then { r with overVecs := r.overVecs + 1 }
    else if qv.2.2 then { r with poisonVecs := r.poisonVecs + 1 }
    else
      let (code, nan, drops) := skimScore d r.anchor xv (vecVals d qv.1 qv.2.1)
      let r := { r with scanned := r.scanned + 1, dropped := r.dropped + drops }
      if nan then { r with nanVecs := r.nanVecs + 1 } else { r with cands := topCands d (r.cands ++ [{ c with score := code }]) }

namespace State

/-! ## The Skimmers' rows -/

/-- Cells of a segment's data or scales (R254): a memory die is read through the non-allocating view, a flash-home object from its
stripe units. -/
def skmCells (s : State) (x : Env) (g : Segment) (scales : Bool) (off n : Nat) : List Cell × State :=
  let base := if scales then g.scl else if g.isObj then g.offset else g.src
  if n = 0 then ([], s)
  else if g.isObj then
    match s.obj? g.src with
    | none => ([], s)
    | some o =>
      if o.mode = .poisoned then s.objCells x g.src o (base + off) n
      else if o.home = .dram then s.load x Tbl.empty (naView (o.addr + base + off)) n
      else (flashCells o (base + off) n, s.flashRead g.src (base + off) n)
  else s.load x Tbl.empty (naView (base + off)) n

/-- STATE of a Skimmer that scans nothing: MERGE while a query waits for its merge there (Table 6-8). -/
def skmRest (s : State) (k : Nat) : State :=
  let merging := s.queries.any fun q => q.todo.isEmpty && q.d.home.val == k
  s.modSkm k fun u => if u.running.isSome then u else { u with mode := if merging then .merge else .idle }

/-- The query that Skimmer `k` takes next (R264): the first of serving priority, else the first. -/
def skmNext (s : State) (u : Skimmer) : Option Nat :=
  let prio (id : Nat) : Bool := match s.query? id with | some q => q.d.prio | none => false
  match u.queue.find? prio with
  | some id => some id
  | none => u.queue.head?

/-- Slots that a scan takes first (Table 4-9): those of the data of each segment. -/
def segSlots (s : State) (d : QueryDesc) (g : Segment) : List Slot :=
  let n := g.count * d.dataLen
  if g.isObj then (match s.obj? g.src with | some o => s.objSlots g.src o g.offset n | none => []) else s.addrSlots g.src n

/-- A Skimmer takes a query from its queue, reads the query vectors, and scans (R259, R264); a read slot that is full is waited for
(R172). -/
def skmStart (s : State) (k : Nat) : State :=
  let u := s.skm k
  if u.en = false ∨ u.running.isSome then s
  else
    match s.skmNext u with
    | none => s
    | some id =>
      match s.query? id with
      | none => s
      | some q =>
        if !s.slotsFree (s.addrSlots q.d.qaddr (q.d.nq * q.d.dataLen)) then s else
        let work := q.d.job
        let (data, s) := s.load noEnv (s.regionsOf work) q.d.qaddr (q.d.nq * q.d.dataLen)
        let (scl, s) := if q.d.s16 then ([], s) else s.load noEnv (s.regionsOf work) q.d.qsaddr (q.d.nq * q.d.sclLen)
        s.modSkm k fun u =>
          let rest := u.queue.erase id
          { u with
            running := some id
            mode := .scan
            qdata := data
            qscl := scl
            queue := rest ++ u.waiting.take 1
            waiting := u.waiting.drop 1 }

/-- Scan the vectors of one segment that are this Skimmer's: results by query vector. -/
def scanSegment (x : Env) (k : Nat) (d : QueryDesc) (u : Skimmer) (sidx : Nat) (g : Segment) :
    List Nat → List ShareRes × State → List ShareRes × State
  | [], p => p
  | i :: is, (rs, s) =>
    if s.skimmerOf d g i ≠ k then scanSegment x k d u sidx g is (rs, s)
    else
      let (dc, s) := s.skmCells x g false (i * d.dataLen) d.dataLen
      let (sc, s) := s.skmCells x g true (i * d.sclLen) d.sclLen
      let bad := anyPoison dc || anyPoison sc
      let ended := (scaleCodes d (cellBytes dc) (cellBytes sc)).any fun c => c != 0xFF && decide (d.kmax < c)
      let xv := if bad then none else some (vecVals d (cellBytes dc) (cellBytes sc))
      let c : Cand := { score := 0, vid := g.idBase + BitVec.ofNat 64 i, seg := sidx, pos := i }
      let rs := (List.range rs.length).map fun j => scoreOne d (queryVec d u j) xv ended c (rs.getD j ShareRes.none)
      let s := s.modSkm k fun v =>
        { v with bytes := Word.satAdd v.bytes (dc.length + sc.length)
                 vecs := if bad || ended then v.vecs else Word.satInc v.vecs }
      scanSegment x k d u sidx g is (rs, s)

/-- Whether a segment's object is being written whole: every reader waits for the new generation (R327). -/
def segsWait (s : State) (segs : List Segment) : Bool :=
  segs.any fun g => g.isObj && (match s.obj? g.src with | some o => o.mode == .writing | none => false)

/-- A Skimmer ends its share (R262, R265, R269): its results go to the Skimmer of HOME. It waits for an object that is WRITING and for
read slots that are full (R172, R327). -/
def skmFinish (s : State) (k : Nat) (x : Env) : State :=
  let u := s.skm k
  match u.running with
  | none => s
  | some id =>
    match s.query? id with
    | none => s.modSkm k fun u => { u with running := none, mode := .idle }
    | some q => if s.segsWait q.segs || !s.slotsFree (q.segs.flatMap (s.segSlots q.d)) then s else
      let (rs, s) := (List.range q.segs.length).foldl
        (fun p i => match q.segs[i]? with
          | some g => scanSegment x k q.d u i g (List.range g.count) p
          | none => p)
        ((List.range q.d.nq).map fun j => { ShareRes.none with anchor := queryAnchor q.d u.qdata u.qscl j }, s.withEnv x)
      let s := s.modSkm k fun u =>
        { u with running := none, done := true, doneCnt := Word.satInc u.doneCnt, qdata := [], qscl := [] }
      let s := s.occur (skmKey k) 16
      let s := s.modQuery id fun q => { q with todo := q.todo.filter fun j => j != k, shares := q.shares ++ [rs] }
      (s.skmRest k).skmRest q.d.home.val

/-! ## Missed deadlines (R277, R278, Table 6-10) -/

/-- Arith cycles charged to each cause of Table 4-5 over a group's cores, and their CORE_BUSY cycles. -/
def stallSums (s : State) (g : Group) : List Nat :=
  let cs := coresOf g.dies
  ((List.range 9).map fun k => (cs.map fun c => ((s.core c).regs.stall.get 0 k).toNat).foldl (· + ·) 0) ++
  [(cs.map fun c => (s.core c).regs.busy.toNat).foldl (· + ·) 0]

/-- CAUSE and STALL of a report about an operation (Table 6-10): the cause with the most cycles since the operation started, or 0xF1
when stalls are under 10% of the time. -/
def missCause (s : State) (g : Group) (o : ServeOp) : Nat × Nat :=
  let now := s.stallSums g
  let delta := (List.range 10).map fun k => (now.getD k 0 + 2 ^ 64 - o.stallAt.getD k 0) % (if k = 9 then 2 ^ 48 else 2 ^ 64)
  let stalls := delta.take 9
  let total := stalls.foldl (· + ·) 0
  let best := (List.range 9).foldl (fun b k => if stalls.getD b 0 < stalls.getD k 0 then k else b) 0
  if total * 10 < delta.getD 9 0 ∨ total = 0 then (0xF1, min total 0xFFFFFFFF) else (best, min (stalls.getD best 0) 0xFFFFFFFF)

/-- CAUSE and STALL of a report about an operation with a deadline: 0xF0 when it had not started by then (R277, Table 6-10). -/
def opCause (s : State) (g : Group) (o : ServeOp) (dl : Nat) : Nat × Nat :=
  if !o.started || decide (dl < o.startedAt.toNat) then (0xF0, 0) else s.missCause g o

/-- Key of a group's counter of one kind of report. -/
def missKey (g : BitVec 8) (kind : Nat) : Nat := 4 * g.toNat + kind

/-- Write a report of a missed deadline and count it under its GROUP, 0xFF for a query from the host (R278). -/
def missReport (s : State) (cls idx : Nat) (work : BitVec 16) (group : BitVec 8) (seq : BitVec 64) (op kind : Nat) (cause : Nat × Nat)
    (deadline done : Nat) : State :=
  let s := { s with tlm := { s.tlm with
    kinds := s.tlm.kinds.set 0 (missKey group kind) (Word.satInc (s.tlm.kinds.get 0 (missKey group kind))) } }
  s.event 0x0050 cls idx false (if cls = 0x11 then 0 else 0xFF) work.toNat
    (Bytes.ofNat 8 seq.toNat ++ Bytes.ofNat 1 group.toNat ++ Bytes.ofNat 1 op ++ Bytes.ofNat 1 kind ++ Bytes.ofNat 1 cause.1 ++
     Bytes.ofNat 8 deadline ++ Bytes.ofNat 8 done ++ Bytes.ofNat 4 cause.2)

/-- The request that a group runs or will run next. -/
def headRequest (g : Group) : Option Request := g.requests.head?

/-- Change the request of a group that has a sequence number and tag. -/
def modRequest (s : State) (g : BitVec 8) (t : Tag) (f : Request → Request) : State :=
  s.modGroup g fun g => { g with requests := g.requests.map fun r => if r.tag == t then f r else r }

/-- Change operation `i` of a request. -/
def Request.modOp (r : Request) (i : Nat) (f : ServeOp → ServeOp) : Request :=
  { r with ops := (List.range r.ops.length).filterMap fun j => (r.ops[j]?).map fun o => if j = i then f o else o }

/-- Deadline of operation `i` in ns; none without one. -/
def opDeadline (r : Request) (o : ServeOp) : Option Nat := if o.dlOff = 0 then none else some (r.accept.toNat + o.dlOff.toNat)

/-- A report of kind OVERDUE of operation `i` of a request (R277). -/
def overdue (s : State) (g : Group) (r : Request) (i : Nat) (o : ServeOp) (dl : Nat) : State :=
  let s := s.missReport 0x11 0 (g.id.setWidth 16) g.id r.seq i 0 (s.opCause g o dl) dl 0
  s.modRequest g.id r.tag fun r => { Request.modOp r i fun o => { o with overdue := true } with reports := r.reports + 1 }

/-! ## Merge and completion of a query (R262, R263, R266) -/

/-- The result of one query vector from the shares. -/
def mergeShares (d : QueryDesc) (rs : List ShareRes) : ShareRes :=
  let sum (f : ShareRes → Nat) : Nat := (rs.map f).foldl (· + ·) 0
  { cands := topCands d (rs.flatMap fun r => r.cands), scanned := sum (·.scanned), dropped := sum (·.dropped),
    nanVecs := sum (·.nanVecs), overVecs := sum (·.overVecs), poisonVecs := sum (·.poisonVecs)
    anchor := match rs with | r :: _ => r.anchor | [] => 0 }

/-- The bytes of a result block: header (Table 6-5) and entries. -/
def resultBlock (flags : Nat) (r : ShareRes) : List Byte :=
  let sat (n : Nat) : Nat := min n 0xFFFFFFFF
  Bytes.ofNat 4 r.cands.length ++ Bytes.ofNat 1 flags ++ Bytes.zeros 1 ++ Bytes.ofNat 2 (Bytes.unsigned 16 r.anchor) ++
  Bytes.ofNat 8 r.scanned ++ Bytes.ofNat 4 (sat r.dropped) ++ Bytes.ofNat 4 (sat r.nanVecs) ++ Bytes.ofNat 4 (sat r.overVecs) ++
  Bytes.ofNat 8 r.poisonVecs ++ Bytes.zeros 28 ++
  r.cands.flatMap fun c => Bytes.ofNat 8 c.vid.toNat ++ Bytes.ofNat 4 c.score.toNat ++ Bytes.ofNat 4 c.seg

/-- A group's SKIM operation has its query's outcome (R266, R276, R277). -/
def skimOutcome (s : State) (g : BitVec 8) (id : Nat) (late poisoned : Bool) : State :=
  s.modGroup g fun g =>
    { g with requests := g.requests.map fun r =>
        if r.query == some id then
          { r with reports := if late then r.reports + 1 else r.reports
                   failed := if poisoned && r.failed.isNone then some (Status.poisoned, 0) else r.failed }
        else r }

/-- HOME has merged every share of a query: the blocks are visible, the references released, the record posted and the post made
(R258, R262, R263, R265, R266). -/
def mergeDone (s : State) (id : Nat) : State :=
  match s.query? id with
  | none => s
  | some q =>
    if !q.todo.isEmpty then s
    else
      let d := q.d
      let late := d.deadline != 0 && decide (d.deadline.toNat < s.ns)
      let per := (List.range d.nq).map fun j => mergeShares d (q.shares.map fun sh => sh.getD j ShareRes.none)
      let bad := per.any fun r => decide (0 < r.poisonVecs)
      let flags := Bytes.ofBool bad + 2 * Bytes.ofBool late
      let regions := s.regionsOf d.job
      let s := (List.range d.nq).foldl
        (fun s j => s.store regions (d.result + j * d.blockLen) (cleanCells (resultBlock flags (per.getD j ShareRes.none)))) s
      let s := q.refs.foldl (fun s r => s.unref r.toNat) s
      let home := d.home.val
      let s := { s with queries := s.queries.filter fun p => p.id != id }
      let s := s.skmRest home
      let s := if bad then
          (s.modSkm home fun u => { u with poison := true, poisonCnt := Word.satInc u.poisonCnt }).occur (skmKey home) 17
        else s
      let cause : Nat × Nat :=
        match q.group.bind s.group? with
        | some g => (match (headRequest g).bind fun r => r.ops[r.cur]? with | some o => s.opCause g o d.deadline.toNat | none => (0xF1, 0))
        | none => (0xF1, 0)
      let s := if late then s.missReport 0x0F home d.job (q.group.getD 0xFF) d.seq 0xFF 3 cause d.deadline.toNat s.ns else s
      let s := match q.group with | some g => s.skimOutcome g id late bad | none => s
      let s := s.finishTag q.tag (if bad then Status.poisoned else if late then Status.deadlineMiss else Status.ok) 0
        (BitVec.ofNat 32 d.nq) (BitVec.ofNat 64 ((per.map (·.scanned)).foldl (· + ·) 0))
      if d.pcore = 0xFF then s else s.unitPost d.pcore.toNat d.psem 1

/-! ## Serving requests (R274 to R277) -/

/-- A request's header and operations as its bytes give them (Table 6-9), or the offset of the first byte that is wrong. -/
def requestOf (g : Group) (b : List Byte) : Except Nat (BitVec 64 × List ServeOp) :=
  let f (o n : Nat) := Bytes.field b o n
  let nops := f 9 1
  if f 8 1 ≠ g.id.toNat then .error 8
  else if nops = 0 ∨ 64 < nops then .error 9
  else
    match (List.range 22).find? fun i => f (10 + i) 1 != 0 with
    | some i => .error (10 + i)
    | none =>
      let badOp (i : Nat) : Option Nat :=
        let o := 32 + 16 * i
        if 1 < f o 1 then some o
        else match [1, 2, 3, 14, 15].find? fun j => f (o + j) 1 != 0 with
          | some j => some (o + j)
          | none => if f o 1 = 0 ∧ g.streams.length ≤ f (o + 8) 6 then some (o + 8) else none
      match (List.range nops).findSome? badOp with
      | some o => .error o
      | none =>
        .ok (BitVec.ofNat 64 (f 0 8), (List.range nops).map fun i =>
          let o := 32 + 16 * i
          { skim := f o 1 == 1, dlOff := BitVec.ofNat 32 (f (o + 4) 4), arg := BitVec.ofNat 48 (f (o + 8) 6), started := false,
            overdue := false, startedAt := 0, stallAt := [] })

/-- Halt and clear every core of a group (R276). -/
def clearGroup (s : State) (g : Group) : State :=
  (coresOf g.dies).foldl (fun s c => (s.coreHalt c).coreClear c) (s.modGroup g.id fun g => { g with clearing := true })

/-- The request of a group with a tag, as it stands now. -/
def requestNow (s : State) (g : BitVec 8) (t : Tag) : Option (Group × Request) :=
  (s.group? g).bind fun gr => (gr.requests.find? fun r => r.tag == t).map fun r => (gr, r)

/-- The reports of the current operation of a request that completes, well or not, at or after its deadline (R277): LATE_DONE where it has
missed it or had its OVERDUE, which is written first if it was not. An operation that never started has none (R276). -/
def lateDone (s : State) (g : BitVec 8) (t : Tag) : State :=
  match s.requestNow g t with
  | none => s
  | some (gr, r) =>
    match r.ops[r.cur]? with
    | none => s
    | some o =>
      match opDeadline r o with
      | none => s
      | some dl =>
        if o.started && (decide (dl < s.ns) || o.overdue) then
          let s := if o.overdue then s else s.overdue gr r r.cur o dl
          (s.missReport 0x11 0 (g.setWidth 16) g r.seq r.cur 1 (s.opCause gr o dl) dl s.ns).modRequest g t fun r =>
            { r with reports := r.reports + 1 }
        else s

/-- A request ends: it leaves its group and its command completes (R276, R277). -/
def endRequest (s : State) (g : BitVec 8) (r : Request) (status : BitVec 8) (detail : Nat) : State :=
  let n := match (s.group? g).bind fun g => g.requests.find? fun q => q.tag == r.tag with | some q => q.reports | none => r.reports
  let s := s.modGroup g fun g =>
    { g with requests := g.requests.filter fun q => q.tag != r.tag, completed := Word.satInc g.completed }
  s.finishTag (some (r.queue, r.tag)) status detail (BitVec.ofNat 32 n) r.seq

/-- The running operation of a group fails (R276, R323, R466): the group's cores are halted and cleared, and the request ends. -/
def failGroup (s : State) (g : BitVec 8) (status : BitVec 8) (detail : Nat) : State :=
  match s.group? g with
  | none => s
  | some gr =>
    match headRequest gr with
    | none => s
    | some r =>
      if r.running then
        ((s.lateDone g r.tag).clearGroup gr).endRequest g r status detail
      else s

/-- An entry of a step's or a request's work fails (R466): its job stops, or its request fails. -/
def failWork (s : State) (work : BitVec 16) (step : Option (BitVec 64)) (detail : Nat) : State :=
  if work.toNat < 0xFF then s.failGroup (work.setWidth 8) Status.failed detail
  else s.failStep work step detail

/-- Every core of a group is IDLE. -/
def groupIdle (s : State) (g : Group) : Bool := (coresOf g.dies).all fun c => (s.core c).regs.mode == .idle

/-- A STREAM operation starts (R275): START_PC of the stream's cores, then START on every core of the group. -/
def startStream (s : State) (g : Group) (i : Nat) : State :=
  let s := (g.streams.getD i []).foldl
    (fun s p => match (coresOf g.dies)[p.1]? with
      | some c => s.modCore c fun k => k.modRegs fun r => { r with startPc := BitVec.ofNat 19 p.2 }
      | none => s)
    s
  (coresOf g.dies).foldl coreStart s

/-- The operation at the head of a request fails as it starts (R276): its late reports, then the request ends. -/
def failOp (s : State) (g : Group) (r : Request) (status : BitVec 8) (detail : Nat) : State :=
  (s.lateDone g.id r.tag).endRequest g.id r status detail

/-- A SKIM operation starts (R275): its descriptor is read through the group's map and queued with PRIO = 1. -/
def startSkim (s : State) (g : Group) (r : Request) (a : Nat) : State :=
  let work : BitVec 16 := g.id.setWidth 16
  if !s.permitted work a 128 false then s.failOp g r Status.mapViolation 0
  else
    let (cs, s) := s.load noEnv (s.regionsOf work) a 128
    if anyPoison cs then s.failOp g r Status.poisoned 0
    else
      let b := cellBytes cs
      let d := queryDescOf b
      if d.job ≠ work then s.failOp g r Status.invalidField 0x8000
      else
        match s.queryCheck noEnv work b with
        | (.ok segs refs, s) =>
          let id := s.queryNext
          (s.modRequest g.id r.tag fun r => { r with query := some id }).queryAccept { d with prio := true } segs refs none
            (some g.id)
        | (.bad st det, s) => s.failOp g r st det
        | (.waits, s) => s

/-- Whether a SKIM descriptor names an object that is WRITING, so that the operation cannot start yet. -/
def skimWaits (s : State) (g : Group) (a : Nat) : Bool :=
  let work : BitVec 16 := g.id.setWidth 16
  if !s.permitted work a 128 false then false
  else
    let (cs, t) := s.load noEnv (s.regionsOf work) a 128
    match (t.queryCheck noEnv work (cellBytes cs)).1 with
    | .waits => !anyPoison cs
    | _ => false

/-- The next operation of a group's first request starts (R275): with the first, SEQ goes to the job slot and the request's Almanac
entries are released. -/
def opStart (s : State) (g : BitVec 8) : State :=
  match s.group? g with
  | none => s
  | some gr =>
    match headRequest gr with
    | none => s
    | some r =>
      match r.ops[r.cur]? with
      | none => s
      | some o =>
        let first := !r.running
        if o.started || !s.groupIdle gr || (first && (s.almSlot gr.slot.val).pvalid) || (o.skim && s.skimWaits gr o.arg.toNat) then s
        else
          let s := if first then
              (s.writeSlotStep gr.slot.val r.seq).modGroup g fun g =>
                { g with clearing := false, toPlace := g.toPlace ++ g.schedule.map fun e => { e with step := r.seq } }
            else s
          let base := s.stallSums gr
          let s := s.modRequest g r.tag fun r =>
            { Request.modOp r r.cur fun o => { o with started := true, startedAt := s.now, stallAt := base } with running := true }
          if o.skim then s.startSkim gr r o.arg.toNat else s.startStream gr o.arg.toNat

/-- The running operation of a group has completed (R275 to R277): a late one has its OVERDUE and LATE_DONE reports; the request goes
on, or ends. -/
def opDone (s : State) (g : BitVec 8) : State :=
  match s.group? g with
  | none => s
  | some gr =>
    match headRequest gr with
    | none => s
    | some r =>
      match r.ops[r.cur]? with
      | none => s
      | some o =>
        let ended := if o.skim then (match r.query with | some id => (s.query? id).isNone | none => false) else s.groupIdle gr
        if !r.running || !o.started || !ended then s
        else
          let s := s.lateDone g r.tag
          match r.failed with
          | some (st, det) => (s.clearGroup gr).endRequest g r st det.toNat
          | none =>
            if r.cur + 1 < r.ops.length then s.modRequest g r.tag fun r => { r with cur := r.cur + 1, query := none }
            else
              let reports := match (s.group? g).bind headRequest with | some r => r.reports | none => 0
              s.endRequest g r (if reports = 0 then Status.ok else Status.deadlineMiss) 0

/-- The deadline of operation `i` of an accepted request has passed (R277): the oldest such request of the group whose report has not
been written. -/
def opOverdue (s : State) (g : BitVec 8) (i : Nat) : State :=
  match s.group? g with
  | none => s
  | some gr =>
    let due (r : Request) : Bool :=
      decide (r.cur ≤ i) && (match r.ops[i]? with
        | some o => !o.overdue && (match opDeadline r o with | some dl => decide (dl ≤ s.ns) | none => false)
        | none => false)
    match gr.requests.find? due with
    | none => s
    | some r =>
      match r.ops[i]? with
      | none => s
      | some o => match opDeadline r o with | some dl => s.overdue gr r i o dl | none => s

/-- A late Almanac delivery with DL_REPORT = 1 (R182, R277): a report of kind ALMANAC; a job's carries no group. -/
def almanacReport (s : State) (e : AlmEntry) : State :=
  let clk := (s.stepClock e.job e.step).getD e.deadline.toNat
  let dl := s.ns - (clk - e.deadline.toNat) * 20 / 14
  if e.job.toNat < 0xFF then
    let g := e.job.setWidth 8
    match s.group? g with
    | none => s
    | some gr =>
      match gr.requests.find? fun r => r.seq == e.step with
      | none => s.missReport 0x11 0 e.job g e.step 0xFF 2 (0xF1, 0) dl s.ns
      | some r =>
        let cause := match r.ops[r.cur]? with | some o => if o.started then s.missCause gr o else (0xF0, 0) | none => (0xF1, 0)
        (s.missReport 0x11 0 e.job g e.step r.cur 2 cause dl s.ns).modRequest g r.tag fun r => { r with reports := r.reports + 1 }
  else s.missReport 0x11 0 e.job 0xFF e.step 0xFF 2 (0xF1, 0) dl s.ns

/-! ## What follows a core's change of state -/

/-- A core of a job or group has entered FAULT (R276, R324): bad data voids the step or fails the request POISONED, another cause
fails the step and stops the job, or fails the request. A core that the firmware has halted to clear it is cleared. -/
def coreFaulted (s : State) (c : Nat) : State :=
  let code := (s.core c).regs.faultCause.toNat
  let bad := code == 0x0D || code == 0x0E
  match s.jobOfDie (c / 8) with
  | some j =>
    (match passesRun j with
     | none =>
       if code = 0x10 ∧ j.clearing = true then s.coreClear c
       else (match j.steps.getLast? with
         | some r => if bad then s.setVerdict j.id r.n 0x04 else s.failStep j.id (some r.n) (0x0100 + code)
         | none => s)
     | some r =>
       if r.tornDown && (bad || code == 0x10) then s.coreClear c
       else if bad then s.setVerdict j.id r.n 0x04
       else s.failStep j.id (some r.n) (0x0100 + code))
  | none =>
    match s.groupOfDie (c / 8) with
    | none => s
    | some g =>
      let running := match headRequest g with | some r => r.running | none => false
      if running then
        (if bad then s.failGroup g.id Status.poisoned 0 else s.failGroup g.id Status.failed (0x0100 + code))
      else if g.clearing then s.coreClear c else s

/-- Cores whose STATE differs. -/
def modesChanged (a b : State) : List Nat :=
  ((a.cores.toList.zip b.cores.toList).zipIdx.filter fun p => p.1.1.regs.mode != p.1.2.regs.mode).map Prod.snd

/-- What the firmware does about the cores that an event has changed, and the consumer engines about the credits that it has posted
(R113, R120, R250, R275, R276, R324), and a RESHARD that waits goes on as soon as it may (R240). `s` is the state before the event, `t` after it. -/
def react (s t : State) : State :=
  let cs := modesChanged s t
  let t := if cs.isEmpty then t
    else
      let t := (cs.filter fun c => (t.core c).regs.mode == .fault).foldl coreFaulted t
      (t.jobs.map (·.id)).foldl passesDone t
  let t := if t.fab.queues.isEmpty then t else t.returnCredits
  if t.fab.reshard.isSome then t.reshardNow else t

end State
end Sys2Proof.Machine
end

