-- ==== Sys2Proof/Machine/ScalePass.lean ====
section
/-!
DEFINITION. The scale-pass unit (R65 to R68): descriptors, their checks, the two passes, and completion.
-/
namespace Sys2Proof.Machine

/-- A scale-pass descriptor as its 32 bytes give it (Table 2-3), with whether its reserved fields are zero. -/
def spuDescOf (at_ : Nat) (b : List Byte) : SpuDesc × Bool :=
  let f (o n : Nat) := Bytes.field b o n
  ({ at_ := at_, src := f 0 6, dst := f 6 6, sdst := f 12 6, n32 := Bytes.bit (f 18 1) 0, g8 := Bytes.bit (f 18 1) 2,
     vecLay := Bytes.bit (f 18 1) 3, pcore := BitVec.ofNat 8 (f 19 1), blocks := f 20 4, psem := BitVec.ofNat 6 (f 24 1) },
   decide (f 18 1 < 16) && !Bytes.bit (f 18 1) 1 && decide (f 24 1 < 64) && (Bytes.slice b 25 7).all (· == 0))

namespace SpuDesc
/-- Bytes of a source element. -/
def elemBytes (d : SpuDesc) : Nat := if d.n32 then 4 else 2
/-- Format of the output. -/
def outFmt (d : SpuDesc) : NumFmt := if d.g8 then .g8 else .f8
/-- Format of the source. -/
def inFmt (d : SpuDesc) : NumFmt := if d.n32 then .n32 else .h16
/-- Elements of block `b`, in the flat or the vector layout (Table 2-3, R18). -/
def elems (d : SpuDesc) (b : Nat) : List Nat :=
  if d.vecLay then (List.range 32).map fun i => (32 * (b / 64) + i) * 64 + b % 64 else (List.range 32).map fun i => 32 * b + i
end SpuDesc

namespace State

/-- Where the firmware puts the update lists of a job slot on a memory die: in its own gigabyte of the device area (R156). -/
def listBase (s : State) (m slot : Nat) : Nat := m * dieSpan + (s.memDie m).capacity - 0x40000000 + slot * 0x8000000

/-- The job slot in whose share of the firmware's own gigabyte of a device area an address lies (R156, log 23). -/
def ownSlot (s : State) (a : Nat) : Option Nat :=
  let u := allocView a
  let m := u / dieSpan
  if a < 0x80000000000 ∧ m < 4 ∧ 0x40000000 ≤ (s.memDie m).capacity ∧ s.listBase m 0 ≤ u ∧ u < s.listBase m 8 then some ((u - s.listBase m 0) / 0x8000000) else none

/-- The work that a descriptor of the scale-pass unit is for, 0xFFFF for none. DESIGN CHOICE (log 81): the job or group whose windows
hold the descriptor's address, or the job in whose slot's share of the firmware's own gigabyte it lies. -/
def workAt (s : State) (a : Nat) : BitVec 16 :=
  match s.jobs.find? fun j => inWindows j.windows a 1 with
  | some j => j.id
  | none =>
    match s.groups.find? fun g => inWindows g.windows a 1 with
    | some g => g.id.setWidth 16
    | none =>
      match (s.ownSlot a).bind fun k => s.jobs.find? fun j => j.slot.val == k with
      | some j => j.id
      | none => 0xFFFF

/-- Whether a range may be reached for a work (R67); nothing is mapped for none. -/
def reach (s : State) (work : BitVec 16) (a n : Nat) (write : Bool) : Bool := work != 0xFFFF && s.permitted work a n write

/-- Whether the descriptor at an address may be read for a work: it lies in the work's map or in the firmware's own gigabyte. -/
def reachDesc (s : State) (work : BitVec 16) (a : Nat) : Bool :=
  s.reach work a 32 false || (work != 0xFFFF && (s.ownSlot a).isSome && (s.ownSlot (a + 31)).isSome)

/-- The rejection code of a descriptor, 0 for none (SPU_LAST_REJECT.CODE). DESIGN CHOICE (log 81): where several apply, the first of
UNMAPPED, ALIGN, RESERVED, RANGE; a descriptor's own misaligned address is ALIGN, a PCORE of 0xB0 to 0xFE is RESERVED. -/
def spuCheck (s : State) (work : BitVec 16) (d : SpuDesc) (rsv : Bool) : Nat :=
  let n := d.blocks
  if decide (0 < n) && !(s.reach work d.src (32 * n * d.elemBytes) false && s.reach work d.dst (32 * n) true &&
      s.reach work d.sdst n true) then 1
  else if d.src % 64 ≠ 0 ∨ d.dst % 64 ≠ 0 ∨ d.sdst % 64 ≠ 0 ∨ d.at_ % 32 ≠ 0 then 2
  else if !rsv || (d.pcore != 0xFF && decide (176 ≤ d.pcore.toNat)) then 3
  else if n = 0 ∨ (d.vecLay = true ∧ n % 64 ≠ 0) then 4
  else 0

/-- A rejected descriptor or submission (R68). -/
def spuReject (s : State) (m code : Nat) (a : Addr) : State :=
  ((s.modSpu m fun u =>
    { u with reject := true, rejectCnt := Word.satInc u.rejectCnt, lastCode := BitVec.ofNat 8 code, lastAddr := a }).occur
    (regKey 4 m 8) 17).pulse (0x0E0 + m)

/-- The first pass over a descriptor's source bytes (R66): each block's scale, poisoned where the block is (R68). -/
def spuScales (d : SpuDesc) (src : List Cell) : List Cell :=
  let cells := Bytes.chunks d.elemBytes src
  let vals := cells.map fun c => d.inFmt.decode (Bytes.toNat (cellBytes c))
  (List.range d.blocks).map fun b =>
    (Bytes.byte (chooseScale d.outFmt ((d.elems b).map fun e => vals.getD e (.num false 0 0))),
     (d.elems b).any fun e => anyPoison (cells.getD e []))

/-- The second pass, over the source as it reads then (R66): the elements in the order in which they are stored, poisoned where
their block is (R68). -/
def spuElements (d : SpuDesc) (scales src : List Cell) : List Cell :=
  let vals := (Bytes.chunks d.elemBytes src).map fun c => d.inFmt.decode (Bytes.toNat (cellBytes c))
  let blockOf (e : Nat) : Nat := if d.vecLay then e / 2048 * 64 + e % 64 else e / 32
  (List.range (32 * d.blocks)).map fun e =>
    let k := scales.getD (blockOf e) (0, false)
    (Bytes.byte (convScaled d.outFmt k.1.toNat (vals.getD e (.num false 0 0))), k.2)

/-- What an execution came to. -/
inductive SpuEnd where
  | none | rejected (work : BitVec 16) (code : Nat) | ran (work : BitVec 16) (poisoned : Bool)
  deriving DecidableEq, Repr

/-- Take the next queued descriptor and run its two passes (R65, R66, R68). DESIGN CHOICE (log 81): a descriptor whose own bytes read
poisoned is executed as it reads. -/
def spuExecute (s : State) (m : Nat) (x : Env) : SpuEnd × State :=
  let u := s.spu m
  if u.en = false ∨ u.running.isSome then (.none, s)
  else
    match u.queue with
    | [] => (.none, s)
    | a :: rest =>
      let s := s.modSpu m fun u => { u with queue := rest }
      let work := s.workAt a.toNat
      if !s.reachDesc work a.toNat then (.rejected work 1, s.spuReject m 1 a)
      else
        let (cs, s) := (s.withEnv x).load x (s.regionsOf work) a.toNat 32
        let (d, rsv) := spuDescOf a.toNat (cellBytes cs)
        let code := s.spuCheck work d rsv
        if code ≠ 0 then (.rejected work code, s.spuReject m code a)
        else
          let n := 32 * d.blocks * d.elemBytes
          let (src, s) := s.load x (s.regionsOf work) d.src n
          let scales := spuScales d src
          let bad := (scales.filter Prod.snd).length
          let s := s.store (s.regionsOf work) d.sdst scales
          let (again, s) := s.load { x with ecc := [] } (s.regionsOf work) d.src n
          let s := s.store (s.regionsOf work) d.dst (spuElements d scales again)
          let s := s.modSpu m fun u =>
            { u with
              running := some d
              blocks := Word.satAdd u.blocks d.blocks
              poison := u.poison || decide (0 < bad)
              poisonCnt := Word.satAdd u.poisonCnt bad }
          let s := if 0 < bad then s.occur (regKey 4 m 8) 18 else s
          (.ran work (decide (0 < bad)), s)

/-- Every output of the running descriptor is visible (R67, R68): it completes and posts. -/
def spuFinish (s : State) (m : Nat) : State :=
  match (s.spu m).running with
  | none => s
  | some d =>
    let s := ((s.modSpu m fun u => { u with running := none, done := true, doneCnt := Word.satInc u.doneCnt }).occur
      (regKey 4 m 8) 16).pulse (0x0E0 + m)
    if d.pcore = 0xFF then s else s.unitPost d.pcore.toNat d.psem 1

/-- A write to SPU_SUBMIT (R68). -/
def spuSubmit (s : State) (m : Nat) (a : Addr) : State :=
  if 8 ≤ (s.spu m).queue.length then s.spuReject m 5 a else s.modSpu m fun u => { u with queue := u.queue ++ [a] }

end State

/-! ## Meanings -/

/-- SPU_SUBMIT (R68). -/
def execSpuSubmit (m : MemId) (addr : Addr) (s : State) : Host.Outcome State Fault Refusal := .next (s.spuSubmit m.val addr)

end Sys2Proof.Machine
end

