-- ==== Sys2Proof/Machine/StepRows.lean ====
section
/-!
DEFINITION. The rows of the training step, the scale-pass units, the Separators and the Almanac (chapters 2 to 4). A row whose event
cannot come about in the state leaves it as it is.
-/
namespace Sys2Proof.Machine
namespace State

/-! ## Which commands of a job run (R294, R296, R300) -/

/-- Run a command on the training job that its JOB names: NOT_FOUND without one, WRONG_QUEUE for a command that belongs to the job's
queue and came by another, STOPPED for one in the stream of a stopped job. -/
def withJob (s : State) (q : Nat) (f : Flight) (bound : Bool) (body : Job → State) : State :=
  match s.job? f.job with
  | none => s.refuse q f Status.notFound 6
  | some j =>
    if bound && j.queue.val != q then s.refuse q f Status.wrongQueue j.queue.val
    else if j.stopped && !f.started && j.queue.val == q then s.refuse q f Status.stopped 0
    else body j

/-- Run a command on the work that its JOB names, a group or a job: NOT_FOUND without it, STOPPED in the stream of a stopped job. -/
def withWork (s : State) (q : Nat) (f : Flight) (body : BitVec 16 → State) : State :=
  if f.job.toNat < 0xFF then
    (if (s.group? (f.job.setWidth 8)).isSome then body f.job else s.refuse q f Status.notFound 6)
  else s.withJob q f false fun j => body j.id

/-- A FIX of the job has started and its record is not written, so that no STEP_SUBMIT, RESHARD or RESTORE after it starts (R311, R331). -/
def fixOpen (s : State) (j : Job) : Bool :=
  let h := s.queue j.queue.val
  (h.flights.any fun f => f.started && f.opc == 0x2A && f.job == j.id) || h.waiting.any fun r => r.fix == some j.id

/-! ## Submission of a step (R106 to R110) -/

/-- Whether the stages of Table 3-3 let a job's next step begin: every earlier step has its final verdict, and is over but for its
update under TWO_OLD; its cores are IDLE and its job slot has room for the step; and no RESHARD waits for the collectives of the epoch
(R240). -/
def stepMayBegin (s : State) (j : Job) : Bool :=
  j.steps.all (fun r => r.final.isSome) && decide (j.steps.length < (if j.params.rule = 2 then 2 else 1)) && s.coresIdle j &&
  !s.fixOpen j && !(s.almSlot j.slot.val).pvalid && s.fab.reshard.isNone

/-- The number of a job's next step (R106). -/
def stepNumber (j : Job) : BitVec 64 :=
  BitVec.ofNat 64 (j.steps.foldl (fun m r => max m r.n.toNat) j.train.step.toNat + 1)

/-- Open the gradient collectives of step `n` (R108 stage 5, R113, R233): one for each update descriptor, in the order of the lists. -/
def openGrads (s : State) (j : Job) (n : BitVec 64) : State :=
  let ds := (shardsUp j).flatMap fun sh => sh.descs
  (List.range ds.length).foldl
    (fun s i =>
      match ds[i]? with
      | none => s
      | some d =>
        s.openColl
          { id := 0, job := j.id, op := .allReduce, group := ranked j.replicas, epoch := s.epoch, ifmt := .g16, ofmt := .g16, root := 0,
            stream := j.id + BitVec.ofNat 16 i, n := d.count, src := d.grad, dst := d.grad, grad := some d, step := n, contribs := [],
            arrivals := [], results := Tbl.empty, summed := false, gsq := 0, verdict := false, discard := false, reduced := [], parkedSegs := 0,
            throughput := j.params.throughput != 0, progress := s.ns, tag := none, poisoned := false, contributed := false })
    s

/-- STEP goes into the step parameter line of every core that takes part (R109). -/
def writeStepLines (s : State) (j : Job) (n : BitVec 64) : State :=
  j.streams.foldl
    (fun s c => s.modCore c.core fun k =>
      (k.writeScratch (64 * c.stepLine) (cleanCells (Bytes.ofNat 8 n.toNat))).writeScratch (64 * c.stepLine + 10)
        (cleanCells (Bytes.zeros 54)))
    s

/-- A step begins (R106, R108): it takes the next number, its schedule waits to be placed, its cores start. -/
def stepBegin (s : State) (q : Nat) (f : Flight) (j : Job) : State :=
  let n := stepNumber j
  let micro : BitVec 16 := if f.arg 12 2 = 0 then j.params.micro else BitVec.ofNat 16 (f.arg 12 2)
  let r : StepRun :=
    { n := n, queue := Fin.ofNat 8 q, tag := f.tag, lr := BitVec.ofNat 32 (f.arg 8 4), micro := micro, lsExp := j.train.lsExp,
      gated := false, contributed := false, stage := .passes, cause := none, causeAt := 0, latched := false, sealAt := 0, final := none, seals := [],
      lsq := 0, gsq := 0, poisoned := false, tornDown := false }
  let s := s.modJob j.id fun j =>
    { j with steps := j.steps ++ [r], submitted := true, clearing := false
             toPlace := j.toPlace ++ j.schedule.map fun e => { e with step := n } }
  let s := (s.writeSlotStep j.slot.val n).writeStepLines j n
  let s := (s.openGrads j n).openGate j.id
  let s := j.streams.foldl (fun s c => s.coreStart c.core) s
  s.earlySeals j.id

/-- STEP_SUBMIT (R106, R296, R300): refused at its checks, or the step begins. -/
def stepSubmitCmd (s : State) (x : Env) (q : Nat) (f : Flight) : State :=
  s.withJob q f true fun j =>
    if 4096 < f.arg 12 2 then s.refuse q f Status.invalidField 12
    else if f.arg 16 8 % 64 ≠ 0 then s.refuse q f Status.invalidField 16
    else if 4096 < f.arg 24 4 then s.refuse q f Status.invalidField 24
    else
      match x.hostErr with
      | some e => if f.arg 16 8 ≠ 0 then s.refuse q f Status.hostDmaError e.toNat else s.stepBegin q f j
      | none => (s.withEnv x).stepBegin q f j

/-- STEP_SUBMIT waits until its job's next step may begin. -/
def stepWaits (s : State) (t : Tag) : Bool :=
  match s.flightOf t with
  | none => false
  | some (q, f) =>
    match s.job? f.job with
    | some j => j.queue.val == q && !j.stopped && !s.stepMayBegin j
    | none => false

/-! ## Scale-pass units (R65 to R68) -/

/-- A scale-pass unit executes its next descriptor once a DRAM read slot is free (R172): a rejected one fails its work (R466); a poisoned
source voids a job's step (R112). -/
def spuRow (s : State) (m : Nat) (x : Env) : State :=
  if s.slotsFree [.dram m] = false then s
  else match s.spuExecute m x with
  | (.rejected work code, s) => if work = 0xFFFF then s else s.failWork work none (0x0300 + code)
  | (.ran work true, s) =>
    (match (s.job? work).bind currentStep with
     | some r => s.setVerdict work r.n 0x04
     | none => s)
  | (_, s) => s

/-! ## Separators (R120 to R139) -/

/-- What follows a Separator's move: a rejected descriptor fails the step of its job (R122, R466); a finished list lets the next shard
in (R120). -/
def sepFollow (s : State) (m : Nat) (owner : Option (BitVec 16)) (rejected : Bool) : State :=
  let u := s.sep m
  let s := if u.mode = .idle ∧ u.listLen.toNat ≤ u.descIndex then s.sepEnded m else s
  match owner with
  | some job => if rejected then s.failStep job (some u.step) 0x0201 else s
  | none => s

/-- The job whose shard the Separator of die `m` holds. -/
def sepOwner (s : State) (m : Nat) : Option (BitVec 16) := (s.sepShard m).map fun p => p.1.id

/-- GO (R121, R122, R131). -/
def goRow (s : State) (m : Nat) : State :=
  if (s.sep m).mode = .idle then
    let owner := s.sepOwner m
    let (rej, s) := s.sepGo m
    s.sepFollow m owner rej
  else s

/-- The firmware's GO: a list that is a shard's starts only when the shard may start (R120). -/
def goWhenReady (s : State) (m : Nat) : State :=
  match s.sepShard m with
  | some (j, sh) => if s.shardReady j sh then s.goRow m else s
  | none => s.goRow m

/-- A segment of the Separator's list (R117, R121, R123, R134, R135), once a DRAM read slot is free (R172). A read of its state that meets poison voids the step until its
verdict is latched (R112, R237), and leaves it POISONED afterwards (R117). -/
def segmentRow (s : State) (m : Nat) (x : Env) : State :=
  let owner := s.sepOwner m
  let n := (s.sep m).step
  let sealed : Bool := match owner with
    | some job => (match s.run? job n with | some (_, r) => r.latched | none => true)
    | none => true
  if s.slotsFree [.dram m] = false then s
  else match (s.withEnv x).sepSegment x m sealed with
  | (e, rej, s) =>
    let s := match e, owner with
      | .poisoned, some job => if sealed then s.modRun job n fun r => { r with poisoned := true } else s.setVerdict job n 0x04
      | _, _ => s
    s.sepFollow m owner rej

/-! ## The parking area (R135 to R137) -/

/-- Segments of a job parked on die `m`. -/
def parkedOf (s : State) (m : Nat) (job : BitVec 16) : List Parked := (s.sep m).parked.filter fun p => p.job == job

/-- Parking segments of die `m` (R135): those of every loaded job. -/
def parkCapacity (s : State) (m : Nat) : Nat :=
  (s.jobs.map fun j => (j.params.park.getD m 0).toNat).foldl (· + ·) 0

/-- Whether the parking area of die `m` holds a segment that the Separator can apply next (R137): the one that it is at, when it executes
a flash-tier list of the job; the first of the first flash-tier list of the job's oldest step that is not finished, when it is idle. One
that executes something else comes to the job's list later. -/
def parkDrains (s : State) (m : Nat) (j : Job) : Bool :=
  let u := s.sep m
  match u.mode, u.cur with
  | .idle, _ | _, none =>
    (match j.shards.find? fun sh => sh.die.val == m && flashShard sh && !sh.finished, j.steps.head? with
     | some sh, some r =>
       (s.parkedOf m j.id).any fun k => k.step == r.n && (match sh.descs.head? with | some d => k.pbase == d.pbase | none => false)
     | _, _ => false)
  | _, some d =>
    !d.flash || (match s.sepShard m with | some (o, _) => o.id != j.id | none => true) || (s.parkedFor m d u.segIndex).isSome

/-- Whether a flash-tier gradient of a loaded job is refused room on die `m` (R136): its area is full, and its collective still writes. -/
def parkRefused (s : State) (m : Nat) : Bool :=
  (s.sep m).parkWait &&
  s.jobs.any fun j =>
    decide ((j.params.park.getD m 0).toNat ≤ (s.parkedOf m j.id).length) &&
    s.fab.colls.any fun c => c.job == j.id && !c.discard &&
      (match c.grad with | some d => d.flash && j.shards.any (fun sh => sh.die.val == m && sh.descs.contains d) | none => false)

/-- A collective engine parks the reduced gradient of a segment (R135), or is refused room (R136); a full area that cannot drain voids
the step (R137). -/
def parkSegment (s : State) (m coll seg : Nat) : State :=
  let s := s.startGrads coll
  match s.coll? coll with
  | none => s
  | some c =>
    match c.grad, s.job? c.job with
    | some d, some j =>
      let mine := j.shards.any fun sh => sh.die.val == m && sh.descs.contains d
      if !d.flash || !mine || c.discard || seg != c.parkedSegs || decide (d.segments ≤ seg) || !c.whole s.node ||
          ((s.gradColls c.job c.step).head?.map (·.id)) != some coll then s
      else
        let s := s.gradReduced coll
        match s.coll? coll with
        | none => s
        | some c =>
          if c.discard then s
          else if (s.parkedOf m c.job).length < (j.params.park.getD m 0).toNat then
            let p : Parked :=
              { job := c.job, step := c.step, pbase := d.pbase + BitVec.ofNat 64 (seg * segParams)
                grads := (c.reduced.drop (seg * segParams)).take (d.segLen seg) }
            let s := s.modSep m fun u =>
              { u with parked := u.parked ++ [p], parkWait := false
                       parkPeak := BitVec.ofNat 32 (max u.parkPeak.toNat (u.parked.length + 1)) }
            s.modColl coll fun c => { c with parkedSegs := seg + 1, progress := s.ns }
          else
            let s := s.modSep m fun u => { u with parkWait := true }
            if s.parkDrains m j then s
            else ((s.setVerdict c.job c.step 0x05).sepAbort m).modSep m fun u => { u with parkWait := false }
    | _, _ => s

/-! ## The end of a step (R138 to R142) -/

/-- The job's oldest step commits (R138), sends its digests to the other replicas when an exchange is due (R140), or completes. A step whose
exchange is due commits once no RESHARD waits: the module starts no collective of the epoch then (R240). -/
def commitRow (s : State) (job : BitVec 16) : State :=
  match s.job? job with
  | none => s
  | some j =>
    match j.steps.head? with
    | none => s
    | some r =>
      let exchanges := decide (r.n.toNat % max 1 j.params.digestInt.toNat = 0 ∧ 1 < j.replicas.length)
      if s.commitReady j r && !(exchanges && s.fab.reshard.isSome) then
        let s := s.commitStep job r.n
        if exchanges then
          (s.modRun job r.n fun r => { r with stage := .exchange }).sendDigests j.id r.n
        else ((s.closeApplied job r.n).passesDone job).sepPrepareAll
      else s

/-- The digests of every replica have come (R140, R141): they are compared, and the step completes. -/
def exchangeRow (s : State) (job : BitVec 16) (peers : List PeerDigests) : State :=
  match s.job? job with
  | none => s
  | some j =>
    match j.steps.head? with
    | none => s
    | some r =>
      if r.stage == .exchange && s.peersCover j peers && peers.all (fun p => p.step == r.n) then
        (((s.compareDigests job r.n peers).closeApplied job r.n).passesDone job).sepPrepareAll
      else s

/-! ## The Almanac (R175 to R187) -/

/-- Why an entry fails at an object that it names (Table 8-9): it is FREE, it is read and sealed, or the range is no part of an object of the
map. -/
def objRefused (s : State) (e : AlmEntry) (oid : Nat) (reads : Bool) : Option Nat :=
  match s.obj? oid with
  | none => some 0x0402
  | some o =>
    if reads && s.sealedObj oid o then some 0x0403 else if (s.objectsOf e.job).contains oid && s.spanOk e oid then none else some 0x0401

/-- The firmware places the next entry of a job or group (R175), after the checks of R177: a FREE object fails the step, and so does a
broken rule (DESIGN CHOICE, log 84: as a refused transfer). It places no entry of a later step, which waits, and none of a step or a job
that no slot holds, which it passes over (R178). -/
def placeRow (s : State) (work : BitVec 16) : State :=
  if 4096 ≤ s.alm.table.length then s
  else
    match s.waitingEntries work with
    | [] => s
    | e :: rest =>
      if s.earlyEntry e then s else
      let s := s.setWaiting work rest
      if s.staleEntry e then s else
      let e := s.resolveEntry e
      let free := (e.fromObj && (s.obj? e.src.toNat).isNone) || (e.isBack && (s.obj? e.dst.toNat).isNone)
      if free then s.failWork work (some e.step) 0x0402
      else if !s.entryFits (s.mapOf work).1 (s.objectsOf work) (s.mapOf work).2 e then s.failWork work (some e.step) 0x0401
      else s.putEntryInTable e

/-- Why a launched entry fails (Table 8-9): at its objects, or refused by a mesh stop (R147). -/
def entryRefused (s : State) (e : AlmEntry) : Option Nat :=
  let n := e.len.toNat
  let src :=
    if e.fromObj then s.objRefused e e.src.toNat true
    else if s.permitted e.job e.src.toNat n false then none else some 0x0401
  let dst :=
    if e.isBack then s.objRefused e e.dst.toNat false
    else if s.permitted e.job e.dst.toNat (s.deliverLen e) true && (!e.isPromote || s.oneDram e.dst.toNat (s.deliverLen e)) then none
    else some 0x0401
  match src with
  | some c => some c
  | none => dst

/-- Data that is poisoned has been delivered (R112, R185, R191): the flag and its counter, and a job's step is voided. -/
def poisonedDelivery (s : State) (p : Placed) : State :=
  let s := (s.modAlm fun a => { a with poison := true, poisonCnt := Word.satInc a.poisonCnt }).occur (regKey 7 0 8) 3
  s.setVerdict p.e.job p.e.step (if p.rebuildFailed then 0x03 else 0x04)

/-- The data of a fetch or a promotion reaches DST with its poison (R182, R191); tells whether it is poisoned. The copy of an object that
the promotion made PROMOTING becomes RESIDENT, and the commands that wait for it complete. DESIGN CHOICE (log 97): the promotion of an
object that is RESIDENT elsewhere writes nothing at DST and is notified. -/
def deliverData (s : State) (e : AlmEntry) (x : Env) : Bool × State :=
  let o := s.obj? e.src.toNat
  if e.isPromote && (match o with | some o => o.mode == .promoting | none => false) then
    let tags := match o with | some o => o.promoteTags | none => []
    let (bad, s) := s.finishPromotion x e.src.toNat true
    let at_ : Nat := match s.obj? e.src.toNat with | some o => o.resident.getD 0 | none => 0
    (bad, if bad then s.finishTags tags Status.poisoned 0 else s.finishTags tags Status.ok (BitVec.ofNat 64 at_))
  else if e.isPromote && (match o with | some o => o.mode != .poisoned | none => true) then (false, s)
  else
    let (cs, s) := s.entryCells x e
    (anyPoison cs, s.store (s.regionsOf e.job) (if e.isPromote then allocView e.dst.toNat else e.dst.toNat) cs)

/-- Every byte of a launched entry is visible (R134, R182): its notification is made and it retires; then a late or poisoned delivery is
reported (R182, R191). An entry of a WRITING object waits (R327). -/
def deliverRow (s : State) (id : Nat) (x : Env) : State :=
  match s.alm.table.find? fun p => p.id == id && p.launched && !p.cancelled with
  | none => s
  | some p =>
    let e := p.e
    match s.entryRefused e with
    | some code =>
      ((if e.isPromote then s.cancelPromotion e else s).retireEntry p).failWork e.job (some e.step) code
    | none =>
      if !s.objectReady e then s
      else if e.isBack then
        if s.flashReady e.offset.toNat e.len.toNat then
          let (bad, s) := s.writeBack x e true
          let s := s.retireEntry p
          if bad then s.poisonedDelivery p else s
        else s
      else
        let late := match s.stepClock e.job e.step with
          | some c => decide (e.deadline.toNat < c)
          | none => false
        let (bad, s) := (s.withEnv x).deliverData e x
        let s := if e.notify = 2 then
            s.modSep (allocView e.dst.toNat / dieSpan) fun u =>
              { u with staged := u.staged ++ [{ oid := e.src.toNat, offset := e.offset.toNat, len := e.len.toNat
                                                dst := allocView e.dst.toNat, written := false, step := e.step, credit := e.gate == 2 }] }
          else s
        let s := if e.notify = 1 then s.unitPost e.fullCore.toNat e.fullSem 1 else s
        let s := s.retireEntry p
        let s := if late then
            (s.modAlm fun a => { a with late := true, lateCnt := Word.satInc a.lateCnt }).occur (regKey 7 0 8) 1
          else s
        let s := if late && e.dlReport then s.almanacReport e else s
        if bad then s.poisonedDelivery p else s

/-- A write to ALM_CANCEL_STEP (R186). -/
def cancelStepWrite (s : State) (step : BitVec 64) : State :=
  s.cancelEntries s.alm.cancelJob (if step = 0xFFFFFFFFFFFFFFFF then none else some step)

/-- ALM_USED.PEAK is read: it becomes USED (R8). -/
def almPeakRead (s : State) : State := s.modAlm fun a => { a with peak := BitVec.ofNat 13 a.table.length }

/-- SEP_PARK_PEAK is read: it becomes the current value (R8). -/
def parkPeakRead (s : State) (m : Nat) : State := s.modSep m fun u => { u with parkPeak := BitVec.ofNat 32 u.parked.length }

end State

/-! ## Meanings -/

/-- SCALE_PASS_EXECUTE (R65 to R68). -/
def execScalePassExecute (m : MemId) (x : Env) (s : State) : Host.Outcome State Fault Refusal := .next (s.react (s.spuRow m.val x))

/-- SCALE_PASS_DONE (R67, R68). -/
def execScalePassDone (m : MemId) (s : State) : Host.Outcome State Fault Refusal := .next (s.react (s.spuFinish m.val))

/-- STEP_SUBMIT (R106 to R110). -/
def execStepSubmit (t : Tag) (x : Env) (s : State) : Host.Outcome State Fault Refusal :=
  if s.stepWaits t then .next s
  else .next (s.react (s.runCmd t 0x24 true fun s => s.stepSubmitCmd x))

/-- SEAL_COMPLETE (R114, R115, R118, R235, R243). -/
def execSealComplete (job : BitVec 16) (s : State) : Host.Outcome State Fault Refusal :=
  .next (s.react ((s.sealDone job).passesDone job))

/-- GO (R120, R121). -/
def execGo (m : MemId) (s : State) : Host.Outcome State Fault Refusal := .next (s.react (s.goWhenReady m.val))

/-- ABORT (R131). -/
def execAbort (m : MemId) (s : State) : Host.Outcome State Fault Refusal := .next (s.sepAbort m.val)

/-- SEP_SEGMENT (R121). -/
def execSepSegment (m : MemId) (x : Env) (s : State) : Host.Outcome State Fault Refusal := .next (s.react (s.segmentRow m.val x))

/-- GRADIENT_PARK (R135 to R137). -/
def execGradientPark (m : MemId) (coll : Nat) (seg : Nat) (s : State) : Host.Outcome State Fault Refusal :=
  if (match s.coll? coll with | some c => s.stoppedFor c | none => true) then .next s else .next (s.react (s.parkSegment m.val coll seg))

/-- STEP_COMMIT (R138). -/
def execStepCommit (job : BitVec 16) (s : State) : Host.Outcome State Fault Refusal := .next (s.react (s.commitRow job))

/-- DIGEST_EXCHANGE_DONE (R140, R141). -/
def execDigestExchangeDone (job : BitVec 16) (peers : List PeerDigests) (s : State) : Host.Outcome State Fault Refusal :=
  .next (s.react (s.exchangeRow job peers))

/-- ALMANAC_PLACE (R175, R183). -/
def execAlmanacPlace (job : BitVec 16) (s : State) : Host.Outcome State Fault Refusal := .next (s.placeRow job)

/-- ALM_SLOT_STEP (R178). -/
def execAlmSlotStep (j : Fin 8) (step : BitVec 64) (s : State) : Host.Outcome State Fault Refusal :=
  .next (s.react (s.writeSlotStep j.val step))

/-- ALMANAC_LAUNCH (R180, R181). -/
def execAlmanacLaunch (id : Nat) (s : State) : Host.Outcome State Fault Refusal := .next (s.react (s.launchEntry id))

/-- ALMANAC_DELIVERY (R182). -/
def execAlmanacDelivery (id : Nat) (x : Env) (s : State) : Host.Outcome State Fault Refusal := .next (s.react (s.deliverRow id x))

/-- ALM_CANCEL_STEP (R186). -/
def execAlmCancelStep (step : BitVec 64) (s : State) : Host.Outcome State Fault Refusal := .next (s.react (s.cancelStepWrite step))

/-- CANCEL_COMPLETE (R187). -/
def execCancelComplete (s : State) : Host.Outcome State Fault Refusal :=
  if s.alm.cancelling then .next (s.react s.cancelDone) else .next s

/-- ALM_USED_READ (R8): PEAK and USED; the read resets PEAK to USED. -/
def execAlmUsedRead (s : State) : Host.Outcome State Fault Refusal :=
  .next (s.emit (.value (BitVec.ofNat 64 (s.alm.table.length + s.alm.peak.toNat * 65536)))).almPeakRead

/-- SEP_PARK_PEAK_READ (R8): the largest SEGMENTS since the last read; the read resets it to the current value. -/
def execSepParkPeakRead (m : MemId) (s : State) : Host.Outcome State Fault Refusal :=
  .next ((s.emit (.value ((s.sep m.val).parkPeak.setWidth 64))).parkPeakRead m.val)

end Sys2Proof.Machine
end

