-- ==== Sys2Proof/Machine/FabricRows.lean ====
section
/-!
DEFINITION. The rows of the fabric beyond the ports (chapter 5): frames that carry data or news of an epoch, collectives, reshard,
multicast, pipeline queues, and the host's PORT command.
-/
namespace Sys2Proof.Machine
namespace State

/-! ## Frames at their destination (R239 to R242) -/

/-- A frame of the current epoch takes effect; another is discarded and counted (R242). -/
def inEpoch (s : State) (p : Nat) (f : Frame) (act : State → State) : State :=
  if f.epoch = s.epoch then act s else s.staleDrop p

/-- A COLL or SEAL frame of another epoch is discarded; one of an abandoned epoch is answered STALE (R241, R242). -/
def inEpochOrStale (s : State) (p : Nat) (f : Frame) (act : State → State) : State :=
  if f.epoch ≠ s.epoch ∧ s.fab.abandoned.contains f.epoch = true then (s.staleDrop p).sendCtrl f.src 0x09 f.stream f.epoch
  else s.inEpoch p f act

/-- A control message of one operation (Table 5-5). -/
def control (s : State) (p : Nat) (op : BitVec 8) (f : Frame) (act : State → State) : State :=
  s.receive p 3 f fun s => if f.op = op then s.deliver p f act else s

/-- A frame of a type that only its destination takes. -/
def arriving (s : State) (p : Nat) (type : BitVec 4) (f : Frame) (act : State → State) : State :=
  s.receive p type f fun s => s.deliver p f act

/-- A stream credit for a stream that this module has not begun waits for it (R245). -/
def streamCreditIn (s : State) (f : Frame) : State :=
  match s.stream? f.stream with
  | some _ => s.mcCredit f
  | none => s.modFab fun b => { b with early := b.early ++ [f] }

/-- A COLL frame reaches its collective, or waits for it to begin (R228, R234). -/
def collIn (s : State) (f : Frame) : State :=
  match s.fab.colls.find? fun c => frameFits f c with
  | some c => s.takeColl c f
  | none => s.modFab fun b => { b with early := b.early ++ [f] }

/-- A remote post of a peer's engine (Table 5-4, POST): core, semaphore and count stand in the first bytes of its payload. -/
def postIn (s : State) (f : Frame) : State :=
  let core := Bytes.field f.payload 0 1
  if core < 176 then s.unitPost core (BitVec.ofNat 6 (Bytes.field f.payload 1 1)) (Bytes.field f.payload 2 2) else s

/-- A queue credit returns to the producer engine, which sends the entry that waits for it (R250). -/
def queueCreditIn (s : State) (f : Frame) : State :=
  let s := s.modPipe f.stream fun q =>
    if q.rec_.pNode == s.node && q.rec_.cNode == f.src then { q with credits := q.credits + 1, progress := s.ns } else q
  if s.fab.queues.any fun q => q.rec_.qid == f.stream && q.ready then s.sendEntry f.stream else s

/-! ## COLLECTIVE (R226 to R229, R244, R299) -/

/-- Operation of an OP code (Table 5-7). -/
def collOpOf : Nat → Option CollOp
  | 0x10 => some .reduceScatter
  | 0x11 => some .allGather
  | 0x12 => some .allReduce
  | 0x13 => some .broadcast
  | 0x14 => some .multicast
  | _ => none

/-- Bytes of a buffer of `n` elements. -/
def bufBytes (f : ElFmt) (n : Nat) : Nat := rangesLen (elRanges f n 0 n)

/-- Bytes that a member of rank `r` reads at SRC and writes at DST. -/
def collSpans (c : Coll) (r : Nat) : Nat × Nat :=
  if c.op = .multicast then (if r = c.root then (bufBytes c.ifmt c.n, 0) else (0, bufBytes c.ofmt c.n))
  else (rangesLen (c.inRanges r), rangesLen (c.outRanges r))

/-- COLLECTIVE (R227 to R229, R244, R299). -/
def collectiveCmd (s : State) (x : Env) (q : Nat) (f : Flight) : State :=
  s.withJob q f false fun j =>
    match collOpOf (f.arg 8 1), j.groups.find? (f.arg 9 1), elFmtOf (f.arg 10 1 % 8), elFmtOf (f.arg 10 1 / 16 % 8) with
    | none, _, _, _ => s.refuse q f Status.invalidField 8
    | _, none, _, _ => s.refuse q f Status.invalidField 9
    | some _, some _, none, _ => s.refuse q f Status.invalidField 10
    | some _, some _, _, none => s.refuse q f Status.invalidField 10
    | some op, some group, some ifmt, some ofmt =>
      let cap := if f.arg 40 4 = 0 then 256 else f.arg 40 4
      let c : Coll :=
        { id := 0, job := j.id, op := op, group := group, epoch := s.epoch, ifmt := ifmt, ofmt := ofmt, root := f.arg 12 2,
          stream := BitVec.ofNat 16 (f.arg 14 2), n := f.arg 16 8, src := f.arg 24 6, dst := f.arg 32 6, grad := none, step := 0,
          contribs := [], arrivals := [], results := Tbl.empty, summed := false, gsq := 0, verdict := s.jobVerdict j.id, discard := false, reduced := [], parkedSegs := 0,
          throughput := j.params.throughput != 0, progress := s.ns, tag := some (Fin.ofNat 8 q, f.tag), poisoned := false,
          contributed := op == .multicast }
      let spans := collSpans c (c.rank s.node)
      if !group.contains s.node then s.refuse q f Status.invalidField 9
      else if (if reduces op then !(ifmt.reducible && ofmt.reducible) else ifmt != ofmt) then s.refuse q f Status.invalidField 10
      else if (op = .broadcast ∨ op = .multicast) ∧ group.length ≤ c.root then s.refuse q f Status.invalidField 12
      else if op = .multicast ∧ (cap < 16 ∨ 4096 < cap) then s.refuse q f Status.invalidField 40
      else if 0 < spans.1 ∧ s.permitted j.id c.src spans.1 false = false then s.refuse q f Status.mapViolation 24
      else if 0 < spans.2 ∧ s.permitted j.id c.dst spans.2 true = false then s.refuse q f Status.mapViolation 32
      else
        let s := s.withEnv x
        let id := s.fab.collNext
        let s := s.openColl c
        if op = .multicast then s.openStream c (cap * 0x100000) (bufBytes ifmt c.n) none
        else
          s.takeShare x id

/-! ## RESHARD (R239 to R241) -/

/-- Whether a layout may be loaded on this module: in range, up to 256 groups of 1 to 4,096 members (R227), and every group lists it
(Table 7-15). -/
def layoutFits (s : State) (b : List Byte) : Bool :=
  let gs := Config.layoutGroups b
  Config.layoutOk b && decide (gs.length ≤ 256) &&
  gs.all fun g => decide (g.1 < 256 ∧ 1 ≤ (ranked g.2).length ∧ (ranked g.2).length ≤ 4096) && g.2.contains s.node

/-- Run a RESHARD whose layout is in host memory. -/
def reshardCmd (s : State) (abandon : Bool) (x : Env) (q : Nat) (f : Flight) : State :=
  s.withJob q f false fun j =>
    if f.arg 16 8 % 64 ≠ 0 then s.refuse q f Status.invalidField 16
    else
      let s := s.withEnv x
      let b := s.hostBytes (f.arg 16 8) (f.arg 24 4)
      if !s.layoutFits b then s.refuse q f Status.imageInvalid 0x09FF
      else if abandon then
        let old := s.epoch
        let s := ((s.abandonEpoch fun _ => true).modFab fun a =>
          { a with abandoned := a.abandoned.filter (fun e => e != old) ++ [old] }).loadLayout j.id b
        let s := (s.enterEpoch (old + 1)).unusedPorts
        (s.finishOk q f ((old + 1).setWidth 32) 0).reshardNow
      else (s.modFab fun a => { a with reshard := some (Fin.ofNat 8 q, f.tag, b) }).reshardNow

/-- Whether the RESHARD of a tag must wait: another waits, or a FIX of its job is open (R331). -/
def reshardWaits (s : State) (t : Tag) : Bool :=
  s.fab.reshard.isSome ||
  match s.flightOf t with
  | some (_, f) => (match s.job? f.job with | some j => s.fixOpen j | none => false)
  | none => false

/-- Whether the command of a tag has a bit of argument byte 8 set. -/
def argBit (s : State) (t : Tag) (i : Nat) : Bool :=
  match s.flightOf t with
  | some (_, f) => Bytes.bit (f.arg 8 1) i
  | none => false

/-! ## MCAST_REJOIN (R247) -/

/-- The branch of a removed receiver takes the stream again from its head, with the credits that the receiver has granted. -/
def rejoinCmd (s : State) (q : Nat) (f : Flight) : State :=
  s.withJob q f false fun _ =>
    match s.stream? (BitVec.ofNat 16 (f.arg 8 2)) with
    | none => s.refuse q f Status.notFound 8
    | some k =>
      match k.branches.find? fun b => b.gone && b.nodes.contains (BitVec.ofNat 12 (f.arg 10 2)) && decide (f.arg 10 2 < 4096) with
      | none => s.refuse q f Status.notFound 10
      | some b =>
        let s := s.modStream k.stream fun k =>
          { k with branches := k.branches.map fun c =>
              if c.nodes == b.nodes then { c with gone := false, lagging := false, pos := k.head } else c }
        s.finishOk q f 0 (BitVec.ofNat 64 k.head)

/-! ## PORT (Table 7-8) -/

/-- A collective in flight has a member behind port `p`. -/
def carriesColl (s : State) (p : Nat) : Bool := s.fab.colls.any fun c => c.contributed && c.group.any (s.viaPort p)

/-- PORT: take a port OUT with cause HOST, or retrain an UP port. -/
def portCmd (s : State) (q : Nat) (f : Flight) : State :=
  let p := f.arg 8 1
  if 8 ≤ p then s.refuse q f Status.invalidField 8
  else if 1 < f.arg 9 1 then s.refuse q f Status.invalidField 9
  else if s.carriesColl p then s.refuse q f Status.inUse 8
  else
    let s :=
      if f.arg 9 1 = 0 then (s.portOut p 0x8).portLost p
      else if (s.port p).mode = .up then s.portRetrain p false
      else s
    s.finishOk q f (BitVec.ofNat 32 (portState (s.port p))) 0

/-- Whether the PORT command of a tag asks for an action. -/
def portAction (s : State) (t : Tag) (a : Nat) : Bool :=
  match s.flightOf t with
  | some (_, f) => f.arg 9 1 == a || (a == 0 && decide (1 < f.arg 9 1))
  | none => false

end State

/-! ## Meanings -/

/-- RETRAIN_TIMEOUT: 100 ms in RETRAIN (R209). -/
def execRetrainTimeout (p : PortId) (s : State) : Host.Outcome State Fault Refusal :=
  if (s.port p.val).mode = .retrain ∧ (s.port p.val).since + 100000000 ≤ s.ns then
    .next (s.react ((s.portDark p.val).portLost p.val))
  else .next s

/-- CREDIT (R214, R245). -/
def execCredit (p : PortId) (f : Frame) (s : State) : Host.Outcome State Fault Refusal :=
  .next (s.react (s.receive p.val 2 f fun s =>
    if f.streamCredit then s.deliver p.val f fun s => s.inEpoch p.val f fun s => s.streamCreditIn f else s))

/-- STALE (R241): collectives of the current epoch with the sender complete VOIDED, and their steps are voided. -/
def execStale (p : PortId) (f : Frame) (s : State) : Host.Outcome State Fault Refusal :=
  .next (s.react (s.control p.val 0x09 f fun s =>
    s.inEpoch p.val f fun s => (s.abandonEpoch fun g => g.contains f.src).reshardNow))

/-- REMOVED (R246). -/
def execRemoved (p : PortId) (f : Frame) (s : State) : Host.Outcome State Fault Refusal :=
  .next (s.react (s.control p.val 0x0B f fun s => s.inEpoch p.val f fun s => s.mcRemoved f))

/-- QCREDIT (R250). -/
def execQcredit (p : PortId) (f : Frame) (s : State) : Host.Outcome State Fault Refusal :=
  .next (s.react (s.control p.val 0x0C f fun s => s.inEpoch p.val f fun s => s.queueCreditIn f))

/-- DATA (R250). -/
def execData (p : PortId) (f : Frame) (s : State) : Host.Outcome State Fault Refusal :=
  .next (s.react (s.arriving p.val 4 f fun s => s.inEpoch p.val f fun s => s.entryArrives f))

/-- POST (R211). -/
def execPostFrame (p : PortId) (f : Frame) (s : State) : Host.Outcome State Fault Refusal :=
  .next (s.react (s.arriving p.val 5 f fun s => s.inEpoch p.val f fun s => s.postIn f))

/-- COLL (R228, R234). -/
def execColl (p : PortId) (f : Frame) (s : State) : Host.Outcome State Fault Refusal :=
  .next (s.react (s.arriving p.val 6 f fun s => s.inEpochOrStale p.val f fun s => s.collIn f))

/-- SEAL (R235). -/
def execSealFrame (p : PortId) (f : Frame) (s : State) : Host.Outcome State Fault Refusal :=
  .next (s.react (s.arriving p.val 7 f fun s => s.inEpochOrStale p.val f fun s => s.sealArrives p.val f))

/-- MCAST (R244). -/
def execMcast (p : PortId) (f : Frame) (s : State) : Host.Outcome State Fault Refusal :=
  .next (s.react (s.arriving p.val 8 f fun s => s.inEpoch p.val f fun s => s.mcArrives f))

/-- COLLECTIVE (R228): none starts while a RESHARD waits (R240). -/
def execCollective (t : Tag) (x : Env) (s : State) : Host.Outcome State Fault Refusal :=
  if s.fab.reshard.isSome then .next s else .next (s.runCmd t 0x27 false fun s => s.collectiveCmd x)

/-- COLLECTIVE_DONE (R228, R233). -/
def execCollectiveDone (id : Nat) (s : State) : Host.Outcome State Fault Refusal := .next (s.react (s.collDone id))

/-- COLL_TIMEOUT (R238). -/
def execCollTimeout (id : Nat) (s : State) : Host.Outcome State Fault Refusal := .next (s.react (s.collTimesOut id))

/-- RESHARD (R240). -/
def execReshard (t : Tag) (x : Env) (s : State) : Host.Outcome State Fault Refusal :=
  if s.argBit t 0 || s.reshardWaits t then .next s
  else .next (s.react (s.runHostCmd t 0x29 x fun s => s.reshardCmd false x))

/-- RESHARD with ABANDON (R241). -/
def execReshardAbandon (t : Tag) (x : Env) (s : State) : Host.Outcome State Fault Refusal :=
  if !s.argBit t 0 || (match s.flightOf t with
      | some (_, f) => (match s.job? f.job with | some j => s.fixOpen j | none => false)
      | none => false) then .next s
  else .next (s.react (s.runHostCmd t 0x29 x fun s => s.reshardCmd true x))

/-- MC_HOLD_EXPIRE (R245). -/
def execMcHoldExpire (stream : BitVec 16) (p : PortId) (s : State) : Host.Outcome State Fault Refusal :=
  .next (s.mcHoldOver stream p.val)

/-- MCAST_REJOIN (R247). -/
def execMcastRejoin (t : Tag) (s : State) : Host.Outcome State Fault Refusal := .next (s.runCmd t 0x28 false State.rejoinCmd)

/-- QUEUE_ENTRY_SEND (R250). -/
def execQueueEntrySend (qid : BitVec 16) (s : State) : Host.Outcome State Fault Refusal := .next (s.react (s.sendEntry qid))

/-- PORT, ACTION 0 (R203): the port goes OUT with cause HOST. -/
def execPortTakeOut (t : Tag) (s : State) : Host.Outcome State Fault Refusal :=
  if s.portAction t 0 then .next (s.react (s.runCmd t 0x06 false State.portCmd)) else .next s

/-- PORT, ACTION 1 (R203): an UP port retrains. -/
def execPortRetrain (t : Tag) (s : State) : Host.Outcome State Fault Refusal :=
  if s.portAction t 1 then .next (s.react (s.runCmd t 0x06 false State.portCmd)) else .next s

end Sys2Proof.Machine
end

