-- ==== Sys2Proof/Machine/Jobs.lean ====
section
/-!
DEFINITION. The job image and the commands that load, map, stop and unload work (R303 to R309, R270, R271, R300): the container and its
checks, the firmware's work at a load, and serving groups.
-/
namespace Sys2Proof.Machine

/-! ## The container (R303, Tables 7-13, 7-14) -/

/-- An entry of the section table, with its index. -/
structure Sect where
  idx  : Nat
  type : Nat
  count : Nat
  off  : Nat
  len  : Nat
  rsv  : Bool
  deriving DecidableEq, Repr

/-- The section table of an image. -/
def sectionsOf (b : List Byte) : List Sect :=
  (List.range (Bytes.field b 6 2)).map fun i =>
    let o := 256 + 32 * i
    { idx := i, type := Bytes.field b o 2, count := Bytes.field b (o + 4) 4, off := Bytes.field b (o + 8) 8,
      len := Bytes.field b (o + 16) 8, rsv := Bytes.field b (o + 2) 2 == 0 && Bytes.field b (o + 24) 8 == 0 }

/-- The first section of a type. -/
def sect? (ss : List Sect) (type : Nat) : Option Sect := ss.find? fun x => x.type == type

/-- The bytes of a section. -/
def sectBytes (b : List Byte) (x : Option Sect) : List Byte :=
  match x with
  | some x => Bytes.slice b x.off x.len
  | none => []

/-- Bytes of a record of a section, where its records have one size. -/
def recordSize : Nat → Nat
  | 0x01 => 128 | 0x03 => 32 | 0x06 => 128 | 0x07 => 64 | 0x08 => 32 | 0x0A => 64 | 0x0E => 16 | 0x7F => 128 | _ => 0

/-- The records of a section. -/
def records (b : List Byte) (ss : List Sect) (type : Nat) : List (List Byte) :=
  match sect? ss type with
  | some x => (List.range x.count).map fun i => Bytes.slice b (x.off + recordSize type * i) (recordSize type)
  | none => []

/-- Whether a section entry is in bounds. -/
def sectOk (n total : Nat) (x : Sect) : Bool :=
  x.off % 64 == 0 && decide (256 + 32 * n ≤ x.off) && decide (x.off + x.len ≤ total) && decide (x.count * recordSize x.type ≤ x.len)

/-- Whether two sections overlap. -/
def sectsMeet (x y : Sect) : Bool := x.idx != y.idx && decide (x.off < y.off + y.len ∧ y.off < x.off + x.len)

/-- An error of an image: its code in bits 15:8 and the section's index, 0xFF where none is at fault. -/
def imageError (code : Nat) (x : Option Sect) : Nat := code * 256 + (match x with | some x => x.idx % 256 | none => 0xFF)

/-- An entry names a core: to take its gate from, or to notify (Table 4-4). -/
def namesCore (e : AlmEntry) : Bool := e.gate == 1 || e.notify == 1

/-- Sections that an image of a kind must hold (Table 7-14): a training image with QUEUES has pipeline stages, and a serving image whose
schedule names a core to gate or to notify has RELOCS. -/
def needed (b : List Byte) (ss : List Sect) (kind : Nat) : List Nat :=
  if kind = 0 then [0x01, 0x02, 0x03, 0x04, 0x05, 0x06, 0x07] ++ (if (sect? ss 0x0A).isSome then [0x0B] else [])
  else [0x0C] ++ (if (records b ss 0x07).any fun r => namesCore (almEntryOf r) then [0x0E] else [])

/-- The checks of the container (Table 7-15, codes 0x01, 0x02, 0x0D); `len` is LEN of the command. -/
def containerError (b : List Byte) (len : Nat) : Option Nat :=
  let f (o n : Nat) := Bytes.field b o n
  let ss := sectionsOf b
  let kind := f 16 1
  if b.length < 256 ∨ f 0 4 ≠ 0x4E524F46 ∨ f 4 2 ≠ 1 ∨ f 8 8 ≠ len ∨ f 6 2 = 0 ∨ 64 < f 6 2 ∨ b.length < 256 + 32 * f 6 2 then
    some (imageError 0x01 none)
  else if 1 < kind ∨ (kind = 1 ∧ (f 20 4 = 0 ∨ 22 < f 20 4)) then some (imageError 0x0D none)
  else if 1 < f 17 1 ∨ f 18 2 ≠ 0 ∨ (Bytes.slice b 32 224).any (· != 0) then some (imageError 0x02 none)
  else
    match ss.find? fun x => !x.rsv with
    | some x => some (imageError 0x02 (some x))
    | none =>
      match ss.find? fun x => !sectOk ss.length len x || ss.any (sectsMeet x) with
      | some x => some (imageError 0x01 (some x))
      | none =>
        let need : List Nat := needed b ss kind ++ (if f 17 1 = 1 then [0x7F] else [])
        if need.any fun t => (sect? ss t).isNone then some (imageError 0x01 none)
        else if f 17 1 = 1 ∧ ((ss.getLast?).map (·.type)) ≠ some 0x7F then some (imageError 0x01 (sect? ss 0x7F))
        else if kind = 0 ∧ (sect? ss 0x0E).isSome = true then some (imageError 0x0D (sect? ss 0x0E))
        else if (records b ss 0x7F).any fun r => (Bytes.slice r 96 32).any (· != 0) then some (imageError 0x02 (sect? ss 0x7F))
        else none

/-! ## Records -/

/-- The PARAMS record (Table 7-16). -/
def paramsOf (b : List Byte) : Params :=
  let f (o n : Nat) := Bytes.field b o n
  { eInit := BitVec.ofNat 8 (f 0 1), eMin := BitVec.ofNat 8 (f 1 1), eMax := BitVec.ofNat 8 (f 2 1), rule := BitVec.ofNat 8 (f 3 1),
    growth := BitVec.ofNat 32 (f 4 4), stallLim := BitVec.ofNat 16 (f 8 2), digestInt := BitVec.ofNat 16 (f 10 2),
    throughput := BitVec.ofNat 8 (f 12 1), partials := BitVec.ofNat 8 (f 13 1), gateSem := BitVec.ofNat 8 (f 14 1),
    clip := BitVec.ofNat 64 (f 16 8), seed := BitVec.ofNat 64 (f 24 8), beta1 := BitVec.ofNat 32 (f 32 4),
    beta2 := BitVec.ofNat 32 (f 36 4), tokens := BitVec.ofNat 32 (f 40 4), smooth := BitVec.ofNat 64 (f 48 8),
    micro := BitVec.ofNat 16 (f 56 2), park := [0, 1, 2, 3].map fun m => BitVec.ofNat 32 (f (64 + 4 * m) 4),
    rsvZero := f 15 1 == 0 && f 44 4 == 0 && f 58 6 == 0 && (Bytes.slice b 80 48).all (· == 0) }

/-- 0.999 in binary64. -/
def maxSmooth : Nat := 0x3FEFF7CED916872B

/-- Whether PARAMS is within Tables 3-6 and 7-16; `tiered m` tells that the job has flash-tier state on memory die `m`. -/
def Params.inRange (p : Params) (tiered : Nat → Bool) : Bool :=
  let a := NumFmt.d64.decode p.smooth.toNat
  decide (-64 ≤ p.eInit.toInt ∧ p.eInit.toInt ≤ 63 ∧ -64 ≤ p.eMin.toInt ∧ p.eMin.toInt ≤ p.eInit.toInt ∧ p.eInit.toInt ≤ p.eMax.toInt ∧
    p.eMax.toInt ≤ 63) &&
  decide (p.rule.toNat ≤ 2 ∧ 1 ≤ p.stallLim.toNat ∧ 1 ≤ p.digestInt.toNat ∧ p.throughput.toNat ≤ 1 ∧ p.partials.toNat ≤ 3 ∧
    p.gateSem.toNat ≤ 63 ∧ 1 ≤ p.micro.toNat ∧ p.micro.toNat ≤ 4096) &&
  a.isFinite && Val.le (.num false 0 0) a && Val.le a (NumFmt.d64.decode maxSmooth) &&
  [0, 1, 2, 3].all fun m =>
    let k := (p.park.getD m 0).toNat
    (k == 0 && !tiered m) || decide (2048 ≤ k ∧ k ≤ 524288)

/-- A record of CORE_STREAMS (Table 7-14), with whether its unnamed bytes are zero. -/
def coreStreamOf (b : List Byte) : CoreStream × Bool :=
  let f (o n : Nat) := Bytes.field b o n
  ({ core := f 0 1, startPc := f 4 4, stepLine := f 8 4, loadLine := f 12 4, dataOff := f 16 8, dataLen := f 24 4 },
   f 1 3 == 0 && f 28 4 == 0)

/-- Whether a core's stream is in range: its lines within the scratchpad, its data within the image (Table 7-15, code 0x0A). -/
def CoreStream.inRange (c : CoreStream) (imageLen : Nat) : Bool :=
  decide (c.startPc < 393216 ∧ c.stepLine < 98304 ∧ c.loadLine * 64 + c.dataLen ≤ scratchBytes ∧ c.dataOff + c.dataLen ≤ imageLen ∧
    c.dataLen % 64 = 0)

/-- A pipeline queue record (Table 5-10). -/
def queueRecOf (b : List Byte) : QueueRec :=
  let f (o n : Nat) := Bytes.field b o n
  let sem (o : Nat) : BitVec 6 := BitVec.ofNat 6 (f o 1)
  { qid := BitVec.ofNat 16 (f 0 2), pNode := BitVec.ofNat 12 (f 2 2), cNode := BitVec.ofNat 12 (f 4 2), pCore := BitVec.ofNat 8 (f 6 1),
    cCore := BitVec.ofNat 8 (f 7 1), entry := f 8 4, depth := f 12 2, outDepth := f 14 1, pCredit := sem 15, pReady := sem 16,
    cFull := sem 17, cFree := sem 18, cBase := f 20 6, pBase := f 26 6,
    rsvZero := f 19 1 == 0 && decide (f 2 2 < 4096 ∧ f 4 2 < 4096) && ([15, 16, 17, 18].all fun o => decide (f o 1 < 64)) &&
      (Bytes.slice b 32 32).all (· == 0) }

/-- Whether a queue record is in range (Table 5-10, code 0x08). -/
def QueueRec.inRange (r : QueueRec) : Bool :=
  let one := r.pNode == r.cNode
  decide (r.pCore.toNat < 176 ∧ r.cCore.toNat < 176 ∧ r.entry % 64 = 0 ∧ 64 ≤ r.entry ∧ r.entry ≤ 0x1000000 ∧ 2 ≤ r.depth ∧
    r.cBase % 64 = 0) &&
  (if one then r.outDepth == 0 && r.pReady == 0 && r.pBase == 0 else decide (1 ≤ r.outDepth))

/-- The memory die of a descriptor's shard: that of its DRAM arrays, or of its forward copy or digest. -/
def descDie (d : UpdDesc) : Nat :=
  State.allocView (if !d.flash then d.master else if d.f8En then d.f8dst else d.dgst) / dieSpan % 4

namespace State

/-- The shards of an image's update lists, ascending (R104). -/
def shardsOf (s : State) (slot : Nat) (ds : List UpdDesc) : List Shard :=
  let nums := ds.foldl (fun ns d => if ns.contains d.shard then ns else ns ++ [d.shard]) []
  let blank (n : BitVec 16) : Shard :=
    let mine := ds.filter fun d => d.shard == n
    { num := n, die := Fin.ofNat 4 (descDie (mine.headD (updDescOf []))), listAddr := 0, descs := mine, digest := 0, newDigest := 0,
      diverged := false, repair := none, finished := false }
  let up := (nums.map blank).foldr insertShard []
  (List.range up.length).filterMap fun i =>
    (up[i]?).map fun sh =>
      let before := (up.take i).filter fun t => t.die == sh.die
      { sh with listAddr := s.listBase sh.die.val slot + 128 * (before.map fun t => t.descs.length).foldl (· + ·) 0 }

/-- SEQ rises from entry to entry (R177). -/
def seqRises : List AlmEntry → Bool
  | [] => true
  | [_] => true
  | a :: b :: rest => decide (a.seq.toNat < b.seq.toNat) && seqRises (b :: rest)

/-- Regions that HOST_REGIONS declares. -/
def declaredRegions (b : List Byte) : Tbl Region :=
  (Config.hostRegions b).foldl (fun t r => t.put r.1 { Region.absent with declLen := r.2.1, declPerm := r.2.2 }) Tbl.empty

/-! ## What a load reserves (R156, R307) -/

/-- Spans of DRAM in use on die `m`: maps of loaded work, DRAM-home objects. -/
def usedSpans (s : State) (m : Nat) : List (Nat × Nat) := s.mapSpans m ++ s.homeSpans m

/-- Whether the device area of die `m` fits the die and touches no DRAM in use. -/
def areaFits (s : State) (m : Nat) : Bool :=
  decide (s.areaBytes m ≤ (s.memDie m).capacity) && (s.usedSpans m).all fun p => decide (p.2 ≤ s.areaBase m)

/-- Reserve bytes of the device area of die `m` under a key. -/
def reserve (s : State) (m key n : Nat) : State :=
  if n = 0 then s else s.modMem m fun d => { d with area := d.area ++ [(key, n)] }

/-- Give back what is reserved under a key. -/
def unreserve (s : State) (key : Nat) : State :=
  [0, 1, 2, 3].foldl (fun s m => s.modMem m fun d => { d with area := d.area.filter fun a => a.1 != key }) s

/-- Windows as allocating-view spans on die `m`. -/
def windowSpans (ws : List Window) (m : Nat) : List (Nat × Nat) :=
  ws.filterMap fun w =>
    let a := if w.base < 0x80000000000 then w.base % 0x40000000000 else w.base
    if w.base < 0x80000000000 ∧ a / dieSpan = m then some (a, a + w.len) else none

/-- Why a load's map or areas do not fit (Table 7-7, NO_RESOURCE): 2 the device area, 3 the job's DRAM. `park` gives the bytes that it
reserves on each die. -/
def roomError (s : State) (ws : List Window) (park : Nat → Nat) : Option Nat :=
  let t := [0, 1, 2, 3].foldl (fun s m => s.reserve m 0 (park m)) s
  if [0, 1, 2, 3].any fun m => decide (0 < park m) && !t.areaFits m then some 2
  else if [0, 1, 2, 3].any fun m =>
      (windowSpans ws m).any fun p => t.inArea p.1 (p.2 - p.1) then some 3
  else none

/-- The largest device area of the four memory dies (RESULT1 of JOB_LOAD). -/
def areaMax (s : State) : Nat := ([0, 1, 2, 3].map s.areaBytes).foldl max 0

/-- The lowest Almanac job slot that is free (R271). -/
def freeSlot (s : State) : Option (Fin 8) := (List.finRange 8).find? fun j => !(s.almSlot j.val).valid

/-- Take a job slot. -/
def takeSlot (s : State) (j : Nat) (work : BitVec 16) : State := s.modSlot j fun _ => { AlmSlot.reset with valid := true, job := work }

/-- Free a job slot: entries of its work retire (R178). -/
def dropSlot (s : State) (j : Nat) : State := (s.modSlot j fun _ => AlmSlot.reset).sweepEntries

/-- Whether a compute die is taken (R270, R379). -/
def dieTaken (s : State) (d : Nat) : Bool :=
  !(s.die d).inService || (s.jobOfDie d).isSome || (s.groupOfDie d).isSome

/-- Whether a set of compute dies holds one that is taken. -/
def anyTaken (s : State) (dies : BitVec 22) : Bool := (List.range 22).any fun d => dies.getLsbD d && s.dieTaken d

/-- A core's semaphores and classes at load (R173, R190, R307). -/
def loadSems (s : State) (c : Nat) (vals : List (BitVec 16)) (classes : List (BitVec 64)) : State :=
  s.modCore c fun k => k.modRegs fun r =>
    { r with
      sems := (List.range 64).foldl (fun t i => t.set 0 i (vals.getD i 0)) r.sems
      classes := (List.range 4).foldl (fun t i => t.set 0 i (classes.getD i 0)) r.classes }

/-- A core's data and START_PC at load (R307). -/
def loadStream (s : State) (b : List Byte) (c : CoreStream) : State :=
  s.modCore c.core fun k =>
    (k.writeScratch (64 * c.loadLine) (cleanCells (Bytes.slice b c.dataOff c.dataLen))).modRegs fun r =>
      { r with startPc := BitVec.ofNat 19 c.startPc }

/-- Give a semaphore of a core a class code (Table 4-13). -/
def setClass (s : State) (c : Nat) (sem : BitVec 6) (code : Nat) : State :=
  s.modCore c fun k => k.modRegs fun r =>
    let w := (r.classes.get 0 (sem.toNat / 16)).toNat
    let sh := 2 ^ (4 * (sem.toNat % 16))
    { r with classes := r.classes.set 0 (sem.toNat / 16) (BitVec.ofNat 64 (w - w / sh % 16 * sh + code * sh)) }

/-- The initial semaphores of a pipeline queue on this module (R249), and the queue itself. -/
def loadQueue (s : State) (job : BitVec 16) (r : QueueRec) : State :=
  let one := r.pNode == r.cNode
  let set (s : State) (c : Nat) (sem : BitVec 6) (v : Nat) : State := s.modCore c fun k => k.setSem sem (BitVec.ofNat 16 v)
  let s := if r.pNode = s.node then
      (let s := (set s r.pCore.toNat r.pCredit (if one then r.depth else r.outDepth)).setClass r.pCore.toNat r.pCredit 8
       if one then s else set s r.pCore.toNat r.pReady 0)
    else s
  let s := if r.cNode = s.node then
      (let s := set (set s r.cCore.toNat r.cFull 0) r.cCore.toNat r.cFree 0
       if one then s else s.setClass r.cCore.toNat r.cFull 5)
    else s
  if r.pNode != s.node && r.cNode != s.node then s
  else s.modFab fun b => { b with queues := b.queues ++
    [{ job := job, rec_ := r, credits := r.depth, peakUsed := 0, sent := 0, arrived := 0, got := 0, ready := false, cut := false
       progress := s.ns, lost := false }] }

/-! ## JOB_LOAD (R303 to R309) -/

/-- Whether the image's signature is as the policy and FLAGS ask (R304): the status and detail of a refusal. -/
def signatureError (s : State) (b : List Byte) : Option (BitVec 8 × Nat) :=
  if Bytes.field b 17 1 = 1 then
    match sect? (sectionsOf b) 0x7F with
    | some x =>
      if Config.sigVerifies s.sec.ownerKey (b.take x.off) (Bytes.slice b x.off 96) then none else some (Status.signatureFailed, 0)
    | none => some (Status.signatureFailed, 0)
  else if s.sec.policy.signedImages then some (Status.notPermitted, 0x05)
  else none

/-- What a load reads of an image: `objects` are those of its map, with whether it pins them (R147, R166). -/
structure LoadPlan where
  params  : Params
  streams : List CoreStream
  descs   : List UpdDesc
  sched   : List AlmEntry
  queues  : List QueueRec
  windows : List Window
  objects : List (Nat × Bool)
  regions : Tbl Region
  deriving DecidableEq, Repr

/-- Read an image. -/
def planOf (b : List Byte) : LoadPlan :=
  let ss := sectionsOf b
  { params := paramsOf ((records b ss 0x01).headD [])
    streams := (records b ss 0x03).map fun r => (coreStreamOf r).1
    descs := (records b ss 0x06).map updDescOf
    sched := (records b ss 0x07).map almEntryOf
    queues := (records b ss 0x0A).map queueRecOf
    windows := (Config.mapWindows (sectBytes b (sect? ss 0x05))).map fun p => { base := p.1, len := p.2 }
    objects := Config.mapObjects (sectBytes b (sect? ss 0x05))
    regions := declaredRegions (sectBytes b (sect? ss 0x0D)) }

/-- Pin the objects that a map pins: references until the work ends (R166). Gives those that are pinned: an identifier that names no object
at the load pins nothing. -/
def pinObjects (s : State) (os : List (Nat × Bool)) : List Nat × State :=
  let ids := (os.filter fun o => o.2 && (s.obj? o.1).isSome).map Prod.fst
  (ids, ids.foldl ref s)

/-- Bytes of the parking area of die `m` (R135). -/
def parkBytes (p : Params) (m : Nat) : Nat := (p.park.getD m 0).toNat * 131072

/-- Codes that both kinds of image meet in the sections that they share (Table 7-15): 0x02 reserved fields and class codes (R190), 0x06
the schedule (R177), 0x0A cores outside `here` and ranges out of the image. -/
def sharedErrorOf (s : State) (b : List Byte) (here : Nat → Bool) (code : Nat) : Option Nat :=
  let ss := sectionsOf b
  let p := planOf b
  let at_ (type : Nat) : Option Nat := some (imageError code (sect? ss type))
  let semRecs := Config.semaphores (sectBytes b (sect? ss 0x04))
  match code with
  | 0x02 =>
    if (records b ss 0x03).any fun r => !(coreStreamOf r).2 then at_ 0x03
    else if semRecs.any fun r => r.2.2.any fun w => (List.range 16).any fun i => decide (8 < w.toNat / 2 ^ (4 * i) % 16) then at_ 0x04
    else if (records b ss 0x08).any fun r => !(spuDescOf 0 r).2 then at_ 0x08
    else if p.queues.any fun r => !r.rsvZero then at_ 0x0A
    else none
  | 0x06 => if p.sched.all (s.entryFits p.windows (p.objects.map Prod.fst) p.regions) && seqRises p.sched then none else at_ 0x07
  | 0x0A =>
    if p.streams.any fun c => !(here c.core && c.inRange b.length) then at_ 0x03
    else if semRecs.any fun r => !here r.1 then at_ 0x04
    else none
  | _ => none

/-- Whether the bases of a queue record that are this module's lie in its DRAM (Table 5-10). -/
def queueInDram (s : State) (r : QueueRec) : Bool :=
  let dram (a : Nat) : Bool := match s.placeOf a with | .dram _ _ _ => true | _ => false
  (r.cNode != s.node || dram r.cBase) && (r.pNode != s.node || r.pNode == r.cNode || dram r.pBase)

/-- The checks of a training image's contents (R306, Table 7-15), in the order of the codes. -/
def imageErrorOf (s : State) (b : List Byte) (dies : BitVec 22) : Option Nat :=
  let ss := sectionsOf b
  let p := planOf b
  let tiered := p.descs.any fun d => d.flash
  let at_ (code type : Nat) : Option Nat := some (imageError code (sect? ss type))
  let here (c : Nat) : Bool := decide (c < 176) && dies.getLsbD (c / 8)
  let shards := s.shardsOf 0 p.descs
  let layout := sectBytes b (sect? ss 0x09)
  if !p.params.rsvZero then at_ 0x02 0x01
  else if (s.sharedErrorOf b here 0x02).isSome then s.sharedErrorOf b here 0x02
  else if Config.mapTied (sectBytes b (sect? ss 0x05)) then at_ 0x03 0x05
  else if p.descs.any fun d => s.descBad (descDie d) d then at_ 0x04 0x06
  else if p.params.rule = 0 ∧ tiered = true then at_ 0x05 0x01
  else if (s.sharedErrorOf b here 0x06).isSome then s.sharedErrorOf b here 0x06
  else if [0, 1, 2, 3].any fun m =>
      let sum := ((Config.budgets (sectBytes b (sect? ss 0x0B))).map fun g => if g.2.1 = m then g.2.2 else 0).foldl (· + ·) 0
      decide ((s.memDie m).capacity < s.areaBytes m + parkBytes p.params m + sum) && (sect? ss 0x0B).isSome then at_ 0x07 0x0B
  else if p.queues.any fun r => !r.inRange || !s.queueInDram r then at_ 0x08 0x0A
  else if (sect? ss 0x09).isSome ∧ s.layoutFits layout = false then at_ 0x09 0x09
  else if (s.sharedErrorOf b here 0x0A).isSome then s.sharedErrorOf b here 0x0A
  else if !p.params.inRange (fun m => p.descs.any fun d => d.flash && descDie d == m) then at_ 0x0B 0x01
  else if 4096 < shards.length ∨ (shards.any fun sh => sh.descs.any fun d => descDie d != sh.die.val) then at_ 0x0C 0x06
  else none

/-- Whether a RELOCS entry of an image for `n` compute dies names a field as R309 has it: a core byte of the group or 0xFF, or a
scratchpad address in group numbering, within the image. -/
def relocFits (b : List Byte) (n : Nat) (r : List Byte) : Bool :=
  let off := Bytes.field r 8 8
  if Bytes.field r 0 1 = 0 then decide (off < b.length) && (Bytes.field b off 1 == 0xFF || decide (Bytes.field b off 1 < 8 * n))
  else
    let a := Bytes.field b off 6
    decide (off + 6 ≤ b.length ∧ 0x100000000000 ≤ a ∧ a < 0x100000000000 + 8 * n * 0x800000 ∧ (a - 0x100000000000) % 0x800000 < scratchBytes)

/-- The checks of a SERVING image's contents for `n` compute dies (R305, R306, R309): those of Table 7-15 that concern the sections it may
hold, with its cores and scratchpads in group numbering. -/
def servingErrorOf (s : State) (b : List Byte) (n : Nat) : Option Nat :=
  let ss := sectionsOf b
  let at_ (code type : Nat) : Option Nat := some (imageError code (sect? ss type))
  let here (c : Nat) : Bool := decide (c < 8 * n)
  if (s.sharedErrorOf b here 0x02).isSome then s.sharedErrorOf b here 0x02
  else if (records b ss 0x0E).any fun r => decide (1 < Bytes.field r 0 1) || (Bytes.slice r 1 7).any (· != 0) then at_ 0x02 0x0E
  else if (s.sharedErrorOf b here 0x06).isSome then s.sharedErrorOf b here 0x06
  else if (s.sharedErrorOf b here 0x0A).isSome then s.sharedErrorOf b here 0x0A
  else if (Config.streamTable (sectBytes b (sect? ss 0x0C))).any fun t => t.any fun p => !(here p.1 && decide (p.2 < 393216)) then
    at_ 0x0A 0x0C
  else if (records b ss 0x0E).any fun r => !relocFits b n r then at_ 0x0A 0x0E
  else none

/-- An identifier names a loaded job or image. -/
def idTaken (s : State) (id : BitVec 16) : Bool := (s.job? id).isSome || s.images.any fun i => i.id == id

/-- Write a job's update lists into the device area. -/
def placeLists (s : State) (b : List Byte) (shards : List Shard) : State :=
  let recs := records b (sectionsOf b) 0x06
  shards.foldl
    (fun s sh =>
      let mine := recs.filter fun r => (updDescOf r).shard == sh.num
      s.dramWrite sh.listAddr (cleanCells mine.flatten))
    s

/-- Staging buffers of a schedule on memory die `m` (R134, Table 4-4): the destinations of the entries that take a staging credit there. -/
def stagingBuffers (es : List AlmEntry) (m : Nat) : Nat :=
  (((es.filter fun e => e.gate == 2).map fun e => allocView e.dst.toNat).filter fun a => a / dieSpan == m).eraseDups.length

/-- The Separators hold one staging credit for each staging buffer of a loaded schedule. DESIGN CHOICE (log 96): the spec gives no count. -/
def grantStaging (s : State) (es : List AlmEntry) : State :=
  [0, 1, 2, 3].foldl (fun s m => s.modSep m fun u => { u with stagingCredits := u.stagingCredits + stagingBuffers es m }) s

/-- The staging credits of a schedule go with its work. -/
def dropStaging (s : State) (es : List AlmEntry) : State :=
  [0, 1, 2, 3].foldl (fun s m => s.modSep m fun u => { u with stagingCredits := u.stagingCredits - stagingBuffers es m }) s

/-- The work of a load of a checked training image (R307). DESIGN CHOICE (log 99): FAB_DIM stays as it is while another job's layout is
loaded. -/
def loadJob (s : State) (q : Nat) (id : BitVec 16) (b : List Byte) (dies : BitVec 22) (slot : Fin 8) : State :=
  let ss := sectionsOf b
  let p := planOf b
  let layout := sectBytes b (sect? ss 0x09)
  let shards := s.shardsOf slot.val p.descs
  let laid := (sect? ss 0x09).isSome
  let j : Job :=
    { id := id, queue := Fin.ofNat 8 q, dies := dies, slot := slot, digest := Config.sha384 b, params := p.params, windows := p.windows,
      objects := p.objects.map Prod.fst, pins := (s.pinObjects p.objects).1, regions := p.regions, streams := p.streams, shards := shards, schedule := p.sched.map fun e => { e with job := id }, toPlace := []
      copies := (Config.mapCopies (sectBytes b (sect? ss 0x05))).map fun c => { first := c.1, second := c.2.1, len := c.2.2 }
      newest := false, older := false, replicas := [s.node]
      budgets := (Config.budgets (sectBytes b (sect? ss 0x0B))).map fun g => { stage := g.1, die := g.2.1, bytes := g.2.2, peak := 0 }
      train := { step := 0, t := 0, skipped := 0, clean := 0, consec := 0, lsExp := p.params.eInit, rule := p.params.rule,
                 seed := p.params.seed, version := 1, diverged := 0 }
      gradExp := 0, fixSent := none, steps := [], submitted := false, stopped := false, clearing := false, sBar := 0, tBar := 0, bCrit := BitVec.ofNat 64 NumFmt.d64.nanCode, soundStep := 0 }
  let s := (s.pinObjects p.objects).2
  let s := (Config.semaphores (sectBytes b (sect? ss 0x04))).foldl (fun s r => s.loadSems r.1 r.2.1 r.2.2) s
  let s := p.streams.foldl (fun s c => s.loadStream b c) s
  let s := s.takeSlot slot.val id
  let s := [0, 1, 2, 3].foldl (fun s m => s.reserve m id.toNat (parkBytes p.params m)) s
  let s := (s.placeLists b shards).grantStaging p.sched
  let s := p.queues.foldl (fun s r => s.loadQueue id r) s
  let others := s.jobs.any fun k => !k.groups.entries.isEmpty
  let dim := s.dim
  let s := { s with jobs := s.jobs ++ [j] }
  if !laid then s
  else
    let s := s.loadLayout id layout
    (if others then s.modEngines fun e => { e with dim := dim } else s).unusedPorts

/-- JOB_LOAD (R303 to R309): the whole image is checked before anything changes. -/
def jobLoadCmd (s : State) (q : Nat) (f : Flight) : State :=
  let id := f.job
  let len := f.arg 16 8
  if id.toNat < 0x0100 ∨ id = 0xFFFF then s.refuse q f Status.invalidField 6
  else if f.arg 8 8 % 64 ≠ 0 then s.refuse q f Status.invalidField 8
  else
    let b := s.hostBytes (f.arg 8 8) len
    match containerError b len with
    | some e => s.refuse q f Status.imageInvalid e
    | none =>
      match s.signatureError b with
      | some (st, d) => s.refuse q f st d
      | none =>
        let field := Bytes.field b 20 4
        if Bytes.field b 16 1 = 1 then
          match s.servingErrorOf b field with
          | some e => s.refuse q f Status.imageInvalid e
          | none =>
          if s.idTaken id then s.refuse q f Status.inUse 6
          else
            match s.roomError (planOf b).windows (fun m => if m = 0 then len else 0) with
            | some e => s.refuse q f Status.noResource e
            | none =>
              let s := s.reserve 0 id.toNat len
              let s := { s with images := s.images ++ [({ id := id, dies := field, digest := Config.sha384 b, bytes := b } : Image)] }
              s.finishOk q f 0 (BitVec.ofNat 64 s.areaMax)
        else if 2 ^ 22 ≤ field ∨ field = 0 then s.refuse q f Status.imageInvalid (imageError 0x01 none)
        else
          let dies := BitVec.ofNat 22 field
          match s.imageErrorOf b dies with
          | some e => s.refuse q f Status.imageInvalid e
          | none =>
            if s.idTaken id then s.refuse q f Status.inUse 6
            else if s.anyTaken dies then s.refuse q f Status.inUse 8
            else
              match s.freeSlot with
              | none => s.refuse q f Status.noResource 1
              | some slot =>
                match s.roomError (planOf b).windows (parkBytes (planOf b).params) with
                | some e => s.refuse q f Status.noResource e
                | none =>
                  let s := s.loadJob q id b dies slot
                  s.finishOk q f (dies.setWidth 32) (BitVec.ofNat 64 s.areaMax)

/-! ## JOB_REGION (R148, R299, R308) -/

/-- Map a region that the image declares; `busy` tells that its work is in flight. DESIGN CHOICE (log 98): PERM alone is what the region
permits from then on, wider than the image declares it or not. -/
def regionCmd (s : State) (q : Nat) (f : Flight) (rs : Tbl Region) (busy : Bool) (put : Tbl Region → State → State) : State :=
  let r := f.arg 8 1
  match rs.find? r with
  | none => s.refuse q f Status.invalidField 8
  | some g =>
    if f.arg 16 8 % 4096 ≠ 0 then s.refuse q f Status.invalidField 16
    else if g.declLen < f.arg 24 8 then s.refuse q f Status.invalidField 24
    else if busy then s.refuse q f Status.inUse 6
    else
      (put (rs.put r { g with mapped := true, hbase := BitVec.ofNat 64 (f.arg 16 8), len := f.arg 24 8,
                              perm := BitVec.ofNat 2 (f.arg 9 1) }) s).finishOk q f 0 0

/-- JOB_REGION: a job's or a group's. -/
def jobRegionCmd (s : State) (q : Nat) (f : Flight) : State :=
  if f.job.toNat < 0xFF then
    match s.group? (f.job.setWidth 8) with
    | none => s.refuse q f Status.notFound 6
    | some g => s.regionCmd q f g.regions (!g.requests.isEmpty) fun rs s => s.modGroup g.id fun g => { g with regions := rs }
  else s.withJob q f false fun j =>
    s.regionCmd q f j.regions (!j.steps.isEmpty) fun rs s => s.modJob j.id fun j => { j with regions := rs }

/-! ## JOB_STOP, JOB_UNLOAD (R300, R309) -/

/-- A job's stop has finished (R300): no step in flight, no entry to cancel, no core in RUN. -/
def stopOver (s : State) (j : Job) : Bool :=
  j.steps.isEmpty && !s.alm.cancelling && (coresOf j.dies).all fun c => (s.core c).regs.mode != .run

/-- JOB_STOP: it stops the job, and completes when the stop has finished. -/
def jobStopCmd (s : State) (q : Nat) (f : Flight) : State :=
  match s.job? f.job with
  | none => s.refuse q f Status.notFound 6
  | some j =>
    let s := s.stopJob j.id none
    match s.job? j.id with
    | none => s
    | some j => if s.stopOver j then s.finishOk q f 0 j.train.step else s

/-- A job's cores, pins, slot, areas and queues are given back (R270, R271, R156, R166). -/
def unloadJob (s : State) (j : Job) : State :=
  let s := (coresOf j.dies).foldl coreClear s
  let s := (j.pins.foldl unref s).dropStaging j.schedule
  let s := { s with jobs := s.jobs.filter fun k => k.id != j.id }
  let s := (s.dropSlot j.slot.val).unreserve j.id.toNat
  (s.modFab fun b => { b with queues := b.queues.filter fun k => k.job != j.id }).sepPrepareAll

/-- Another command of the job is in flight. -/
def jobBusy (s : State) (j : Job) (f : Flight) : Bool :=
  (List.range 8).any fun q => (s.queue q).flights.any fun g =>
    g.job == j.id && decide (g.opc ≥ 0x20) && g.tag != f.tag && (g.started || (q == j.queue.val && decide (g.n < f.n)))

/-- JOB_UNLOAD (Table 7-10, R309). -/
def jobUnloadCmd (s : State) (q : Nat) (f : Flight) : State :=
  match s.job? f.job with
  | some j =>
    if !j.stopped || !s.stopOver j || s.jobBusy j f then s.refuse q f Status.inUse 6
    else (s.unloadJob j).finishOk q f 0 0
  | none =>
    if s.images.any fun i => i.id == f.job then
      if s.groups.any fun g => g.image == f.job then s.refuse q f Status.inUse 6
      else
        let s := { s with images := s.images.filter fun i => i.id != f.job }
        (s.unreserve f.job.toNat).finishOk q f 0 0
    else s.refuse q f Status.notFound 6

/-! ## Serving groups (R270, R271, R309) -/

/-- Put bytes into an image. -/
def patchBytes (b : List Byte) (off : Nat) (v : List Byte) : List Byte :=
  if off + v.length ≤ b.length then b.take off ++ v ++ b.drop (off + v.length) else b

/-- Rewrite the fields that RELOCS names (R309): a group core index becomes a core number, a scratchpad address takes the device's
numbering. -/
def relocate (cores : List Nat) (b : List Byte) : List Byte :=
  (records b (sectionsOf b) 0x0E).foldl
    (fun b r =>
      let off := Bytes.field r 8 8
      if Bytes.field r 0 1 = 0 then
        (let k := Bytes.field b off 1
         if k = 0xFF then b else patchBytes b off [Bytes.byte (cores.getD k k)])
      else
        (let a := Bytes.field b off 6
         let k := (a - 0x100000000000) / 0x800000
         if a < 0x100000000000 then b
         else patchBytes b off (Bytes.ofNat 6 (0x100000000000 + cores.getD k k * 0x800000 + (a - 0x100000000000) % 0x800000))))
    b

/-- A group is made from an image (R309). -/
def makeGroup (s : State) (q : Nat) (id : BitVec 8) (im : Image) (dies : BitVec 22) (slot : Fin 8) : State :=
  let cores := coresOf dies
  let b := relocate cores im.bytes
  let ss := sectionsOf b
  let work : BitVec 16 := id.setWidth 16
  let g : Group :=
    { id := id, queue := Fin.ofNat 8 q, image := im.id, dies := dies, slot := slot
      windows := (planOf b).windows, objects := (planOf b).objects.map Prod.fst, pins := (s.pinObjects (planOf b).objects).1
      regions := (planOf b).regions, streams := Config.streamTable (sectBytes b (sect? ss 0x0C))
      requests := [], completed := 0, schedule := ((records b ss 0x07).map almEntryOf).map fun e => { e with job := work }, toPlace := []
      clearing := false }
  let s := (s.pinObjects (planOf b).objects).2
  let s := (Config.semaphores (sectBytes b (sect? ss 0x04))).foldl
    (fun s r => match cores[r.1]? with | some c => s.loadSems c r.2.1 r.2.2 | none => s) s
  let s := ((records b ss 0x03).map fun r => (coreStreamOf r).1).foldl
    (fun s r => match cores[r.core]? with | some c => s.loadStream b { r with core := c } | none => s) s
  let s := (s.takeSlot slot.val work).grantStaging g.schedule
  { s with groups := s.groups ++ [g] }

/-- GROUP_CREATE (R270, R271, R309): a map that the device area has come to overlap since the load is refused as a load would be (R156). -/
def groupCreateCmd (s : State) (q : Nat) (f : Flight) : State :=
  let image := BitVec.ofNat 16 (f.arg 8 2)
  let field := f.arg 12 4
  let id : BitVec 8 := f.job.setWidth 8
  if 0xFE < f.job.toNat then s.refuse q f Status.invalidField 6
  else
    match s.images.find? fun i => i.id == image with
    | none => s.refuse q f Status.notFound 8
    | some im =>
      if (s.group? id).isSome then s.refuse q f Status.inUse 6
      else if 2 ^ 22 ≤ field ∨ popcount (BitVec.ofNat 22 field) ≠ im.dies then s.refuse q f Status.invalidField 12
      else if s.anyTaken (BitVec.ofNat 22 field) then s.refuse q f Status.inUse 12
      else
        match s.freeSlot with
        | none => s.refuse q f Status.noResource 1
        | some slot =>
          if (s.roomError (planOf (relocate (coresOf (BitVec.ofNat 22 field)) im.bytes)).windows fun _ => 0).isSome then
            s.refuse q f Status.noResource 3
          else (s.makeGroup q id im (BitVec.ofNat 22 field) slot).finishOk q f (BitVec.ofNat 32 slot.val) 0

/-- GROUP_DESTROY (R308, R309): the group's dies and slot are given back, its regions unmapped. -/
def groupDestroyCmd (s : State) (q : Nat) (f : Flight) : State :=
  match if f.job.toNat < 0xFF then s.group? (f.job.setWidth 8) else none with
  | none => s.refuse q f Status.notFound 6
  | some g =>
    if !g.requests.isEmpty then s.refuse q f Status.inUse 6
    else
      let s := (g.pins.foldl unref (s.clearGroup g)).dropStaging g.schedule
      let s := { s with groups := s.groups.filter fun k => k.id != g.id }
      (s.dropSlot g.slot.val).finishOk q f 0 0

/-- Run a command without host memory that may have more than one moment: it starts by the rules of its stream, or goes on once
started. -/
def runCmdAgain (s : State) (t : Tag) (opc : Nat) (body : State → Nat → Flight → State) : State :=
  match s.flightOf t with
  | none => s
  | some (q, f) =>
    if f.opc = opc ∧ f.started = true ∧ s.bar.mode = .ready then (body s q f).stream q else s.runCmd t opc false body

end State

/-! ## Meanings -/

/-- JOB_LOAD (R303 to R309). -/
def execJobLoad (t : Tag) (x : Env) (s : State) : Host.Outcome State Fault Refusal :=
  .next (s.runHostCmd t 0x20 x State.jobLoadCmd)

/-- JOB_REGION (R308). -/
def execJobRegion (t : Tag) (s : State) : Host.Outcome State Fault Refusal := .next (s.runCmd t 0x21 false State.jobRegionCmd)

/-- JOB_STOP (R300). -/
def execJobStop (t : Tag) (s : State) : Host.Outcome State Fault Refusal := .next (s.react (s.runCmdAgain t 0x22 State.jobStopCmd))

/-- JOB_UNLOAD (R309). -/
def execJobUnload (t : Tag) (s : State) : Host.Outcome State Fault Refusal := .next (s.runCmd t 0x23 false State.jobUnloadCmd)

/-- GROUP_CREATE (R309). -/
def execGroupCreate (t : Tag) (s : State) : Host.Outcome State Fault Refusal := .next (s.runCmd t 0x30 false State.groupCreateCmd)

/-- GROUP_DESTROY (R308). -/
def execGroupDestroy (t : Tag) (s : State) : Host.Outcome State Fault Refusal := .next (s.react (s.runCmd t 0x31 false State.groupDestroyCmd))

end Sys2Proof.Machine
end

