-- ==== Sys2Proof/Machine/Fixes.lean ====
section
/-!
DEFINITION. FENCE, DMA, EXPORT, FIX and RESTORE (R143, R299, R308, R316, R331 to R336).
-/
namespace Sys2Proof.Machine

/-- A job's region (R299): mapped, permitting the access, and holding `n` bytes at `off`. -/
def regionHolds (rs : Tbl Region) (r off n : Nat) (write : Bool) : Bool :=
  let g := rs.get Region.absent r
  g.mapped && g.perm.getLsbD (if write then 1 else 0) && decide (off + n ≤ g.len)

/-- The training-state record (Table 3-16). -/
def trainBytes (t : TrainState) : List Byte :=
  Bytes.ofNat 8 t.step.toNat ++ Bytes.ofNat 8 t.t.toNat ++ Bytes.ofNat 8 t.skipped.toNat ++ Bytes.ofNat 4 t.clean.toNat ++
  Bytes.ofNat 2 t.consec.toNat ++ Bytes.ofNat 1 t.lsExp.toNat ++ Bytes.ofNat 1 t.rule.toNat ++ Bytes.ofNat 8 t.seed.toNat ++
  Bytes.ofNat 8 t.version.toNat ++ Bytes.ofNat 2 t.diverged.toNat ++ Bytes.zeros 14

/-- A training-state record read back. -/
def trainOf (b : List Byte) : TrainState :=
  let f (o n : Nat) := Bytes.field b o n
  { step := BitVec.ofNat 64 (f 0 8), t := BitVec.ofNat 64 (f 8 8), skipped := BitVec.ofNat 64 (f 16 8), clean := BitVec.ofNat 32 (f 24 4),
    consec := BitVec.ofNat 16 (f 28 2), lsExp := BitVec.ofNat 8 (f 30 1), rule := BitVec.ofNat 8 (f 31 1), seed := BitVec.ofNat 64 (f 32 8),
    version := BitVec.ofNat 64 (f 40 8), diverged := BitVec.ofNat 16 (f 48 2) }

/-- Round up to 64 bytes. -/
def up64 (n : Nat) : Nat := (n + 63) / 64 * 64

/-- Cells filled up with zeros to a multiple of 64. -/
def pad64 (cs : List Cell) : List Cell := cs ++ cleanCells (Bytes.zeros (up64 cs.length - cs.length))

namespace UpdDesc
/-- FLAGS of a descriptor's export header (Table 3-18). -/
def flags (d : UpdDesc) (grad : Bool) : Nat :=
  Bytes.ofBool d.emaEn + 2 * Bytes.ofBool d.nesterov + 4 * Bytes.ofBool d.mom1En + 8 * Bytes.ofBool grad
/-- OPT code. -/
def optCode (d : UpdDesc) : Nat :=
  match d.opt with | some .am => 0 | some .msgd => 1 | some .fact => 2 | none => 3
/-- The state sections of a descriptor in the order of Table 3-19: array and bytes. -/
def stateSections (d : UpdDesc) : List (Nat × Nat) :=
  [(d.master, 5 * d.count)] ++ (if d.hasM1 then [(d.mom1, 2 * d.count)] else []) ++
  (if d.opt = some .am then [(d.mom2, 2 * d.count)] else []) ++
  (if d.opt = some .fact then [(d.mom2, 2 * d.rows), (d.colf, 2 * d.cols)] else []) ++ (if d.emaEn then [(d.ema, 2 * d.count)] else [])
/-- The export header of a descriptor (Table 3-18). -/
def exportHeader (d : UpdDesc) (grad : Bool) (e : BitVec 8) : List Byte :=
  Bytes.ofNat 8 d.pbase.toNat ++ Bytes.ofNat 4 d.count ++ Bytes.ofNat 4 d.rows ++ Bytes.ofNat 1 d.optCode ++ Bytes.ofNat 1 (d.flags grad) ++
  Bytes.ofNat 1 (if grad then e.toNat else 0) ++ Bytes.zeros 1 ++ Bytes.ofNat 4 d.lrScale.toNat ++ Bytes.ofNat 4 d.decay.toNat ++
  Bytes.ofNat 4 d.eps.toNat ++ Bytes.ofNat 4 d.emaDecay.toNat ++ Bytes.ofNat 2 d.emaInt.toNat ++ Bytes.zeros 26
/-- Bytes of a descriptor's part of an export. -/
def exportLen (d : UpdDesc) (grad : Bool) : Nat :=
  64 + ((d.stateSections.map fun p => up64 p.2).foldl (· + ·) 0) + (if grad && !d.flash then up64 (2 * d.count) else 0)
/-- Bytes of a descriptor's stored forward copy. -/
def copyLen (d : UpdDesc) : Nat := if d.f8En then up64 d.count + up64 (d.count / 32) else 0
end UpdDesc

/-- Bytes of a shard's export. -/
def shardLen (sh : Shard) (grad : Bool) : Nat := 128 + (sh.descs.map fun d => d.exportLen grad).foldl (· + ·) 0

/-- Bytes of a shard's part of a fix (R333). -/
def fixPartLen (rule : BitVec 8) (sh : Shard) : Nat :=
  shardLen sh false + (if rule = 2 then (sh.descs.map fun d => d.copyLen).foldl (· + ·) 0 else 0)

namespace State

/-! ## Export (R143) -/

/-- Host address of a byte of a job's region. -/
def regionAddr (j : Job) (r off : Nat) : Nat := (j.regions.get Region.absent r).hbase.toNat + off

/-- Cells of a state array: its DRAM, or the committed generation of its flash object. -/
def arrayCells (s : State) (x : Env) (d : UpdDesc) (base n : Nat) : List Cell × State :=
  if d.flash then
    match s.obj? base with
    | some o => s.objCells x base o 0 n
    | none => ([], s)
  else s.load x Tbl.empty base n

/-- Some flash array of some descriptors is sealed (R361). -/
def sealedState (s : State) (ds : List UpdDesc) : Bool :=
  ds.any fun d => d.flash && d.stateSections.any fun p => match s.obj? p.1 with | some o => s.sealedObj p.1 o | none => false

/-- Some object of a list is being written whole, so that its readers wait (R327). -/
def someWriting (s : State) (oids : List Nat) : Bool :=
  oids.any fun oid => match s.obj? oid with | some o => o.mode == .writing | none => false

/-- Cells of several parts, one after another. -/
def gather (f : State → α → List Cell × State) : List α → State → List Cell × State
  | [], s => ([], s)
  | a :: rest, s =>
    let (cs, s) := f s a
    let (ds, s) := gather f rest s
    (cs ++ ds, s)

/-- The export of a shard (Tables 3-17 to 3-19). -/
def shardExport (s : State) (x : Env) (j : Job) (sh : Shard) (grad : Bool) : List Cell × State :=
  let head := Bytes.ofNat 4 0x4F584C47 ++ Bytes.ofNat 2 1 ++ Bytes.ofNat 2 sh.num.toNat ++ Bytes.ofNat 4 sh.descs.length ++ Bytes.zeros 4 ++
    Bytes.ofNat 8 sh.digest.toNat ++ Bytes.zeros 40 ++ trainBytes j.train
  let (body, s) := gather (fun s (d : UpdDesc) =>
    let g := grad && !d.flash
    let (cs, s) := gather (fun s (p : Nat × Nat) =>
      let (cs, s) := s.arrayCells x d p.1 p.2
      (pad64 cs, s)) d.stateSections s
    let (gs, s) := if g then s.load x Tbl.empty d.grad (2 * d.count) else ([], s)
    (cleanCells (d.exportHeader g j.gradExp) ++ cs ++ pad64 gs, s)) sh.descs s
  (cleanCells head ++ body, s)

/-- GRAD of an EXPORT. -/
def exportGrad (f : Flight) : Bool := Bytes.bit (f.arg 8 1) 0

/-- The shards from FIRST on, and of those the ones that an EXPORT takes. -/
def exportFrom (j : Job) (f : Flight) : List Shard := (shardsUp j).dropWhile fun sh => decide (sh.num.toNat < f.arg 12 2)

/-- Bytes of an EXPORT. -/
def exportBytes (j : Job) (f : Flight) : Nat :=
  (((exportFrom j f).take (f.arg 14 2)).map fun sh => shardLen sh (exportGrad f)).foldl (· + ·) 0

/-- EXPORT (R143, R299, R361): it reads the committed state of the last completed step, waiting, with references on them, for state objects
that are WRITING (R166, R327). What it reads poisoned makes it POISONED (Table 8-3).
DESIGN CHOICE (log 86): FIRST must name a shard, and SHARDS be from one to the number of shards from there on. -/
def exportCmd (s : State) (x : Env) (q : Nat) (f : Flight) : State :=
  s.withJob q f true fun j =>
    let from_ := exportFrom j f
    let picked := from_.take (f.arg 14 2)
    let n := exportBytes j f
    let at_ := regionAddr j (f.arg 9 1) (f.arg 16 8)
    if (from_.head?).map (fun sh => sh.num.toNat) ≠ some (f.arg 12 2) then s.refuse q f Status.invalidField 12
    else if f.arg 14 2 = 0 ∨ from_.length < f.arg 14 2 then s.refuse q f Status.invalidField 14
    else if !regionHolds j.regions (f.arg 9 1) (f.arg 16 8) n true then s.refuse q f Status.mapViolation 16
    else if s.sealedState (picked.flatMap fun sh => sh.descs) then s.refuse q f Status.notPermitted 0x09
    else if s.someWriting (stateObjs j) then s.holdObjs q f (stateObjs j)
    else
      let (cs, s) := gather (fun s sh => s.shardExport x j sh (exportGrad f)) picked s
      let s := s.hostWrite at_ cs
      if anyPoison cs then (s.spoilRange at_ n).refuse q f Status.poisoned 0
      else s.finishOk q f (BitVec.ofNat 32 picked.length) (BitVec.ofNat 64 n)

/-- The destination of an EXPORT whose host access failed (R314). -/
def spoilExport (s : State) (f : Flight) : State :=
  match s.job? f.job with
  | some j =>
    if regionHolds j.regions (f.arg 9 1) (f.arg 16 8) (exportBytes j f) true then
      s.spoilRange (regionAddr j (f.arg 9 1) (f.arg 16 8)) (exportBytes j f)
    else s
  | none => s

/-- When an EXPORT may not start yet: a step of its job is in flight. DESIGN CHOICE (log 57), so that what it reads is of one step. -/
def exportWaits (s : State) (t : Tag) : Bool :=
  match s.flightOf t with
  | some (_, f) => !f.started && (match s.job? f.job with | some j => !j.stopped && !j.steps.isEmpty | none => false)
  | none => false

/-! ## FIX (R331 to R335) -/

/-- Bytes of a fix. -/
def fixLen (j : Job) : Nat :=
  up64 (256 + 16 * j.shards.length) + (j.shards.map fun sh => up64 (fixPartLen j.params.rule sh)).foldl (· + ·) 0

/-- A descriptor's forward copy in one of the two slots, F8 data and then scales (R333). -/
def copyCells (s : State) (x : Env) (j : Job) (second : Bool) (d : UpdDesc) : List Cell × State :=
  if d.f8En then
    let (a, s) := s.load x Tbl.empty (slotAddr j.copies second d.f8dst) d.count
    let (b, s) := s.load x Tbl.empty (slotAddr j.copies second d.f8sdst) (d.count / 32)
    (pad64 a ++ pad64 b, s)
  else ([], s)

/-- Offsets of the parts of a fix. -/
def partOffsets (j : Job) : List Nat :=
  let shs := shardsUp j
  (List.range shs.length).map fun i =>
    up64 (256 + 16 * shs.length) + (((shs.take i).map fun sh => up64 (fixPartLen j.params.rule sh)).foldl (· + ·) 0)

/-- The fix of a job (Table 8-6). -/
def fixCells (s : State) (x : Env) (j : Job) : List Cell × State :=
  let shs := shardsUp j
  let n := fixLen j
  let head (digest : BitVec 384) : List Byte :=
    Bytes.ofNat 4 0x58464C47 ++ Bytes.ofNat 2 1 ++ Bytes.ofNat 2 shs.length ++ Bytes.ofNat 8 j.train.step.toNat ++ Bytes.ofNat 8 n ++
    Bytes.ofNat 2 s.epoch.toNat ++ Bytes.ofNat 2 j.replicas.length ++ Bytes.ofNat 2 s.node.toNat ++ Bytes.zeros 2 ++
    Bytes.ofNat 8 j.sBar.toNat ++ Bytes.ofNat 8 j.tBar.toNat ++ Bytes.zeros 16 ++ trainBytes j.train ++ Bytes.ofNat 48 digest.toNat ++
    Bytes.zeros 80
  let dir := (List.zip shs (partOffsets j)).flatMap fun p => Bytes.ofNat 2 p.1.num.toNat ++ Bytes.zeros 6 ++ Bytes.ofNat 8 p.2
  let (parts, t) := gather (fun s (sh : Shard) =>
    let (a, s) := s.shardExport x j sh false
    let (b, s) := if j.params.rule = 2 then gather (fun s d => s.copyCells x j j.older d) sh.descs s else ([], s)
    (pad64 (a ++ b), s)) shs s
  let rest := pad64 (cleanCells dir) ++ parts
  (cleanCells (head (Config.sha384 (head 0 ++ cellBytes rest))) ++ rest, t)

/-- The node of a source-list entry for a shard. -/
def sourceFor (list : List Byte) (num : BitVec 16) : Option (BitVec 12) :=
  ((Bytes.chunks 8 list).find? fun e => Bytes.field e 0 2 == num.toNat).map fun e => BitVec.ofNat 12 (Bytes.field e 2 2)

/-- The first byte of a source list that breaks R334. -/
def sourceError (j : Job) (list : List Byte) : Option Nat :=
  (List.range (list.length / 8)).findSome? fun i =>
    let e := Bytes.slice list (8 * i) 8
    if Bytes.field e 2 2 ≥ 4096 ∨ j.replicas.contains (BitVec.ofNat 12 (Bytes.field e 2 2)) = false then some (8 * i + 2)
    else if Bytes.field e 4 4 ≠ 0 then some (8 * i + 4)
    else none

/-- Poison marks of an object's units after cells are written at `off`: a unit that is written is poisoned as its new bytes are. -/
def unitPoison (bad : Tbl Bool) (off : Nat) (cs : List Cell) : Tbl Bool :=
  (unitsOf off cs.length).foldl
    (fun t u => t.set false (u * unitBytes)
      (anyPoison ((cs.drop (u * unitBytes - off)).take (unitBytes - (off - u * unitBytes)))))
    bad

/-- Cells are written into a flash object as a new generation (R159, R335). -/
def objNewBytes (s : State) (oid off : Nat) (cs : List Cell) : State :=
  let s := (diesOf off cs.length).foldl takeBlocks s
  match s.obj? oid with
  | some o =>
    s.newGeneration oid (putData o.data off (cellBytes cs)) (unitPoison o.bad off cs) (off + cs.length) (unitsOf off cs.length)
  | none => s

/-- A state array of a descriptor is written whole: DRAM, or a new generation of its flash object. -/
def putArray (s : State) (d : UpdDesc) (base : Nat) (cs : List Cell) : State :=
  if d.flash then s.objNewBytes base 0 cs else s.store Tbl.empty base cs

/-- Flash writes of some spans (offset, length) begin: whether no die holds them back (R163). -/
def flashBegin (s : State) (spans : List (Nat × Nat)) : Bool × State :=
  let s := spans.foldl (fun s p => s.beginFlash p.1 p.2) s
  (spans.all fun p => s.flashReady p.1 p.2, s)

/-- Spans of the flash arrays of a shard. -/
def shardSpans (sh : Shard) : List (Nat × Nat) :=
  sh.descs.flatMap fun d => if d.flash then d.stateSections.map fun p => (0, p.2) else []

/-- The slots of forward copies that a repair carries (R141): the newest, and the older under TWO_OLD. -/
def copySlots (j : Job) : List Bool := if j.params.rule = 2 then [j.newest, !j.newest] else [j.newest]

/-- Bytes of a shard's repair. -/
def repairLen (j : Job) (sh : Shard) : Nat :=
  (sh.descs.map fun d => ((d.stateSections.map fun p => up64 p.2).foldl (· + ·) 0) + (copySlots j).length * d.copyLen).foldl (· + ·) 0

/-- The entire state of a shard (R141): master, moments or factors, running average and forward copy of each descriptor. DESIGN CHOICE
(log 87): the arrays stand one after another in the order of an export, each padded to 64 bytes. -/
def repairCells (s : State) (x : Env) (j : Job) (sh : Shard) : List Cell × State :=
  gather (fun s (d : UpdDesc) =>
    let (a, s) := gather (fun s (p : Nat × Nat) =>
      let (cs, s) := s.arrayCells x d p.1 p.2
      (pad64 cs, s)) d.stateSections s
    let (b, s) := gather (fun s second => s.copyCells x j second d) (copySlots j) s
    (a ++ b, s)) sh.descs s

/-- `n` cells of a repair at an offset. -/
def repairAt (t : Tbl Cell) (off n : Nat) : List Cell := (List.range n).map fun i => t.get (0, false) (off + i)

/-- A shard takes the state that a repair has brought (R141), and its digest. -/
def adoptShard (s : State) (j : Job) (sh : Shard) (digest : BitVec 64) (t : Tbl Cell) : State :=
  let array (d : UpdDesc) (p : Nat × State) (a : Nat × Nat) : Nat × State :=
    (p.1 + up64 a.2, p.2.putArray d a.1 (repairAt t p.1 a.2))
  let copy (d : UpdDesc) (p : Nat × State) (second : Bool) : Nat × State :=
    if d.f8En then
      (p.1 + d.copyLen,
       (p.2.store Tbl.empty (slotAddr j.copies second d.f8dst) (repairAt t p.1 d.count)).store Tbl.empty
         (slotAddr j.copies second d.f8sdst) (repairAt t (p.1 + up64 d.count) (d.count / 32)))
    else p
  let (_, s) := sh.descs.foldl (fun p d => (copySlots j).foldl (copy d) (d.stateSections.foldl (array d) p)) (0, s)
  s.modShard j.id sh.num fun sh => { sh with digest := digest, newDigest := digest }

/-- The source of a shard's repair: the majority's lowest node (R141), or the node that the source list names (R334). -/
def repairSource (list : List Byte) (sh : Shard) : Option (BitVec 12) :=
  match sh.repair with | some n => some n | none => if sh.diverged then sourceFor list sh.num else none

/-- The repair multicast of a shard begins here, if this replica is its source or lacks the source's state (R141, R331, R332): a MULTICAST
collective from the source to the replicas whose digest differs. DESIGN CHOICE (log 87): its stream is the job's number plus the shard's. -/
def openRepair (s : State) (x : Env) (j : Job) (peers : List PeerDigests) (tag : Option (QueueId × Tag)) (i : Nat) (sh : Shard)
    (root : BitVec 12) : Option Repair × State :=
  let mine : PeerDigests := { node := s.node, step := j.train.step, digests := (shardsUp j).map (·.digest) }
  let all := peers ++ [mine]
  let digest := match all.find? fun p => p.node == root with | some p => p.digests.getD i 0 | none => sh.digest
  let lacking := (all.filter fun p => p.digests.getD i 0 != digest).map (·.node)
  if lacking.isEmpty || !(root == s.node || lacking.contains s.node) then (none, s)
  else
    let n := repairLen j sh
    let (cs, s) := if root = s.node then s.repairCells x j sh else ([], s)
    let stream := j.id + sh.num
    let group := ranked (root :: lacking)
    let c : Coll :=
      { id := 0, job := j.id, op := .multicast, group := group, epoch := s.epoch, ifmt := .bytes, ofmt := .bytes,
        root := (group.findIdx? fun m => m == root).getD 0, stream := stream, n := n, src := 0, dst := 0, grad := none, step := 0,
        contribs := [], arrivals := [], results := Tbl.empty, summed := false, gsq := 0, verdict := false, discard := false, reduced := [],
        parkedSegs := 0, throughput := j.params.throughput != 0, progress := s.ns, tag := tag, poisoned := false, contributed := true }
    (some { shard := sh.num, stream := stream, digest := digest, take := root != s.node, bytes := none },
     (s.openColl c).openStream c (256 * 0x100000) n (some (putReplay Tbl.empty 0 cs)))

/-- The shards that a fix repairs, with their places in the exchange and their sources. -/
def repairList (j : Job) (list : List Byte) : List (Nat × Shard × BitVec 12) :=
  (shardsUp j).zipIdx.filterMap fun p => (repairSource list p.1).map fun n => (p.2, p.1, n)

/-- Every repair of a FIX begins (R331). -/
def openRepairs (s : State) (x : Env) (j : Job) (peers : List PeerDigests) (list : List Byte) (tag : Option (QueueId × Tag)) : State :=
  let (rs, s) := (repairList j list).foldl
    (fun (p : List Repair × State) q =>
      let (r, s) := p.2.openRepair x j peers tag q.1 q.2.1 q.2.2
      (p.1 ++ r.toList, s))
    ([], s)
  s.modJob j.id fun j => { j with repairs := some rs }

/-- The repairs that a replica takes, each with its shard. -/
def repairsTaken (j : Job) (rs : List Repair) : List (Shard × Repair) :=
  (rs.filter (·.take)).filterMap fun r => (j.shards.find? fun sh => sh.num == r.shard).map fun sh => (sh, r)

/-- Every repair has come: the shards take their state, and no shard is DIVERGED any more (R141, R334). -/
def repairShards (s : State) (j : Job) (rs : List Repair) (list : List Byte) : State :=
  let s := (repairsTaken j rs).foldl (fun s p => s.adoptShard j p.1 p.2.digest (p.2.bytes.getD Tbl.empty)) s
  let s := (repairList j list).foldl (fun s p => s.modShard j.id p.2.1.num fun sh => { sh with diverged := false, repair := none }) s
  s.modJob j.id fun j => { j with train := { j.train with diverged := 0 }, fixSent := none, repairs := none }

/-- Why a FIX or RESTORE is refused at its fields: its device object or host region (R335). A POISONED object takes no write but a whole
one (R192), nor does a sealed one (R361). -/
def fixPlaceError (s : State) (j : Job) (f : Flight) (n : Nat) (write : Bool) : Option (BitVec 8 × Nat) :=
  if 1 < f.arg 8 1 then some (Status.invalidField, 8)
  else if f.arg 16 8 % 64 ≠ 0 then some (Status.invalidField, 16)
  else if f.arg 8 1 = 0 then
    match s.obj? (f.arg 12 4) with
    | some o =>
      let part := f.arg 16 8 != 0 || decide (n < o.len)
      if o.home ≠ .flash then some (Status.notFound, 12)
      else if s.sealedObj (f.arg 12 4) o && (!write || part) then some (Status.notPermitted, 0x09)
      else if write && o.mode == .poisoned && part then some (Status.poisoned, 0)
      else if write && decide (s.flashUsable < s.flashUsed + Word.roundUp n unitBytes ∨ s.flashUsable < f.arg 16 8 + n) then
        some (Status.noResource, 4)
      else none
    | none => some (Status.notFound, 12)
  else if regionHolds j.regions (f.arg 9 1) (f.arg 16 8) n write then none
  else some (Status.mapViolation, 16)

/-- Host address of a FIX or RESTORE with DEST = 1. -/
def fixAddr (j : Job) (f : Flight) : Nat := regionAddr j (f.arg 9 1) (f.arg 16 8)

/-- The destination of a FIX whose host access failed (R314): a flash object keeps its previous generation. What the FIX had begun ends with
it. -/
def spoilFix (s : State) (f : Flight) : State :=
  match s.job? f.job with
  | some j =>
    let s := if j.fixSent = some f.n then s.dropRepairs j.id else s
    if f.arg 8 1 = 1 ∧ s.fixPlaceError j f (fixLen j) true = none then s.spoilRange (fixAddr j f) (fixLen j) else s
  | none => s

/-- A FIX ends without its fix, and what it had begun with it. -/
def refuseFix (s : State) (q : Nat) (f : Flight) (j : Job) (status : BitVec 8) (detail : Nat) : State :=
  (if j.fixSent = some f.n then s.dropRepairs j.id else s).refuse q f status detail

/-- A fix whose bytes have been read is written, or, where they read poisoned, fails: no generation commits, and a host destination holds
undefined bytes (R314, Table 8-3). -/
def writeFix (s : State) (q : Nat) (f : Flight) (j : Job) (cs : List Cell) : State :=
  let onFlash := f.arg 8 1 = 0
  if anyPoison cs then
    (if onFlash then s else (s.hostWrite (fixAddr j f) cs).spoilRange (fixAddr j f) cs.length).refuse q f Status.poisoned 0
  else
    (if onFlash then s.objNewBytes (f.arg 12 4) (f.arg 16 8) cs else s.hostWrite (fixAddr j f) cs).finishOk q f 0 j.train.step

/-- Objects that a FIX reads or writes. -/
def fixObjs (j : Job) (f : Flight) : List Nat := (if f.arg 8 1 = 0 then [f.arg 12 4] else []) ++ stateObjs j

/-- References on an object that commands other than FIX hold while they wait. -/
def readerHolds (s : State) (oid : Nat) : Nat :=
  (((List.range 8).flatMap fun q => (s.queue q).flights.flatMap fun g => if g.opc == 0x2A then [] else g.holds)).count oid

/-- A FIX must wait: for earlier steps of its job (R331), for the references and the writes of its destination (R168), or for a state
object that is being written whole (R327). -/
def fixHeld (s : State) (j : Job) (f : Flight) : Bool :=
  !j.steps.isEmpty || s.someWriting (stateObjs j) ||
  (f.arg 8 1 == 0 && (match s.obj? (f.arg 12 4) with
    | some o => decide (o.refs + s.readerHolds (f.arg 12 4) ≠ 0) || !o.writes.isEmpty
    | none => false))

/-- The repairs of a FIX have begun: once all have come, and no flash die holds its writes back (R163), the shards take them and the fix is
written (R331). -/
def fixGoOn (s : State) (x : Env) (q : Nat) (f : Flight) (job : BitVec 16) (list : List Byte) : State :=
  match s.job? job with
  | none => s
  | some j =>
    let rs := j.repairs.getD []
    if rs.any fun r => r.bytes.isNone then s
    else
      let (ready, s) := s.flashBegin
        ((if f.arg 8 1 = 0 then [(f.arg 16 8, fixLen j)] else []) ++ (repairsTaken j rs).flatMap fun p => shardSpans p.1)
      if !ready then s
      else
        let s := s.repairShards j rs list
        match s.job? job with
        | none => s
        | some j =>
          let (cs, s) := s.fixCells x j
          s.writeFix q f j cs

/-- The digests of every replica have come (R140, R332): one of another STEP ends the FIX, else they are compared and the repairs begin. -/
def fixCompare (s : State) (peers : List PeerDigests) (x : Env) (q : Nat) (f : Flight) (j : Job) (list : List Byte) : State :=
  match peers.find? fun p => p.step != j.train.step with
  | some p =>
    let port := (nextPort s.dim s.node p.node s.node).getD 0xFF
    let s := s.event 0x0022 0x09 port true 0xFF j.id.toNat
      (Bytes.ofNat 8 j.train.step.toNat ++ Bytes.ofNat 8 p.step.toNat ++ Bytes.ofNat 2 p.node.toNat)
    s.refuseFix q f j Status.fabricLost port
  | none =>
    let s := if j.replicas.length ≤ 1 then s else s.compareDigests j.id j.train.step peers
    match s.job? j.id with
    | none => s
    | some j =>
      if j.shards.any fun sh => sh.diverged && (sourceFor list sh.num).isNone then s.refuseFix q f j Status.failed 0x0701
      else (s.openRepairs x j peers list (some (Fin.ofNat 8 q, f.tag))).fixGoOn x q f j.id list

/-- Whether the stream of a repair is in use, so that the FIX must wait for it. -/
def repairBusy (s : State) (j : Job) : Bool := j.shards.any fun sh => (s.stream? (j.id + sh.num)).isSome

/-- FIX: refused at its fields, waiting for its job's steps, for the digests of its replicas and for its repairs, or taken. While it waits it
holds references on the objects that it names (R166); its digest exchange begins only in an epoch that goes on (R240). -/
def fixCmd (s : State) (peers : List PeerDigests) (x : Env) (q : Nat) (f : Flight) : State :=
  s.withJob q f true fun j =>
    let len := if f.arg 24 8 = 0 then 0 else f.arg 32 4
    let list := s.hostBytes (f.arg 24 8) len
    match s.fixPlaceError j f (fixLen j) true with
    | some (st, d) => s.refuseFix q f j st d
    | none =>
      if f.arg 24 8 % 64 ≠ 0 then s.refuseFix q f j Status.invalidField 24
      else if len % 8 ≠ 0 ∨ 32768 < len then s.refuseFix q f j Status.invalidField 32
      else
        match sourceError j list with
        | some o => s.refuseFix q f j Status.invalidField (0x8000 + o)
        | none =>
          if s.sealedState (j.shards.flatMap fun sh => sh.descs) then s.refuseFix q f j Status.notPermitted 0x09
          else
            let s := s.holdObjs q f (fixObjs j f)
            if s.fixHeld j f then s
            else if j.repairs.isSome then s.fixGoOn x q f j.id list
            else if j.fixSent ≠ some f.n ∧ (s.fab.reshard.isSome ∨ s.repairBusy j = true) then s
            else
              let s := if j.fixSent = some f.n then s
                else (s.modJob j.id fun j => { j with fixSent := some f.n, fixAt := s.ns }).sendDigests j.id j.train.step
              if !s.peersCover j peers then s else s.fixCompare peers x q f { j with fixSent := some f.n } list

/-! ## RESTORE (R336) -/

/-- `n` cells of a fix at its source. -/
def fixSource (s : State) (x : Env) (j : Job) (f : Flight) (n : Nat) : List Cell × State :=
  if f.arg 8 1 = 0 then
    match s.obj? (f.arg 12 4) with
    | some o => s.objCells x (f.arg 12 4) o (f.arg 16 8) n
    | none => ([], s)
  else (cleanCells (s.hostBytes (fixAddr j f) n), s)

/-- Whether bytes of a fix pass its digest (R336). -/
def fixDigestOk (b : List Byte) : Bool :=
  Bytes.field b 0 4 == 0x58464C47 && Bytes.field b 4 2 == 1 && Bytes.field b 16 8 == b.length &&
  Config.sha384 (b.take 128 ++ Bytes.zeros 48 ++ b.drop 176) == BitVec.ofNat 384 (Bytes.field b 128 48)

/-- Offset in a part of each descriptor's export, with the descriptor. -/
def descOffsets : Nat → List UpdDesc → List (Nat × UpdDesc)
  | _, [] => []
  | o, d :: ds => (o, d) :: descOffsets (o + d.exportLen false) ds

/-- Offset of a shard's part in a fix, from its directory. -/
def partAt (b : List Byte) (n : Nat) (num : BitVec 16) : Option Nat :=
  ((List.range n).find? fun i => Bytes.field b (256 + 16 * i) 2 == num.toNat).map fun i => Bytes.field b (256 + 16 * i + 8) 8

/-- Whether a fix matches a loaded job (R336). -/
def fixMatches (j : Job) (b : List Byte) : Bool :=
  Bytes.field b 6 2 == j.shards.length && (trainOf (Bytes.slice b 64 64)).rule == j.params.rule &&
  j.shards.all fun sh =>
    match partAt b j.shards.length sh.num with
    | none => false
    | some o =>
      Bytes.field b (o + 8) 4 == sh.descs.length && decide (o + fixPartLen j.params.rule sh ≤ b.length) &&
      (descOffsets (o + 128) sh.descs).all fun p =>
        Bytes.slice b p.1 18 == (p.2.exportHeader false 0).take 18

/-- Write the state arrays of a descriptor from a fix, and its forward copy from its masters (R128, R336). -/
def restoreDesc (s : State) (j : Job) (b : List Byte) (o : Nat) (d : UpdDesc) : State :=
  let (_, s) := d.stateSections.foldl
    (fun (p : Nat × State) a =>
      let (o, s) := p
      let bs := Bytes.slice b o a.2
      (o + up64 a.2,
       s.putArray d a.1 (cleanCells bs)))
    (o + 64, s)
  if d.f8En then
    let vals := (Bytes.chunks 5 (Bytes.slice b (o + 64) (5 * d.count))).map fun c => NumFmt.m40.decode (Bytes.toNat c)
    let (f8, sc) := forwardCopy d.vecLay vals
    (s.store Tbl.empty (slotAddr j.copies false d.f8dst) (cleanCells f8)).store Tbl.empty (slotAddr j.copies false d.f8sdst) (cleanCells sc)
  else s

/-- The stored forward copies of a shard under TWO_OLD go into the other slot (R336). -/
def restoreCopies (s : State) (j : Job) (b : List Byte) : Nat → List UpdDesc → State
  | _, [] => s
  | o, d :: ds =>
    let s := if d.f8En then
        (s.store Tbl.empty (slotAddr j.copies true d.f8dst) (cleanCells (Bytes.slice b o d.count))).store Tbl.empty
          (slotAddr j.copies true d.f8sdst) (cleanCells (Bytes.slice b (o + up64 d.count) (d.count / 32)))
      else s
    restoreCopies s j b (o + d.copyLen) ds

/-- A job takes the state of a fix that has passed its checks. -/
def restoreJob (s : State) (j : Job) (b : List Byte) : State :=
  let s := j.shards.foldl
    (fun s sh =>
      match partAt b j.shards.length sh.num with
      | none => s
      | some o =>
        let s := (descOffsets (o + 128) sh.descs).foldl (fun s p => s.restoreDesc j b p.1 p.2) s
        let s := if j.params.rule = 2 then s.restoreCopies j b (o + shardLen sh false) sh.descs else s
        let d := BitVec.ofNat 64 (Bytes.field b (o + 16) 8)
        s.modShard j.id sh.num fun sh => { sh with digest := d, newDigest := d, diverged := false, repair := none })
    s
  s.modJob j.id fun j =>
    { j with train := trainOf (Bytes.slice b 64 64), newest := false, older := j.params.rule == 2
             sBar := BitVec.ofNat 64 (Bytes.field b 32 8), tBar := BitVec.ofNat 64 (Bytes.field b 40 8) }

/-- RESTORE (R336). It waits, with a reference on it, for a source object that is WRITING (R166, R327), and for flash dies that hold writes
back (R163). -/
def restoreCmd (s : State) (x : Env) (q : Nat) (f : Flight) : State :=
  s.withJob q f true fun j =>
    match s.fixPlaceError j f 256 false with
    | some (st, d) => s.refuse q f st d
    | none =>
      if j.submitted then s.refuse q f Status.inUse 6
      else
        let s := s.holdObjs q f (fixObjs j f)
        if f.arg 8 1 = 0 ∧ s.someWriting [f.arg 12 4] = true then s
        else
          let (head, s1) := s.fixSource x j f 256
          let n := Bytes.field (cellBytes head) 16 8
          let room := match s.obj? (f.arg 12 4) with
            | some o => if f.arg 8 1 = 0 then o.len else (j.regions.get Region.absent (f.arg 9 1)).len
            | none => (j.regions.get Region.absent (f.arg 9 1)).len
          if anyPoison head then s1.refuse q f Status.poisoned 0
          else if n < 256 ∨ room < f.arg 16 8 + n then s1.refuse q f Status.failed 0x0702
          else
            let (cs, s) := s1.fixSource x j f n
            let b := cellBytes cs
            if anyPoison cs then s.refuse q f Status.poisoned 0
            else if !fixDigestOk b then s.refuse q f Status.failed 0x0702
            else if !fixMatches j b then s.refuse q f Status.failed 0x0703
            else
              let (ready, s) := s.flashBegin (j.shards.flatMap shardSpans)
              if ready then (s.restoreJob j b).finishOk q f 0 (trainOf (Bytes.slice b 64 64)).step else s

/-- RESTORE does not start while a FIX of its job is open (R331). -/
def restoreWaits (s : State) (t : Tag) : Bool :=
  match s.flightOf t with
  | some (_, f) => !f.started && (match s.job? f.job with | some j => s.fixOpen j | none => false)
  | none => false

/-! ## DMA (R299, R308) -/

/-- Why a DMA of some work is refused at its fields. -/
def dmaError (s : State) (work : BitVec 16) (f : Flight) : Option (BitVec 8 × Nat) :=
  let out := f.arg 8 1 == 1
  if 1 < f.arg 8 1 then some (Status.invalidField, 8)
  else if f.arg 32 8 = 0 then some (Status.invalidField, 32)
  else if !regionHolds (s.regionsOf work) (f.arg 9 1) (f.arg 16 8) (f.arg 32 8) out then some (Status.mapViolation, 16)
  else if !s.permitted work (f.arg 24 6) (f.arg 32 8) (!out) then some (Status.mapViolation, 24)
  else none

/-- Host address of a DMA. -/
def dmaHost (s : State) (work : BitVec 16) (f : Flight) : Nat :=
  ((s.regionsOf work).get Region.absent (f.arg 9 1)).hbase.toNat + f.arg 16 8

/-- The destination of a DMA whose host access failed (R314). -/
def spoilDma (s : State) (f : Flight) : State :=
  if s.dmaError f.job f ≠ none then s
  else if f.arg 8 1 = 1 then s.spoilRange (s.dmaHost f.job f) (f.arg 32 8)
  else
    let (bs, s) := s.drawBytes (f.arg 32 8)
    s.store (s.regionsOf f.job) (f.arg 24 6) (cleanCells bs)

/-- DMA between a region and the work's device addresses (R170, R172): it waits for its slots, the short path's for 256 bytes or less. -/
def dmaCmd (s : State) (x : Env) (q : Nat) (f : Flight) : State :=
  s.withWork q f fun work =>
    let rs := s.regionsOf work
    let out := f.arg 8 1 == 1
    let a := f.arg 24 6
    let n := f.arg 32 8
    let ha := s.dmaHost work f
    match s.dmaError work f with
    | some (st, d) => s.refuse q f st d
    | none =>
    if !s.slotsFree (.host (smallTransfer n) :: (if out then s.addrSlots a n else [])) then s
    else if out then
      let (cs, s) := s.load x rs a n
      let s := s.hostWrite ha cs
      match firstPoison cs a with
      | some p => s.finish q f Status.poisoned 0 0 (BitVec.ofNat 64 (p - a))
      | none => s.finishOk q f 0 0
    else (s.store rs a (cleanCells (s.hostBytes ha n))).finishOk q f 0 0

/-! ## FENCE (R316) -/

/-- Every earlier command of a fence's stream has completed. -/
def fenceReady (s : State) (t : Tag) : Bool :=
  match s.flightOf t with
  | some (q, f) => (s.queue q).waiting.isEmpty && (s.queue q).flights.all fun g => decide (f.n ≤ g.n)
  | none => false

/-- FENCE: it tells how many commands failed since the fence before it. Its JOB names a loaded job or group, or is 0xFFFF
(R294, R300, R309). -/
def fenceCmd (s : State) (q : Nat) (f : Flight) : State :=
  let fence := (s.modQueue q fun h => { h with fenceFails := 0 }).finishOk q f (BitVec.ofNat 32 (s.queue q).fenceFails) 0
  if f.job = 0xFFFF then fence else s.withWork q f fun _ => fence

end State

/-! ## Meanings -/

/-- FENCE (R316). -/
def execFence (t : Tag) (s : State) : Host.Outcome State Fault Refusal :=
  if s.fenceReady t then .next (s.runCmd t 0x25 false State.fenceCmd) else .next s

/-- DMA (R299, R308). -/
def execDma (t : Tag) (x : Env) (s : State) : Host.Outcome State Fault Refusal := .next (s.runAgain t 0x26 x (fun s => s.dmaCmd x) State.spoilDma)

/-- FIX (R331 to R335). -/
def execFix (t : Tag) (peers : List PeerDigests) (x : Env) (s : State) : Host.Outcome State Fault Refusal :=
  .next (s.react (s.runAgain t 0x2A x (fun s => s.fixCmd peers x) State.spoilFix))

/-- RESTORE (R336). -/
def execRestore (t : Tag) (x : Env) (s : State) : Host.Outcome State Fault Refusal :=
  if s.restoreWaits t then .next s else .next (s.runAgain t 0x2B x fun s => s.restoreCmd x)

/-- EXPORT (R143). -/
def execExportState (t : Tag) (x : Env) (s : State) : Host.Outcome State Fault Refusal :=
  if s.exportWaits t then .next s else .next (s.runAgain t 0x2C x (fun s => s.exportCmd x) State.spoilExport)

end Sys2Proof.Machine
end

