-- ==== Sys2Proof/Machine/Helm.lean ====
section
/-!
DEFINITION. Operating points, the Helm controller, droop, the power alert and thermal limits (chapter 11, R387 to R408).
Powers are milliwatts and exact fractions of them, so the rules' formulas are computed as they stand.
-/
namespace Sys2Proof.Machine

/-- Arith frequency of an operating point in MHz (Table 11-2). -/
def pointMHz (k : Nat) : Nat := 350 + 70 * k

/-- Highest core supply voltage of an operating point in millivolts (Table 11-2). -/
def pointMilliVolts (k : Nat) : Nat :=
  [600, 620, 630, 650, 660, 680, 690, 710, 720, 740, 750, 770, 790, 810, 830, 850].getD k 850

/-- The voltage of an operating point on this module, as the fuses trim it (R389). -/
def trimmedMilliVolts (k : Nat) : Nat := pointMilliVolts k - Config.trimMilliVolts k % 31

/-- Whether a phase permits a PASS (Table 1-8). -/
def phaseHasPass (p : Nat) : Bool :=
  let c := BitVec.ofNat 3 p
  phaseMode c .outer || phaseMode c .statRow || phaseMode c .statCol

/-- Parts of THERMAL records (Table 12-7): the dies in the order of Table 11-7, the DIMMs, the flash packages. Limits of
Table 11-5, lowest first. -/
def partLimits (i : Nat) : List Nat :=
  if i < 22 then [95, 105]
  else if i < 30 then [100]
  else if i < 38 then [80, 88]
  else if i < 40 then [100]
  else if i < 56 then [85, 90, 95]
  else [70, 80]

/-- Whether the thermal action `k` of a part is in force at temperature `t`, when it was (`old`) before (R405): a throttle limit
releases 3 °C below the temperature at which it acts, and the harder limits when the temperature is below them. -/
def thermalActs (i k t : Nat) (old : Bool) : Bool :=
  let lim := (partLimits i).getD k 1000
  decide (lim ≤ t) || (old && k == 0 && decide (lim < t + 3))

/-- One die's place in a decision of Helm. -/
structure Seat where
  die   : Nat
  phase : Nat
  head  : Nat
  low   : Nat
  point : Nat
  deriving DecidableEq, Repr

namespace State

/-- Helm runs on pilot 3 while the pilot firmware runs: from start-up step 7 on (Table 10-1, R394). -/
def helmRuns (s : State) : Bool :=
  s.power.rails &&
  (s.bar.mode == .ready || s.bar.mode == .resetting || (s.bar.mode == .booting && decide (7 ≤ s.bar.bootStep.toNat)))

/-- A record of Helm's: pilot 3 (Table 12-7). -/
def helmEvent (s : State) (code : Nat) (host : Bool) (payload : List Byte) : State := s.event code 0x11 3 host 3 0xFFFF payload

/-- POINT and MIN of a phase. -/
def heading (s : State) (p : Nat) : Nat := (vget 0 s.helm.point p).toNat
/-- MIN of a phase. -/
def headMin (s : State) (p : Nat) : Nat := (vget 0 s.helm.minPt p).toNat

/-- A die's target point and the phase that gives it (R393); equal headings go to the lower phase code. -/
def dieTarget (s : State) (d : Nat) : Nat × Nat :=
  let phases := (List.range 8).filterMap fun i =>
    let r := (s.core (8 * d + i)).regs
    if r.mode = .run then some r.phase.toNat else none
  match phases with
  | [] => (s.heading 0, 0)
  | p :: ps => ps.foldl (fun b q =>
      if b.1 < s.heading q ∨ (b.1 = s.heading q ∧ q < b.2) then (s.heading q, q) else b) (s.heading p, p)

/-- Compute dies in service. -/
def diesUp (s : State) : List Nat := (List.range 22).filter fun d => (s.die d).inService

/-! ## Power -/

/-- Average over the last complete window of a quantity that its samples sum (R396). -/
def windowAvg (s : State) (sum : Nat) : Frac := if s.helm.lastCount = 0 then Frac.zero else Frac.quot sum s.helm.lastCount

/-- Sum of the compute dies' readings. -/
def computeSum (r : PowerReading) : Nat := r.compute.foldl (· + ·) 0

/-- module_room of R396. -/
def moduleRoom (s : State) : Frac :=
  let h := s.helm.last
  let rails := h.dimm + h.flash + h.other + computeSum h
  let loss := Frac.sub (s.windowAvg h.input) (s.windowAvg rails)
  Frac.sub (Frac.ofNat 1200000) (Frac.add (s.windowAvg (h.dimm + h.flash)) loss)

/-- The compute budget of R396. -/
def helmBudget (s : State) : Frac :=
  Frac.sub (Frac.sub (Frac.min (Frac.ofNat 850000) s.moduleRoom) (Frac.ofNat 10000)) (s.windowAvg s.helm.last.other)

/-- The updated point of a phase that is nearest to `k`, the lower of two as near (R397). -/
def nearestPoint (s : State) (d p k : Nat) : Option Nat :=
  ((List.range 16).filter fun j => ((s.die d).learned.find? (16 * p + j)).isSome).foldl
    (fun b j =>
      match b with
      | none => some j
      | some i => if max j k - min j k < max i k - min i k then some j else b)
    none

/-- Predicted power of die `d` in phase `p` at point `k` (R397): its updated entry, else the nearest updated entry of the phase
scaled, else what the fuses hold. -/
def predict (s : State) (d p k : Nat) : Frac :=
  let fuse (j : Nat) : Frac := Frac.ofNat (Config.fuseMilliWatts p j)
  match s.nearestPoint d p k with
  | none => fuse k
  | some j =>
    let e := ((s.die d).learned.find? (16 * p + j)).getD (fuse j)
    if j = k then e
    else
      let v := Frac.quot (pointMilliVolts k) (pointMilliVolts j)
      Frac.mul (Frac.mul e (Frac.quot (pointMHz k) (pointMHz j))) (Frac.mul v v)

/-- Predicted sum of the seats. -/
def predictSum (s : State) (seats : List Seat) : Frac :=
  seats.foldl (fun a x => Frac.add a (s.predict x.die x.phase x.point)) Frac.zero

/-- Slack of a phase (R398). A phase with no RUN cycle in the last window has no share that the rule gives: its slack is free. -/
def slack (s : State) (p : Nat) : Frac :=
  let run := ((List.range 22).map fun d => (s.die d).lastRun.get 0 p).foldl (· + ·) 0
  let real := ((List.range 22).map fun d => (s.die d).lastReal.get 0 p).foldl (· + ·) 0
  if !phaseHasPass p then Frac.ofNat 1
  else if run = 0 then Frac.quot (Config.freeNat (s.free + p) % 1001) 1000
  else Frac.quot (run - real) run

/-- Whether phase `p` is lowered before phase `q` (R398): more slack, then the lower heading, then the lower code. -/
def lowersFirst (s : State) (p q : Nat) : Bool :=
  Frac.lt (s.slack q) (s.slack p) ||
  (s.slack p == s.slack q && (decide (s.heading p < s.heading q) || (s.heading p == s.heading q && decide (p < q))))

/-- The phase to lower next: among the phases with a seat above its floor. -/
def lowerPhase (s : State) (seats : List Seat) (floor : Seat → Nat) : Option Nat :=
  (seats.filter fun x => decide (floor x < x.point)).foldl
    (fun b x =>
      match b with
      | none => some x.phase
      | some p => if s.lowersFirst x.phase p then some x.phase else b)
    none

/-- Lower one phase at a time, every die of it by one point, until the sum fits or every seat is at its floor (R398). -/
def lowerUntil (s : State) (budget : Frac) (floor : Seat → Nat) : Nat → List Seat → List Seat
  | 0, seats => seats
  | fuel + 1, seats =>
    if Frac.le (s.predictSum seats) budget then seats
    else
      match s.lowerPhase seats floor with
      | none => seats
      | some p =>
        lowerUntil s budget floor fuel
          (seats.map fun x => if x.phase = p ∧ floor x < x.point then { x with point := x.point - 1 } else x)

/-- The seat to raise (R398): the die furthest below its target, in the reverse of the order of lowering. -/
def raiseSeat (s : State) (seats : List Seat) : Option Seat :=
  (seats.filter fun x => decide (x.point < x.head)).foldl
    (fun b x =>
      match b with
      | none => some x
      | some y =>
        let gx := x.head - x.point
        let gy := y.head - y.point
        if gy < gx ∨ (gx = gy ∧ s.lowersFirst y.phase x.phase = true) then some x else b)
    none

/-! ## Changes of point (R390, R391) -/

/-- A die that the power alert still holds at its lowest state (R404). -/
def alertHeld (s : State) (d : Nat) : Bool :=
  s.alerted || s.power.alertWait.isSome || (match s.power.returning with | some k => decide (k ≤ d) | none => false)

/-- Whether a change of point may not start on die `d` (R391). -/
def changeBlocked (s : State) (d : Nat) (raises : Bool) : Bool :=
  let c := s.die d
  c.droopOn || decide (s.ns < c.droopClear) || s.alerted || (raises && c.throttlePt.isSome)

/-- Start a change: raising slews the voltage first, lowering relocks first (R390). -/
def startChange (s : State) (d : Nat) (t : BitVec 4) : State :=
  s.modDie d fun c =>
    if c.point < t then { c with change := some (.slewUp t), pendingPt := none }
    else { c with change := some (.relock t), fabricClk := true, pendingPt := none }

/-- Ask die `d` for a point: a running change completes first, and a blocked one waits (R391). -/
def requestPoint (s : State) (d : Nat) (t : BitVec 4) : State :=
  let c := s.die d
  if s.alertHeld d then s
  else
    match c.change with
    | some ch =>
      let aim := match ch with | .slewUp u => u | .relock u => u | .slewDown u => u
      s.modDie d fun c => { c with pendingPt := if aim = t then none else some t }
    | none =>
      if c.point = t then s.modDie d fun c => { c with pendingPt := none }
      else if s.changeBlocked d (decide (c.point < t)) then s.modDie d fun c => { c with pendingPt := some t }
      else s.startChange d t

/-- A completed change makes way for the target that waits. -/
def nextChange (s : State) (d : Nat) : State :=
  match (s.die d).pendingPt with
  | some t => s.requestPoint d t
  | none => s

/-- The point that every defence together permits a die (R407). -/
def diePoint (c : ComputeDie) : BitVec 4 :=
  if c.critical then 0
  else match c.throttlePt with | some t => if t < c.chosen then t else c.chosen | none => c.chosen

/-! ## The power alert (R404) -/

/-- Limits of memory, flash and optical dies: the alert and the thermal actions in force (Tables 11-4, 11-5). -/
def setLimits (s : State) : State :=
  let a := s.alerted
  let th (i k : Nat) : Bool := s.helm.thermal.get false (4 * i + k)
  [0, 1, 2, 3].foldl
    (fun s i =>
      let s := s.modMem i fun d => { d with limited := a || th (22 + i) 0 }
      let s := s.modFlash i fun d => { d with limited := a || th (26 + i) 0 || th (56 + i) 1 }
      s.modEngine i fun e =>
        { e with thermal := if th (30 + i) 1 || th (34 + i) 1 then 2 else if a || th (30 + i) 0 || th (34 + i) 0 then 1 else 0 })
    s

/-- Every compute die takes the state of Table 11-4: 350 MHz from the fabric loop, the voltage of point 0; a running relock
goes on. -/
def alertDies (s : State) : State :=
  { s with dies := s.dies.map fun c =>
      { c with
        fabricClk := true
        point := 0
        pendingPt := none
        change := match c.change with | some (.relock t) => some (.relock t) | _ => none } }

/-- Helm counts an assertion of PWR_ALERT_N and records it, or a deassertion (R404). -/
def alertRecord (s : State) (on : Bool) : State :=
  (if on then s.modHelm fun h => { h with alertCnt := Word.satInc h.alertCnt } else s).helmEvent 0x61 true [Bytes.byte (Bytes.ofBool on)]

/-- A change of PWR_ALERT_N is recorded, or waits until Helm runs. -/
def alertEdge (s : State) (on : Bool) : State :=
  if s.helmRuns then s.alertRecord on else s.modPower fun p => { p with alertEdges := p.alertEdges ++ [on] }

/-- Helm begins to run (R394): it records what became of PWR_ALERT_N before. -/
def helmStarts (s : State) : State := s.power.alertEdges.foldl alertRecord (s.modPower fun p => { p with alertEdges := [] })

/-- PWR_ALERT_N at the package becomes asserted. -/
def alertOn (s : State) : State :=
  if !s.power.rails || s.power.tripped then s
  else
    let s := s.modPower fun p => { p with alertWait := none, returning := none }
    s.alertDies.setLimits.alertEdge true

/-- PWR_ALERT_N at the package becomes deasserted: Helm waits 1 ms. -/
def alertOff (s : State) : State :=
  if !s.power.rails || s.power.tripped then s
  else
    (s.modPower fun p => { p with alertWait := some s.ns }).setLimits.alertEdge false

/-- An input of PWR_ALERT_N changes: the package sees the OR of them (R431). -/
def alertInput (s : State) (f : Power → Power) : State :=
  let t := s.modPower f
  if t.alerted && !s.alerted then t.alertOn
  else if s.alerted && !t.alerted then t.alertOff
  else t

/-- Helm returns the next die to its own loop and its chosen point by the raising procedure, one die a decision (R404); a die above its thermal
throttle limit returns to its own loop, and is not raised until it is below it (R391). -/
def returnNext (s : State) : State :=
  match s.power.returning with
  | none => s
  | some k =>
    match s.diesUp.find? fun d => decide (k ≤ d) with
    | none => s.modPower fun p => { p with returning := none }
    | some d =>
      if s.changeBlocked d false || (s.die d).change.isSome then s
      else
        let s := s.modDie d fun c => { c with change := some (.slewUp (if c.throttlePt.isSome then c.point else diePoint c)) }
        s.modPower fun p => { p with returning := if s.diesUp.all fun e => decide (e ≤ d) then none else some (d + 1) }

/-! ## Decisions, samples, windows -/

/-- The seats of a decision (R393, R400): a die whose heading or phase has changed starts at its heading. -/
def seats (s : State) : List Seat :=
  s.diesUp.map fun d =>
    let c := s.die d
    let (t, p) := s.dieTarget d
    { die := d, phase := p, head := t, low := s.headMin p
      point := if t ≠ c.target.toNat ∨ p ≠ c.phaseAt.toNat then t else min c.chosen.toNat t }

/-- Helm's decision (R396, R398): the seats, and L_max. How far L_max must fall for the sum to fit the rule does not say: any lower level. -/
def decide' (s : State) (budget : Frac) : List Seat × Nat :=
  let xs := s.seats
  let now := (s.die (s.diesUp.headD 0)).lmaxHelm
  let sum := s.predictSum xs
  if !Frac.le sum budget then
    let xs := s.lowerUntil budget (fun x => min x.low x.head) 400 xs
    let xs := s.lowerUntil budget (fun _ => 0) 400 xs
    if Frac.le (s.predictSum xs) budget then (xs, now) else (xs, 1 + Config.freeNat (s.free + 8) % max 1 (now - 1))
  else if Frac.le sum (Frac.mul budget (Frac.quot 98 100)) then
    if now < 8 then (xs, now + 1)
    else
      match s.raiseSeat xs with
      | some y => (xs.map fun x => if x.die = y.die then { x with point := x.point + 1 } else x, now)
      | none => (xs, now)
  else (xs, now)

/-- A new heading table is in force from a decision on (R392). -/
def takeTable (s : State) : State :=
  s.modHelm fun h => match h.table with | some t => { h with point := t.1, minPt := t.2, table := none } | none => h

/-- HELM_DECISION (R392, R394 to R398, R404). -/
def helmDecide (s : State) : State :=
  if !s.helmRuns then s
  else
    let s := s.takeTable
    let budget := s.helmBudget
    let mod := Frac.lt s.moduleRoom (Frac.ofNat 850000)
    let (xs, lmax) := s.decide' budget
    let shares := xs.map fun x => (x, s.predict x.die x.phase x.point)
    let s := { s with free := s.free + 9 }
    let s := s.modHelm fun h =>
      { h with budget := budget, limitMod := mod, limitedCnt := if mod then Word.satInc h.limitedCnt else h.limitedCnt }
    let s := shares.foldl
      (fun s p =>
        s.modDie p.1.die fun c =>
          { c with
            chosen := BitVec.ofNat 4 p.1.point, target := BitVec.ofNat 4 p.1.head, phaseAt := BitVec.ofNat 3 p.1.phase
            phaseMoved := false, burstShare := p.2, burstSeen := false, lmaxBurst := false, lmaxHelm := lmax })
      s
    let s := s.returnNext
    s.diesUp.foldl (fun s d => s.requestPoint d (diePoint (s.die d))) s

/-- Add two readings. -/
def addReading (x y : PowerReading) : PowerReading :=
  { input := x.input + y.input, dimm := x.dimm + y.dimm, flash := x.flash + y.flash, other := x.other + y.other
    compute := (List.range 22).map fun d => x.compute.getD d 0 + y.compute.getD d 0 }

/-- Dies in service that are in phase `p`. -/
def diesIn (s : State) (p : Nat) : List Nat := s.diesUp.filter fun d => (s.dieTarget d).2 == p

/-- Lowest point among the dies of a phase. -/
def lowestPoint (s : State) (p : Nat) : Option Nat :=
  match s.diesIn p with
  | [] => none
  | d :: ds => some (ds.foldl (fun m e => min m (s.die e).point.toNat) (s.die d).point.toNat)

/-- Whether a phase runs below its heading. -/
def phaseBelow (s : State) (p : Nat) : Bool :=
  match s.lowestPoint p with
  | some k => decide (k < s.heading p)
  | none => false

/-- Why a phase is below its heading (R399): 0 CAP, 1 MODULE, 2 THERMAL, 3 ALERT. -/
def shortCause (s : State) (p : Nat) : Nat :=
  if (s.diesIn p).any s.alertHeld then 3
  else if (s.diesIn p).any fun d => decide (diePoint (s.die d) < (s.die d).chosen) then 2
  else if s.helm.limitMod then 1 else 0

/-- A shortfall of the cap or the module has taken a phase below its MIN (R399). -/
def underMin (s : State) (p : Nat) : Bool := decide (s.shortCause p < 2) && decide ((s.lowestPoint p).getD 15 < s.headMin p)

/-- A sample of 10 µs: ten readings (R408). -/
def pushFine (s : State) : State :=
  if s.helm.fineCount < 10 then s
  else
    s.modHelm fun h =>
      let pack := Frac.round (Frac.quot h.finePack (100 * h.fineCount))
      let inp := Frac.round (Frac.quot h.fineInput (100 * h.fineCount))
      let e := BitVec.ofNat 64 (s.ns / 10000 % 2 ^ 32 + pack % 65536 * 2 ^ 32 + inp % 65536 * 2 ^ 48)
      { h with fine := (h.fine ++ [e]).drop (h.fine.length + 1 - 1024), fineCount := 0, finePack := 0, fineInput := 0 }

/-- HELM_SAMPLE (R394, R399, R400). -/
def helmTakes (s : State) (r : PowerReading) : State :=
  if !s.helmRuns then s
  else
    let s := s.modHelm fun h =>
      { h with
        sum := addReading h.sum r, count := h.count + 1
        fineCount := h.fineCount + 1
        finePack := h.finePack + computeSum r + r.other
        fineInput := h.fineInput + r.input
        shortfall := h.shortfall.mapIdx fun p f =>
          { f with below := f.below && s.phaseBelow p, belowMin := (f.belowMin || s.underMin p) && (f.active || s.phaseBelow p) } }
    let s := s.pushFine
    s.diesUp.foldl
      (fun s d =>
        let (_, p) := s.dieTarget d
        s.modDie d fun c =>
          let ended := c.phaseMoved && Frac.lt (Frac.mul c.burstShare (Frac.quot 12 10)) (Frac.ofNat (r.compute.getD d 0))
          { c with
            lmaxBurst := c.lmaxBurst || c.burstSeen
            burstSeen := c.burstSeen || ended
            onePhase := if c.onePhase = some (BitVec.ofNat 3 p, c.point) then c.onePhase else none })
      s

/-- The learned power of a die that spent the window in one phase at one point (R397). -/
def learn (s : State) (d : Nat) : State :=
  match (s.die d).onePhase with
  | none => s
  | some (p, k) =>
    let i := 16 * p.toNat + k.toNat
    let old := ((s.die d).learned.find? i).getD (Frac.ofNat (Config.fuseMilliWatts p.toNat k.toNat))
    let got := s.windowAvg (s.helm.last.compute.getD d 0)
    let new := Frac.add old (Frac.mul (Frac.sub got old) (Frac.quot 1 8))
    s.modDie d fun c => { c with learned := c.learned.put i new }

/-- A HEADING_SHORTFALL record (Table 12-7). -/
def shortRecord (s : State) (p : Nat) (f : Shortfall) (ends : Bool) : State :=
  s.helmEvent 0x60 false
    (Bytes.ofNat 1 p ++ Bytes.ofNat 1 (s.heading p) ++ Bytes.ofNat 1 ((s.lowestPoint p).getD (s.heading p)) ++
     Bytes.ofNat 1 f.cause.toNat ++ Bytes.ofNat 1 (Bytes.ofBool f.belowMin + 2 * Bytes.ofBool ends) ++ Bytes.zeros 3 ++
     Bytes.ofNat 2 (Frac.round (Frac.mul s.helm.budget (Frac.quot 1 1000)) % 65536))

/-- A phase at the end of a window (R399): a window wholly below the heading counts, the first such begins a shortfall, and a
window that ends at the heading ends it. -/
def windowPhase (s : State) (p : Nat) : State :=
  let f := vget Shortfall.reset s.helm.shortfall p
  let now := s.phaseBelow p
  let put (s : State) (g : Shortfall) : State := s.modHelm fun h => { h with shortfall := vmod h.shortfall p fun _ => g }
  let cause := s.shortCause p
  let under := f.belowMin || s.underMin p
  let f := if f.below then { f with windows := Word.satInc f.windows } else f
  if f.below && !f.active then
    let g := { f with active := true, cause := BitVec.ofNat 8 cause, belowMin := under, below := now }
    (s.shortRecord p g false |> fun s => put s g)
  else if f.active && !now then
    (s.shortRecord p f true |> fun s => put s { f with active := false, below := now, belowMin := false })
  else put s { f with below := now, belowMin := under && (f.active || now) }

/-- HELM_WINDOW (R397, R399): the end of an aligned 1 ms window. -/
def helmWindowEnds (s : State) : State :=
  let w := s.ns / 1000000 * 1000000
  if !s.helmRuns || decide (w ≤ s.helm.windowAt) then s
  else
    let s := s.modHelm fun h =>
      if h.count = 0 then { h with windowAt := w }
      else { h with windowAt := w, last := h.sum, lastCount := h.count, sum := PowerReading.zero, count := 0 }
    let s := s.diesUp.foldl learn s
    let s := s.diesUp.foldl
      (fun s d =>
        let (_, p) := s.dieTarget d
        s.modDie d fun c =>
          { c with
            onePhase := some (BitVec.ofNat 3 p, c.point)
            lastRun := c.runCycles, lastReal := c.realSteps, runCycles := Tbl.empty, realSteps := Tbl.empty })
      s
    (List.range 8).foldl windowPhase s

/-! ## Thermal (R405) -/

/-- Temperature of a part (THERMAL record order). -/
def partTemp (t : Temperatures) (i : Nat) : Nat :=
  if i < 40 then t.dies.getD i 0 else if i < 56 then t.dimms.getD (i - 40) 0 else t.flash.getD (i - 56) 0

/-- One thermal action begins, goes on or ends. -/
def thermalPart (t : Temperatures) (s : State) (ik : Nat × Nat) : State :=
  let key := 4 * ik.1 + ik.2
  let old := s.helm.thermal.get false key
  let now := thermalActs ik.1 ik.2 (partTemp t ik.1) old
  let rec_ (s : State) (e : Nat) : State :=
    s.helmEvent 0x62 true (Bytes.ofNat 1 ik.1 ++ Bytes.ofNat 1 (partTemp t ik.1) ++ Bytes.ofNat 1 e)
  let s := s.modHelm fun h => { h with thermal := h.thermal.set false key now }
  if now && !old then rec_ (s.modHelm fun h => { h with thermCnt := Word.satInc h.thermCnt }) 1
  else if old && !now then rec_ s 0
  else s

/-- A compute die's thermal limits: throttled, each check at or above the limit one point lower than the die is, or is to be; critical, point 0
and L_max 2. -/
def thermalDie (t : Temperatures) (s : State) (d : Nat) : State :=
  s.modDie d fun c =>
    let at_ := t.dies.getD d 0
    let asked := match c.throttlePt with | some k => if k < c.chosen then k else c.chosen | none => c.chosen
    let cur := if s.alertHeld d ∨ asked < c.point then asked else c.point
    { c with
      throttlePt :=
        if !s.helm.thermal.get false (4 * d) then none
        else if 95 ≤ at_ then some (cur - (if cur = 0 then 0 else 1))
        else c.throttlePt
      critical := s.helm.thermal.get false (4 * d + 1) }

/-- THERMAL_CHECK (R405). -/
def thermalRead (s : State) (t : Temperatures) : State :=
  if !s.helmRuns then s
  else
    let due := match s.helm.tempsAt with | some a => decide (a + 1000000000 ≤ s.ns) | none => true
    let s := s.modHelm fun h =>
      { h with temps := t, tempsSec := if due then t else h.tempsSec, tempsAt := if due then some s.ns else h.tempsAt }
    let parts := (List.range 60).flatMap fun i => (List.range (partLimits i).length).map fun k => (i, k)
    let s := parts.foldl (thermalPart t) s
    let s := s.diesUp.foldl (thermalDie t) s
    let s := s.diesUp.foldl (fun s d =>
      if (s.die d).throttlePt.isSome || (s.die d).critical then s.requestPoint d (diePoint (s.die d)) else s) s
    s.setLimits

/-! ## Droop (R401) -/

/-- The die's droop response begins. -/
def droopBegins (s : State) (d : Nat) : State :=
  if !s.power.rails || !(s.die d).inService || (s.die d).droopOn then s
  else
    let s := s.modDie d fun c => { c with droopOn := true }
    (s.modHelm fun h => { h with droopCnt := Word.satInc h.droopCnt }).pulse (0x0C6 + d)

/-- It ends; a change of point waits 1 µs more (R391). -/
def droopEnds (s : State) (d : Nat) : State :=
  if (s.die d).droopOn then s.modDie d fun c => { c with droopOn := false, droopClear := s.ns + 1000 } else s

/-! ## The edges of a change -/

/-- The voltage has reached its target (R390). -/
def slewDone (s : State) (d : Nat) : State :=
  match (s.die d).change with
  | some (.slewUp t) => s.modDie d fun c => { c with change := some (.relock t), fabricClk := true }
  | some (.slewDown _) => (s.modDie d fun c => { c with change := none }).nextChange d
  | _ => s

/-- The loop has relocked (R390): the domain returns to it, unless the alert keeps it on the fabric loop (R404); a lowering goes
on to lower the voltage. -/
def relocked (s : State) (d : Nat) : State :=
  match (s.die d).change with
  | some (.relock t) =>
    if s.alertHeld d then s.modDie d fun c => { c with change := none }
    else if t < (s.die d).point then s.modDie d fun c => { c with point := t, fabricClk := false, change := some (.slewDown t) }
    else (s.modDie d fun c => { c with point := t, fabricClk := false, change := none }).nextChange d
  | _ => s

end State

/-! ## Meanings -/

/-- HELM_SAMPLE: Helm reads every current monitor (R394), and a die that draws above its share is limited (R400). -/
def execHelmSample (r : PowerReading) (s : State) : Host.Outcome State Fault Refusal := .next (s.helmTakes r)

/-- HELM_DECISION (R394 to R398). -/
def execHelmDecision (s : State) : Host.Outcome State Fault Refusal := .next s.helmDecide

/-- HELM_WINDOW (R397, R399). -/
def execHelmWindow (s : State) : Host.Outcome State Fault Refusal := .next s.helmWindowEnds

/-- THERMAL_CHECK (R405). -/
def execThermalCheck (t : Temperatures) (s : State) : Host.Outcome State Fault Refusal := .next (s.thermalRead t)

/-- DROOP (R401). -/
def execDroop (d : DieId) (s : State) : Host.Outcome State Fault Refusal := .next (s.droopBegins d.val)

/-- DROOP_END (R401). -/
def execDroopEnd (d : DieId) (s : State) : Host.Outcome State Fault Refusal := .next (s.droopEnds d.val)

/-- VOLTAGE_SLEW_DONE (R390). -/
def execVoltageSlewDone (d : DieId) (s : State) : Host.Outcome State Fault Refusal := .next (s.slewDone d.val)

/-- RELOCK_DONE (R390, R391). -/
def execRelockDone (d : DieId) (s : State) : Host.Outcome State Fault Refusal := .next (s.relocked d.val)

/-- PWR_ALERT_ASSERT (R404, R431). -/
def execPwrAlertAssert (s : State) : Host.Outcome State Fault Refusal := .next (s.alertInput fun p => { p with pinAlert := true })

/-- PWR_ALERT_DEASSERT (R404). -/
def execPwrAlertDeassert (s : State) : Host.Outcome State Fault Refusal :=
  .next (s.alertInput fun p => { p with pinAlert := false })

/-- UNDERVOLTAGE_ALERT: the input below 34 V for 20 µs (Table 13-4). -/
def execUndervoltageAlert (s : State) : Host.Outcome State Fault Refusal :=
  if s.power.standby then .next (s.alertInput fun p => { p with underAlert := true }) else .next s

/-- UNDERVOLTAGE_CLEAR: the input at least 35 V for 100 µs (Table 13-4). -/
def execUndervoltageClear (s : State) : Host.Outcome State Fault Refusal :=
  .next (s.alertInput fun p => { p with underAlert := false })

/-- ALERT_RECOVERY: 1 ms after deassertion Helm begins to return the dies (R404). -/
def execAlertRecovery (s : State) : Host.Outcome State Fault Refusal :=
  match s.power.alertWait with
  | some t =>
    if s.helmRuns && !s.alerted && decide (t + 1000000 ≤ s.ns) then
      .next (s.modPower fun p => { p with alertWait := none, returning := some 0 })
    else .next s
  | none => .next s

end Sys2Proof.Machine
end

