-- ==== Sys2Proof/Machine/Attest.lean ====
section
/-!
DEFINITION. The identity block (Table 7-12), the device registers that messages return, measurements (R350, Table 9-6), and the
derivation of the alias key and its certificate (R347, R348).
-/
namespace Sys2Proof.Machine

/-- Table 9-8 as bytes. -/
def Policy.bytes (p : Policy) : List Byte :=
  let flags := Bytes.ofBool p.signedImages + 2 * Bytes.ofBool p.requireIde + 4 * Bytes.ofBool p.valLogAllow +
    8 * Bytes.ofBool p.debugPeers + 16 * Bytes.ofBool p.anyOwner + 32 * Bytes.ofBool p.integrity
  Bytes.ofNat 1 flags ++ Bytes.zeros 3 ++ Bytes.ofNat 4 p.minPeerSvn.toNat ++ Bytes.ofNat 48 p.peerOwner.toNat ++ Bytes.zeros 8

/-- Table 9-8 from bytes. -/
def policyOf (b : List Byte) : Policy :=
  let f := Bytes.field b 0 1
  { signedImages := Bytes.bit f 0, requireIde := Bytes.bit f 1, valLogAllow := Bytes.bit f 2, debugPeers := Bytes.bit f 3
    anyOwner := Bytes.bit f 4, integrity := Bytes.bit f 5, minPeerSvn := BitVec.ofNat 32 (Bytes.field b 4 4)
    peerOwner := BitVec.ofNat 384 (Bytes.field b 8 48) }

/-- DEV_STATE.SEC code (Table 7-3). -/
def SecMode.code : SecMode → Nat
  | .unowned => 0 | .owned => 1 | .debug => 2

/-- DEV_STATE.STATE code (Table 7-3). -/
def DevMode.code : DevMode → Nat
  | .booting => 0 | .ready => 1 | .halted => 2 | .fatal => 3 | .resetting => 4

/-- DEV_STATE (Table 7-3). -/
def Bar.devState (b : Bar) : Nat :=
  b.mode.code + 8 * Bytes.ofBool b.degraded + 16 * b.bootStep.toNat + 256 * b.sec.toNat + 65536 * b.fatalCode.toNat

/-- DEV_IDENT (Table 7-3). -/
def devIdent : Nat := 1 + 0x0C40 * 2 ^ 16 + Config.revision.toNat * 2 ^ 32 + Bytes.ofBool Config.variant64 * 2 ^ 40

/-- PART of the identity block (Table 0-1): the ASCII part number. -/
def partNumber : List Byte :=
  [0x47, 0x4C, 0x43, 0x2D, 0x34, 0x30, 0x4D, 0x2D] ++ (if Config.variant64 then [0x36, 0x34] else [0x33, 0x32]) ++ Bytes.zeros 6

namespace State

/-- Bits 0 to `n - 1` of a predicate as a number. -/
def maskOf (n : Nat) (f : Nat → Bool) : Nat := ((List.range n).map fun i => if f i then 2 ^ i else 0).foldl (· + ·) 0

/-- One bit for each MRDIMM channel in service (Table 7-12). -/
def dramMask (s : State) : Nat := maskOf 16 fun c => (s.memDie (c / 4)).inService.getLsbD (c % 4)

/-- One bit for each compute die in service. -/
def dieMask (s : State) : Nat := maskOf 22 fun d => (s.die d).inService

/-- One bit for each port that is not OUT with DEGRADED. -/
def portMask (s : State) : Nat := maskOf 8 fun p => !((s.port p).mode == .out && (s.port p).cause == 0x7)

/-- The assigned bytes of the identity block (Table 7-12): 0 to 55. -/
def identityHead (s : State) : List Byte :=
  Bytes.ofNat 8 Config.serial.toNat ++ partNumber ++ Bytes.ofNat 4 s.bar.fw.toNat ++
  Bytes.ofNat 1 (if Config.sixteen then 16 else 8) ++ Bytes.ofNat 1 (Config.dimmGB / 64) ++
  Bytes.ofNat 2 s.dramMask ++ Bytes.ofNat 4 s.dieMask ++ Bytes.ofNat 1 s.portMask ++
  Bytes.ofNat 1 (maskOf 4 fun f => (s.flash f).inService) ++ Bytes.zeros 2 ++ Bytes.ofNat 8 s.flashUsable ++
  Bytes.ofNat 8 (([0, 1, 2, 3].map fun m => (s.memDie m).capacity).foldl (· + ·) 0)

/-! ## Measurements -/

/-- A 384-bit value as the bytes of a measurement. -/
def digestBytes (d : BitVec 384) : List Byte := Bytes.ofNat 48 d.toNat

/-- Set one measurement. -/
def setMeas (s : State) (i : Nat) (b : List Byte) : State := s.modSec fun c => { c with meas := c.meas.put i b }

/-- Measurements 6 to 9 (Table 9-6), as they follow from the ownership record. -/
def measureOwner (s : State) : State :=
  let c := s.sec
  let owned := c.mode != .unowned
  let s := s.setMeas 6 (Bytes.ofNat 4 c.mode.code ++ Bytes.ofNat 4 c.epochFuses ++ Bytes.ofNat 8 c.ownerSeq.toNat)
  let s := s.setMeas 7 (if owned then digestBytes (Config.sha384 c.ownerKey) else Bytes.zeros 48)
  let s := s.setMeas 8 (if owned then digestBytes (Config.sha384 c.policy.bytes) else Bytes.zeros 48)
  s.setMeas 9 (if c.mode = .debug then Bytes.ofNat 8 c.scope.toNat else Bytes.zeros 8)

/-- Measurement 5: the firmware's security version and the count of anti-rollback fuses once step 11 has run (Table 9-6). -/
def measureVersion (s : State) : State :=
  s.setMeas 5 (Bytes.ofNat 4 s.sec.fwSvn.toNat ++ Bytes.ofNat 4 (max s.sec.rollFuses s.sec.fwSvn.toNat))

/-- Measurements 1 to 4, of an image (Table 9-6). -/
def measureImage (s : State) (i : FwImage) : State :=
  let s := s.setMeas 1 (digestBytes Config.romDigest)
  let s := s.setMeas 2 (digestBytes (Config.stageOneDigest i.digest))
  let s := s.setMeas 3 (digestBytes i.digest)
  s.setMeas 4 (digestBytes (Config.microcodeDigest i.digest))

/-- Insert a (JOB, digest) pair by its JOB. -/
def insertWork (p : Nat × List Byte) : List (Nat × List Byte) → List (Nat × List Byte)
  | [] => [p]
  | q :: qs => if p.1 ≤ q.1 then p :: q :: qs else q :: insertWork p qs

/-- Measurement 12: SHA-384 over (JOB, image digest) of the loaded jobs and groups, in ascending JOB (Table 9-6). -/
def measure12 (s : State) : List Byte :=
  let jobs := s.jobs.map fun j => (j.id.toNat, digestBytes j.digest)
  let groups := s.groups.map fun g =>
    (g.id.toNat, match s.images.find? fun i => i.id == g.image with | some i => digestBytes i.digest | none => Bytes.zeros 48)
  let all := (jobs ++ groups).foldr insertWork []
  digestBytes (Config.sha384 (all.flatMap fun p => Bytes.ofNat 2 p.1 ++ p.2))

/-- The measurement of an index in force now (R350): 10 is the boot nonce, 12 follows the loaded jobs. -/
def measurement (s : State) (i : Nat) : Option (List Byte) :=
  if i = 10 then some (digestBytes s.sec.nonce)
  else if i = 12 then some s.measure12
  else s.sec.meas.find? i

/-- The measurement summary (R350): SHA-384 of indices 1 to 9 and 11. -/
def measSummary (s : State) : List Byte :=
  digestBytes (Config.sha384 ([1, 2, 3, 4, 5, 6, 7, 8, 9, 11].flatMap fun i => (s.measurement i).getD []))

/-- Measurements one after another. -/
def measOf (s : State) (is : List Nat) : List Byte := is.flatMap fun i => (s.measurement i).getD []

/-- CDI_1 (Table 9-5), from CDI_0 and measurements 3, 4, 6, 7, 8 and 9. -/
def nextCdi1 (s : State) : Option (List Byte) := s.sec.cdi0.map fun c => hmac c (hashBytes (s.measOf [3, 4, 6, 7, 8, 9]))

/-- The alias key (Table 9-5). -/
def aliasKey (s : State) : List Byte := hkdf (s.sec.cdi1.getD []) "alias"

/-- The alias certificate that the security engine issues (R347): its template with the alias public key, the serial and measurements 1 to
9, signed with the identity key. -/
def issueCert (s : State) : List Byte :=
  let tbs := Config.aliasTbs (Config.ecdsaPublic s.aliasKey) Config.serial (s.measOf [1, 2, 3, 4, 5, 6, 7, 8, 9])
  Config.x509 tbs (Config.signWith identityKey tbs)

/-- The security engine derives CDI_1 and the alias key afresh from CDI_0 and the measurements, and issues the certificate (R347, R348). -/
def deriveAlias (s : State) : State :=
  let s := s.modSec fun c => { c with cdi1 := s.nextCdi1 }
  (s.modSec fun c => { c with aliasCert := s.issueCert }).pulse 0x154

/-- The firmware places the alias certificate in SPDM slot 0 (R347). -/
def placeCert (s : State) : State := s.modSec fun c => { c with slotCert := c.aliasCert }

/-- The chain of SPDM slot 0 (R351). -/
def slotChain (s : State) : List Byte := Config.certChain s.sec.slotCert

/-- A signature with the alias key. -/
def aliasSign (s : State) (b : List Byte) : List Byte := Config.signWith s.aliasKey b

/-- The security engine has completed a signature (R409). -/
def signed (s : State) : State := s.pulse 0x154

/-- Every SPDM session ends (R348, R352). -/
def endSessions (s : State) : State := s.modSec fun c => { c with sessions := [] }

/-- IDE streams return to Insecure and lose their keys (R352, Table 9-5). -/
def ideInsecure (s : State) : State :=
  let c := s.sec
  let off (i : IdeStream) : IdeStream := { keyed := false, secure := false, left := i.left || i.secure }
  let s := s.modSec fun c => { c with linkIde := off c.linkIde, selIde := off c.selIde }
  if c.linkIde.secure || c.selIde.secure then s.pulse 0x115 else s

end State
end Sys2Proof.Machine
end

