-- ==== Sys2Proof/Machine/Boot.lean ====
section
/-!
DEFINITION. Start-up, the policy ladder, the Logbook and the three resets (chapter 10, R367 to R386), device-fatal errors (R329), and
the rows of start-up.
-/
namespace Sys2Proof.Machine

/-! ## Ladders (Table 10-2) -/

/-- What a rung of a ladder is. -/
inductive Rung where
  | try_ | skip | halt
  deriving DecidableEq, Repr

/-- Rungs of a step's ladder for a unit class, the lowest first. -/
def rungsOf (step cls : Nat) : List Rung :=
  match step with
  | 1 | 2 | 3 => [.try_, .halt]
  | 4 => [.try_, .try_, .halt]
  | 5 | 6 => if cls = 0x01 then [.try_, .skip] else [.try_, .halt]
  | 7 => [.try_, .try_, .try_, .skip, .halt]
  | 8 => if cls = 0x08 then [.try_, .skip, .halt] else [.try_, .try_, .halt]
  | 9 => [.try_, .try_, .skip]
  | 10 => [.try_, .skip]
  | _ => [.try_, .halt]

/-- A final cause (Table 10-4). -/
def finalCause (c : Nat) : Bool := [0x07, 0x08, 0x09, 0x0B, 0x0E].contains c

/-- A unit. -/
def unitOf (cls idx : Nat) : UnitId := { cls := BitVec.ofNat 8 cls, idx := BitVec.ofNat 8 idx }

/-- Units of a class, in ascending order. -/
def unitsOfClass (cls n : Nat) : List UnitId := (List.range n).map (unitOf cls)

/-- The next multiple of 3 above a count (R371). -/
def nextThird (c : BitVec 8) : BitVec 8 := BitVec.ofNat 8 (min 255 ((c.toNat / 3 + 1) * 3))

/-! ## Interrupt sources as the firmware configures them (Tables 12-1, 12-11) -/

/-- Sense, targets, priority and moderation of a source (R410, R465); a source that Table 12-1 does not list keeps its reset
value. -/
def sourceConfig (n : Nat) : Option (Nat × Nat × Nat × Bool) :=
  if n < 0x0B0 then some (0, 7, 8, false)
  else if n < 0x0C6 then some (0, 7, 8, false)
  else if n < 0x0DC then some (1, 8, 13, true)
  else if n < 0x0E0 then some (0, 7, 9, false)
  else if n < 0x0E4 then some (1, 7, 8, false)
  else if n < 0x0E8 then some (1, 7, 9, false)
  else if n < 0x0EC then some (0, 7, 8, false)
  else if n < 0x0F0 then some (0, 7, 9, false)
  else if n < 0x0F4 then some (0, 7, 8, false)
  else if n < 0x0F8 then some (0, 7, 9, false)
  else if n = 0x0F8 then some (0, 7, 9, false)
  else if n < 0x100 then none
  else if n < 0x110 then some (1, 7, 6, false)
  else if n < 0x112 then some (1, 7, 6, false)
  else if n = 0x112 then some (1, 7, 10, false)
  else if n = 0x113 then some (1, 7, 12, true)
  else if n = 0x114 then some (3, 8, 14, true)
  else if n = 0x115 then some (1, 7, 10, false)
  else if n < 0x118 then none
  else if n < 0x154 then some (3, 8, 12, true)
  else if n = 0x154 ∨ n = 0x156 then some (1, 7, 7, false)
  else if n = 0x155 ∨ n = 0x157 then some (1, 7, 11, true)
  else if n < 0x15C then some (1, 0, 5, true)
  else if n < 0x160 then some (1, 2 ^ (n - 0x15C), 5, false)
  else if n < 0x162 then some (1, 7, 4, false)
  else if n < 0x164 then some (1, 7, 15, true)
  else none

/-- A source with its configuration of step 4: the comparators' stay disabled until a pilot arms one (R410). -/
def configureSource (n : Nat) (x : IcSrc) : IcSrc :=
  match sourceConfig n with
  | none => x
  | some (sense, tg, pr, nomod) =>
    { x with
      sense := BitVec.ofNat 2 sense, targets := BitVec.ofNat 4 tg, prio := BitVec.ofNat 4 pr, nomod := nomod
      enable := decide (n < 0x158 ∨ 0x15C ≤ n) }

namespace State

/-- The firmware configures every source at step 4 (R410). -/
def configureIc (s : State) : State := { s with ic := { s.ic with srcs := s.ic.srcs.mapIdx configureSource } }

/-! ## The Logbook (R369, R382, R383) -/

/-- Key of a step and unit. -/
def ladderKey (step : Nat) (u : UnitId) : Nat := step * 65536 + u.cls.toNat * 256 + u.idx.toNat

/-- CONSEC and FLOOR of a step and unit. -/
def ladder (s : State) (step : Nat) (u : UnitId) : Ladder := s.boot.ladders.get { consec := 0, floor := 0 } (ladderKey step u)

/-- Set them. -/
def setLadder (s : State) (step : Nat) (u : UnitId) (consec floor : BitVec 8) : State :=
  s.modBoot fun b =>
    { b with ladders := b.ladders.set { consec := 0, floor := 0 } (ladderKey step u) { consec := consec, floor := floor } }

/-- Records of one copy of the Logbook, and of one sector (R382, R383). -/
def logRing : Nat := 65536
/-- Records in a 64 KiB sector. -/
def logSector : Nat := 1024

/-- Whether a record states a unit's latest outcome: OUTCOME or CARRY. -/
def recordStates (r : LogRec) : Bool := r.kind == 2 || r.kind == 5

/-- The records of a sector about to be overwritten whose unit has no later OUTCOME or CARRY (R383). -/
def onlyHere (sector rest : List LogRec) : List LogRec :=
  let same (r t : LogRec) : Bool := r.step == t.step && r.unit == t.unit
  sector.zipIdx.filterMap fun p =>
    let r := p.1
    let later := sector.drop (p.2 + 1)
    if recordStates r && !later.any (fun t => recordStates t && same r t) && !rest.any (fun t => recordStates t && same r t) then some r
    else none

/-- Append records to a ring of one copy, giving each the next SEQ from `n` on. -/
def numbered (n : BitVec 64) : List LogRec → List LogRec
  | [] => []
  | r :: rs => { r with seq := n } :: numbered (n + 1) rs

/-- CONSEC and FLOOR of a step and unit, of a table of them. -/
def ladderOf (t : Tbl Ladder) (step : Nat) (u : UnitId) : Ladder := t.get { consec := 0, floor := 0 } (ladderKey step u)

/-- Write a record to copy A, then to copy B, of those that can be written (R382, R383). Before the ring overwrites a sector, a CARRY record
is written for every unit whose latest OUTCOME lies only in it, with the counts in force. The write-protect pin of the NOR is released for
the program alone, so it is asserted between any two commands (R449). -/
def journal (s : State) (r : LogRec) : State :=
  let full := decide (logRing ≤ s.boot.logB.length)
  let carry (c : LogRec) : LogRec :=
    { c with kind := 5, consec := (ladderOf s.boot.ladders c.step.toNat c.unit).consec, floor := (ladderOf s.boot.ladders c.step.toNat c.unit).floor }
  let carries := if full then (onlyHere (s.boot.logB.take logSector) (s.boot.logB.drop logSector)).map carry else []
  let new := numbered s.boot.logSeq (carries ++ [r])
  let ring (dead : Bool) (l : List LogRec) : List LogRec := if dead then l else (if full then l.drop logSector else l) ++ new
  (s.modBoot fun b =>
    { b with logA := ring b.deadA b.logA, logB := ring b.deadB b.logB, logSeq := b.logSeq + BitVec.ofNat 64 new.length }).pulse 0x156

/-- A record of a step and unit as things stand (Table 10-3). -/
def logRec (s : State) (kind step : Nat) (u : UnitId) (rung result cause : Nat) (detail : BitVec 128) : LogRec :=
  { seq := 0, start := s.boot.starts, kind := BitVec.ofNat 8 kind, step := BitVec.ofNat 8 step, unit := u
    rung := BitVec.ofNat 8 rung, result := BitVec.ofNat 8 result, consec := (s.ladder step u).consec
    floor := (s.ladder step u).floor, cause := BitVec.ofNat 16 cause
    resetType := if kind = 3 then s.boot.resetType else 0
    elapsed := BitVec.ofNat 32 ((s.ns - s.boot.began) / 1000), detail := detail }

/-- An OUTCOME: steps 1 and 2 latch up to eight of theirs for step 3 (R369). -/
def outcome (s : State) (step : Nat) (u : UnitId) (rung result cause : Nat) (detail : BitVec 128) : State :=
  let r := s.logRec 2 step u rung result cause detail
  if step < 3 then s.modBoot fun b => if b.latchedOut.length < 8 then { b with latchedOut := b.latchedOut ++ [r] } else b
  else s.journal r

/-- An INTENT, from step 3 on: no processor runs before it (R369). -/
def intent (s : State) (step : Nat) (u : UnitId) (rung : Nat) : State :=
  if step < 3 then s
  else s.journal (s.logRec 1 step u rung 0 0 0)

/-- The 64 bytes of a record (Table 10-3); CRC-32C over bytes 0 to 59. -/
def logBytes (r : LogRec) : List Byte :=
  let b := Bytes.ofNat 4 0x4B42474C ++ Bytes.ofNat 8 r.seq.toNat ++ Bytes.ofNat 4 r.start.toNat ++ Bytes.ofNat 1 r.kind.toNat ++
    Bytes.ofNat 1 r.step.toNat ++ Bytes.ofNat 1 r.unit.idx.toNat ++ Bytes.ofNat 1 r.unit.cls.toNat ++ Bytes.ofNat 1 r.rung.toNat ++
    Bytes.ofNat 1 r.result.toNat ++ Bytes.ofNat 1 r.consec.toNat ++ Bytes.ofNat 1 r.floor.toNat ++ Bytes.ofNat 2 r.cause.toNat ++
    Bytes.ofNat 1 r.resetType.toNat ++ Bytes.zeros 1 ++ Bytes.ofNat 4 r.elapsed.toNat ++ Bytes.ofNat 16 r.detail.toNat ++ Bytes.zeros 12
  b ++ Bytes.ofNat 4 (Bytes.crc32c b)

/-- The latest cause that a step and unit failed with. -/
def lastCause (s : State) (step : Nat) (u : UnitId) : BitVec 16 :=
  match s.boot.logB.reverse.find? fun r => r.kind == 2 && r.step.toNat == step && r.unit == u && r.cause != 0 with
  | some r => r.cause
  | none => 0

/-- The records that two copies give (R383): copy B wins where they disagree, and what one copy lacks comes from the other. -/
def mergeLogs (a b : List LogRec) : List LogRec :=
  let extra := a.filter fun r => !b.any fun t => t.seq == r.seq
  extra.foldl (fun l r => l.takeWhile (fun t => decide (t.seq < r.seq)) ++ [r] ++ l.dropWhile (fun t => decide (t.seq < r.seq))) b

/-- The records of a copy that the boot ROM takes: those whose CRC verifies, of a copy that can be read at all. -/
def goodRecords (dead : Bool) (bad : List (BitVec 64)) (l : List LogRec) : List LogRec :=
  if dead then [] else l.filter fun r => !bad.contains r.seq

/-- Every count and floor cleared, but the floor of a firmware slot (R372). -/
def coldCounts (t : Tbl Ladder) : Tbl Ladder :=
  (t.keep fun k _ => k / 256 == 4 * 256 + 0x0A).mapVals fun _ l => { l with consec := 0 }

/-- The counts and floors of steps 3 to 11 that the records give (R372, R383): those of each unit's latest OUTCOME or CARRY since the last cold
start. -/
def countsOf (l : List LogRec) : Tbl Ladder :=
  l.foldl
    (fun t r =>
      if recordStates r && decide (3 ≤ r.step.toNat) then
        t.set { consec := 0, floor := 0 } (ladderKey r.step.toNat r.unit) { consec := r.consec, floor := r.floor }
      else if r.kind = 3 ∧ r.resetType.toNat ≤ 1 then coldCounts t
      else t)
    Tbl.empty

/-- The INTENT records without an OUTCOME (R373). -/
def openIntents (l : List LogRec) : List LogRec :=
  l.foldl
    (fun o r =>
      let rest := o.filter fun i => !(i.step == r.step && i.unit == r.unit)
      if r.kind = 1 then rest ++ [r] else if r.kind = 2 then rest else o)
    []

/-! ## Rungs -/

/-- Channel rate codes (Table 4-15). -/
def fullRate : BitVec 8 := 0x58
/-- 8,000 MT/s. -/
def slowRate : BitVec 8 := 0x50

/-- The rung that the counts give (R370). -/
def countRung (s : State) (step : Nat) (u : UnitId) : Nat :=
  let l := s.ladder step u
  min (max (l.consec.toNat / 3) l.floor.toNat) ((rungsOf step u.cls.toNat).length - 1)

/-- The rung that the next attempt uses (R370, R375): a channel of a die at 8,000 MT/s trains at that rate, and stored values of
another DIMM are passed over. -/
def rungOf (s : State) (step : Nat) (u : UnitId) : Nat :=
  let r := s.countRung step u
  if step = 7 then
    if (s.memDie (u.idx.toNat / 4)).rate = slowRate then max r 2
    else if r = 0 ∧ s.boot.training.find? u.idx.toNat ≠ some (Config.spdSerial u.idx.toNat) then 1 else r
  else r

/-- What that rung is. -/
def rungKind (s : State) (step : Nat) (u : UnitId) : Rung := (rungsOf step u.cls.toNat).getD (s.rungOf step u) .halt

/-- Whether a population obeys R149. -/
def populationOk : Bool := [64, 128, 256].contains Config.dimmGB && (Config.sixteen || Config.dimmGB != 64)

/-- The image that a rung of step 4 starts: the active slot, then the other (Table 10-2). -/
def bootSlot (s : State) (rung : Nat) : Nat := (Bytes.ofBool s.sec.activeSlot + rung) % 2

/-- An image of a slot. -/
def slotImage (s : State) (i : Nat) : FwImage := vget { signer := none, revokes := 0, svn := 0, fw := 0, digest := 0 } s.sec.slots i

/-- An image's signature verifies under a vendor key whose revoke fuse is not burned (R349). -/
def imageSigned (s : State) (i : FwImage) : Bool := match i.signer with | some k => !s.sec.revoked.getLsbD k.val | none => false

/-- DETAIL of an OUTCOME (Table 10-3): slot and security version; MT/s; channel mask and table copy; PORT_STATE and the peer that HELLO
named (R205); GT/s and width. The other steps name what the attempt reports. -/
def stepDetail (s : State) (step : Nat) (u : UnitId) (rung : Nat) (other : BitVec 128) : BitVec 128 :=
  let i := u.idx.toNat
  match step with
  | 4 =>
    let slot := s.bootSlot rung
    BitVec.ofNat 128 (slot + 2 ^ 8 * (s.slotImage slot).svn.toNat)
  | 7 => BitVec.ofNat 128 (100 * (if 2 ≤ rung then slowRate else fullRate).toNat)
  | 8 =>
    let d := s.flash (if u.cls = 0x08 then i / 8 else i)
    BitVec.ofNat 128 (d.channels.toNat + 2 ^ 8 * Bytes.ofBool d.secondary)
  | 9 => BitVec.ofNat 128 (portState (s.port i) % 2 ^ 32 + 2 ^ 32 * (s.port i).peer.toNat)
  | 10 => BitVec.ofNat 128 (s.bar.linkRate.toNat + 2 ^ 8 * s.bar.linkWidth.toNat)
  | _ => other

/-- A unit has been left out in this start. -/
def isOut (s : State) (u : UnitId) : Bool := s.boot.leftOut.any fun l => l.1 == u

/-- Whether a skip is permitted (R375, R376, R379). -/
def skipAllowed (s : State) (step : Nat) (u : UnitId) : Bool :=
  let i := u.idx.toNat
  if u.cls = 0x01 then (List.range 22).any fun d => d != i && (s.die d).inService
  else if step = 7 then !((List.range 16).any fun c => c != i && c / 4 == i / 4 && s.isOut (unitOf 0x07 c))
  else if u.cls = 0x08 then !((List.range 32).any fun c => c != i && c / 8 == i / 8 && s.isOut (unitOf 0x08 c))
  else true

/-- A unit is left out (R381): DEGRADED tells, and its bit of the identity block clears. A skipped step 10 leaves no unit out. -/
def leaveOut (s : State) (step : Nat) (u : UnitId) : State :=
  let i := u.idx.toNat
  if step = 10 then s.modBoot fun b => { b with skipped10 := true }
  else
    let s := (s.modBoot fun b => { b with leftOut := b.leftOut ++ [(u, BitVec.ofNat 8 step, s.lastCause step u)] }).setDegraded
    if u.cls = 0x01 then s.modDie i fun d => { d with inService := false }
    else if u.cls = 0x07 then s.modMem (i / 4) fun d => { d with inService := d.inService &&& ~~~(1#4 <<< (i % 4)) }
    else if u.cls = 0x08 then s.modFlash (i / 8) fun d => { d with channels := d.channels &&& ~~~(1#8 <<< (i % 8)) }
    else if u.cls = 0x09 then s.portOut i 0x7
    else s

/-! ## Steps -/

/-- Units of a step (Table 10-1). -/
def unitsOfStep (s : State) (step : Nat) : List UnitId :=
  match step with
  | 3 => [unitOf 0x05 0]
  | 4 => [unitOf 0x0A (Bytes.ofBool s.sec.activeSlot)]
  | 5 => unitsOfClass 0x01 22 ++ unitsOfClass 0x02 4 ++ unitsOfClass 0x03 4 ++ unitsOfClass 0x04 4 ++ [unitOf 0x05 0, unitOf 0x06 0]
  | 6 =>
    ((unitsOfClass 0x01 22).filter fun u => (s.die u.idx.toNat).inService) ++ unitsOfClass 0x02 4 ++ unitsOfClass 0x03 4 ++
    unitsOfClass 0x04 4 ++ [unitOf 0x05 0, unitOf 0x06 0]
  | 7 => (unitsOfClass 0x07 16).filter fun u => (s.memDie (u.idx.toNat / 4)).populated.getLsbD (u.idx.toNat % 4)
  | 8 => unitsOfClass 0x08 32 ++ unitsOfClass 0x03 4
  | 9 => unitsOfClass 0x09 8
  | _ => [unitOf 0x00 0]

/-- A port of step 9 that went OUT for failing leaves OUT for a new attempt (R377); on rung 1 it takes the on-module bank. -/
def retryPort (s : State) (p : Nat) (bank : Bool) : State :=
  let s := s.modPort p fun x =>
    if x.mode = .out ∧ (x.cause = 0x1 ∨ x.cause = 0x3) then { x with mode := .off, cause := 0, trainFails := 0, wasExt := false, extSrc := false }
    else x
  (s.modPort p fun x => { x with bank := bank }).engineOn (p / 2)

/-- Channels of a memory die that train, but for `u`: populated and not left out. -/
def siblings (s : State) (u : UnitId) : List UnitId :=
  (unitsOfClass 0x07 16).filter fun v =>
    decide (v.idx.toNat / 4 = u.idx.toNat / 4) && v != u && (s.memDie (v.idx.toNat / 4)).populated.getLsbD (v.idx.toNat % 4) && !s.isOut v

/-- A memory die goes to 8,000 MT/s for a channel's rung 2 (R375): its other channels train afresh, each in an attempt on its own rung 2. -/
def slowDie (s : State) (u : UnitId) : State :=
  let again := s.siblings u
  let s := s.modMem (u.idx.toNat / 4) fun d => { d with rate := slowRate, inService := 0 }
  let s := s.modBoot fun b => { b with todo := (unitsOfClass 0x07 16).filter fun v => b.todo.contains v || again.contains v }
  (again.filter fun v => s.rungKind 7 v == .try_).foldl (fun s v => s.intent 7 v (s.rungOf 7 v)) s

/-- The firmware makes ready for an attempt of a unit and writes its INTENT (R369, R375, R377). -/
def prepare (step : Nat) (s : State) (u : UnitId) : State :=
  let i := u.idx.toNat
  let s := if step = 7 ∧ s.countRung 7 u = 2 ∧ (s.memDie (i / 4)).rate ≠ slowRate then s.slowDie u else s
  let s := if step = 9 then s.retryPort i (s.rungOf 9 u == 1) else s
  s.intent step u (s.rungOf step u)

/-- The boot ROM reads and mends the Logbook (R369, R373, R383): the records that either copy gives, written into both; the RESET record of
this start; the counts; the outcomes of steps 1 and 2; and the missing outcomes of interrupted attempts, which count as failures when the
start began with a watchdog or fatal-recovery reset. When neither copy can be read, every count is 0. -/
def romReads (s : State) : State :=
  let b := s.boot
  let read := mergeLogs (goodRecords b.deadA b.badA b.logA) (goodRecords b.deadB b.badB b.logB)
  let s := s.modBoot fun b =>
    { b with logA := if b.deadA then b.logA else read, logB := if b.deadB then b.logB else read, badA := [], badB := [] }
  let s := s.journal (s.logRec 3 0 (unitOf 0 0) 0 0 0 0)
  let early := s.boot.ladders.keep fun k _ => decide (k < 3 * 65536)
  let counts := countsOf (read ++ [s.logRec 3 0 (unitOf 0 0) 0 0 0 0])
  let s := s.modBoot fun b => { b with ladders := counts.entries.foldl (fun t p => t.set { consec := 0, floor := 0 } p.1 p.2) early }
  let s := s.boot.latchedOut.foldl journal s
  let s := s.modBoot fun b => { b with latchedOut := [] }
  let fails := s.boot.resetType == 4 || s.boot.resetType == 5
  (openIntents read).foldl
    (fun s i =>
      let step := i.step.toNat
      let l := s.ladder step i.unit
      let s := if fails then s.setLadder step i.unit (Word.satInc l.consec) l.floor else s
      s.outcome step i.unit i.rung.toNat 3 0x0F (s.stepDetail step i.unit i.rung.toNat 0))
    s

/-- What the firmware does when a step begins. -/
def stepOpens (s : State) (step : Nat) : State :=
  match step with
  | 3 => s.romReads
  | 7 =>
    let s := (s.modPower fun p => { p with dimmRail := true }).helmStarts
    [0, 1, 2, 3].foldl (fun s m => s.modMem m fun d => { d with rate := fullRate, keyGen := d.keyGen + 1 }) s
  | 8 => (s.modPower fun p => { p with flashRail := true, wpN := false }).emit (.pin "WP_N" true)
  | 9 =>
    let s := s.modEngines fun e => { e with node := Config.fabNode, dim := if dimOk Config.fabDim then Config.fabDim else e.dim }
    [0, 1, 2, 3].foldl engineOn s
  | _ => s

/-- A step begins for every unit at once (R367). -/
def stepBegins (s : State) (step : Nat) : State :=
  let s := (s.modBar fun b => { b with bootStep := BitVec.ofNat 4 step }).stepOpens step
  let us := s.unitsOfStep step
  let s := s.modBoot fun b => { b with step := BitVec.ofNat 4 step, todo := us, watchHalf := false, waitPerst := false }
  (us.filter fun u => s.rungKind step u == .try_).foldl (prepare step) s

/-- A flash die whose registers are at their reset values: what its packages hold, and the blocks' reads and wear, stay. -/
def flashKept (d : FlashDie) : FlashDie :=
  { FlashDie.reset with wearMax := d.wearMax, wearUsed := d.wearUsed, tabA := d.tabA, tabB := d.tabB, taken := d.taken, reads := d.reads }

/-- The optical engines after a reset: the fibre tray and the loop are as they are. -/
def opticsKept (s : State) : Fabric :=
  { Fabric.reset with elsPresent := s.fab.elsPresent, elsClosed := s.fab.elsClosed, elsWorks := s.fab.elsWorks, loop := s.fab.loop }

/-- Dies not yet in use at a halt lose their power (R380): the compute dies, which no job uses before READY, and the memory, flash and optical
dies that their steps have not brought up. DESIGN CHOICE (log 102): a die is in use once its last step of start-up has passed. A halt at steps
1 to 3 leaves the LEDs alone. -/
def powerDown (s : State) (step : Nat) : State :=
  let s := { s with
    cores := tabulate 176 fun c => { Core.reset c with scratch := Mem.empty }
    dies := s.dies.map fun d => { ComputeDie.reset with inService := false, learned := d.learned } }
  let s := if step ≤ 7 then
      { s with mems := s.mems.map (fun d => { MemDie.reset with keyGen := d.keyGen }), seps := Vector.replicate 4 Sep.reset
               spus := Vector.replicate 4 Spu.reset, skms := Vector.replicate 8 Skimmer.reset, dram := Mem.empty }
    else s
  let s := if step ≤ 8 then { s with flashes := s.flashes.map flashKept } else s
  let s := if step ≤ 9 then { s with fab := s.opticsKept } else s
  if step ≤ 3 then s.modBar fun b => { b with cfgServed := false, linkUp := false, linkWidth := 0, linkRate := 0 } else s

/-- A halt rung is reached (R380): a HALT record, STATE = HALTED, BOOT_STEP at the halted step, and power for what is in use alone. -/
def haltStart (s : State) (step : Nat) (u : UnitId) : State :=
  let s := if 3 ≤ step then s.journal (s.logRec 6 step u (s.rungOf step u) 0 (s.lastCause step u).toNat 0) else s
  ((((s.modBoot fun b => { b with todo := [] }).modBar fun b => { b with bootStep := BitVec.ofNat 4 step }).stopQueues).setMode .halted).powerDown step

/-- A population that breaks R149 fails every channel with a final cause, and start-up halts at once (R375), on every start alike (R372). -/
def populationHalts (s : State) : State :=
  let s := s.boot.todo.foldl
    (fun s u =>
      let s := s.setLadder 7 u (nextThird (s.ladder 7 u).consec) (s.ladder 7 u).floor
      s.outcome 7 u (s.rungOf 7 u) 2 0x07 (s.stepDetail 7 u (s.rungOf 7 u) 0))
    s
  s.haltStart 7 (s.boot.todo.headD (unitOf 0x07 0))

/-- The skip of a channel waits for a lower-numbered channel of its die whose attempt may bring it to the skip too (R375). -/
def skipWaits (s : State) (step : Nat) (u : UnitId) : Bool :=
  decide (step = 7) && s.boot.todo.any fun v =>
    decide (v.idx.toNat / 4 = u.idx.toNat / 4 ∧ v.idx.toNat < u.idx.toNat) && s.rungKind 7 v == .try_ && (s.ladder 7 v).consec == 8

/-- Units in service at READY: dies, channels, ports, as in the identity block. -/
def readyDetail (s : State) : BitVec 128 := BitVec.ofNat 128 (s.dieMask + s.dramMask * 2 ^ 32 + s.portMask * 2 ^ 48)

/-- The firmware that runs burns the revoke fuses of the vendor keys that its image revokes (R346). DESIGN CHOICE (log 100): at step 11, as it
burns the anti-rollback fuses. -/
def burnRevokes (s : State) : State := s.modSec fun c => { c with revoked := c.revoked ||| c.fwRevokes }

/-- Step 11 is over (Table 10-1, R349, R381): measurements, fuses, the certificate, ALM_CTRL.EN, READY. -/
def becomeReady (s : State) : State :=
  let s := (s.modSec fun c => { c with rollFuses := min 64 (max c.rollFuses c.fwSvn.toNat) }).burnRevokes.placeCert
  let s := s.setMeas 11 (Bytes.slice s.identityHead 28 28)
  let s := s.modAlm fun a => { a with en := true }
  let s := (s.modBoot fun b => { b with step := 0 }).journal (s.logRec 4 0 (unitOf 0 0) 0 0 0 s.readyDetail)
  let s := s.fwEvent 0x0002 true 0xFFFF (Bytes.ofNat 1 s.boot.resetType.toNat ++ Bytes.zeros 7 ++ Bytes.ofNat 8 s.boot.starts.toNat)
  let s := s.boot.leftOut.foldl
    (fun s l => s.fwEvent 0x0003 true 0xFFFF
      (Bytes.ofNat 1 l.2.1.toNat ++ Bytes.zeros 1 ++ Bytes.ofNat 1 l.1.idx.toNat ++ Bytes.ofNat 1 l.1.cls.toNat ++
       Bytes.ofNat 2 l.2.2.toNat)) s
  s.setMode .ready

/-- What the firmware does when a step has completed for every unit. -/
def stepCloses (s : State) (step : Nat) : State :=
  match step with
  | 7 => { s with ic := { s.ic with pilots := s.ic.pilots.map fun q => { q with all := false } } }
  | 8 =>
    [0, 1, 2, 3].foldl
      (fun s f =>
        let (n, s) := s.drawNat
        s.modFlash f fun d => { d with blocks := Config.flashBlocks, freeBlocks := BitVec.ofNat 32 (n % (Config.flashBlocks + 1)) })
      s
  | _ => s

/-- Start-up goes on as far as it can without an attempt: rungs that skip or halt, and steps that are over (R367, R370, R380).
R340 stops it at step 11, and steps 3 to 11 wait for PERST_N (R438). -/
def bootRun : Nat → State → State
  | 0, s => s
  | k + 1, s =>
    let step := s.boot.step.toNat
    if s.bar.mode ≠ .booting ∨ step = 0 ∨ s.boot.waitPerst = true then s
    else if step = 11 ∧ s.sec.recordBad = true then s.haltStart 11 (unitOf 0 0)
    else if step = 7 ∧ populationOk = false ∧ s.boot.todo.isEmpty = false then s.populationHalts
    else
      match s.boot.todo.find? fun u => s.rungKind step u != .try_ && !s.skipWaits step u with
      | some u =>
        let r := s.rungOf step u
        if s.rungKind step u = .skip then
          let s := s.intent step u r
          if s.skipAllowed step u then
            let s := s.setLadder step u 0 (BitVec.ofNat 8 r)
            let s := (s.leaveOut step u).outcome step u r 4 0 (s.stepDetail step u r 0)
            bootRun k (s.modBoot fun b => { b with todo := b.todo.filter fun v => v != u })
          else
            let s := s.setLadder step u (nextThird (s.ladder step u).consec) (s.ladder step u).floor
            (s.outcome step u r 2 0x0E (s.stepDetail step u r 0)).haltStart step u
        else s.haltStart step u
      | none =>
        if s.boot.todo.isEmpty then
          let s := s.stepCloses step
          if step = 11 then s.becomeReady
          else if step = 2 ∧ s.power.perst = true then
            s.modBoot fun b => { b with step := 3, waitPerst := true }
          else bootRun k (s.stepBegins (step + 1))
        else s

/-- Go on as far as possible. -/
def bootGoesOn (s : State) : State := bootRun 600 s

/-! ## What a success does -/

/-- Step 3 has passed (Table 10-1): the boot nonce is drawn. -/
def romStarts (s : State) : State :=
  s.modSec fun c => { c with nonce := Config.random c.nonceNext, nonceNext := c.nonceNext + 1 }

/-- Step 4 (R340, R347, R349, R350): the image runs, the ownership record is read, measurements 1 to 9 are taken, the alias key
and certificate are made, the interrupt sources configured. -/
def firmwareStarts (s : State) (rung : Nat) : State :=
  let img := s.slotImage (s.bootSlot rung)
  let c := s.sec
  let bad := (!c.primaryOk && !c.secondaryOk) || decide (c.epochFuses % 2 = 1) != (c.mode != .unowned)
  let s := s.modSec fun c =>
    { c with fwSvn := img.svn, fwRevokes := img.revokes, cdi0 := some (hmac Config.uds (digestBytes (Config.stageOneDigest img.digest))), recordBad := bad, jtagOpen := !bad && c.mode == .debug }
  let s := s.modBar fun b => { b with fw := img.fw }
  let s := (s.measureImage img).measureVersion.measureOwner.deriveAlias.configureIc
  s.setSecCode (BitVec.ofNat 2 c.mode.code)

/-- The scratchpads of a compute die are filled with zeros (R14). -/
def clearPads (s : State) (d : Nat) : State :=
  (List.range 8).foldl (fun s i => s.modCore (8 * d + i) fun k => { k with scratch := Mem.empty }) s

/-- Step 8 recomputes FLD_FREE from the flash (Table 10-5): the blocks that are erased, which the spec leaves open (R163). -/
def countFree (s : State) (f : Nat) : State :=
  let (n, s) := s.drawNat
  s.modFlash f fun d => { d with freeBlocks := BitVec.ofNat 32 (n % (d.blocks + 1)) }

/-- The dies that come up find the alert as it stands (R404). -/
def alertStands (s : State) : State := if s.alerted then s.alertDies.setLimits else s

/-- Step 1 has passed: the rails are up. An alert that stands then counts as asserted (DESIGN CHOICE, log 104). -/
def railsOn (s : State) : State :=
  let s := (s.modPower fun p => { p with rails := true }).setLoop
  if s.alerted then s.alertStands.alertEdge true else s

/-- What a successful attempt brings into service. The secondary copy of a flash die's tables, once mounted, is copied over the primary (R376). A die's first scrub pass begins when step 7 brings its latest channel in (DESIGN
CHOICE, log 85). -/
def unitStarts (s : State) (step : Nat) (u : UnitId) (rung : Nat) : State :=
  let i := u.idx.toNat
  match step with
  | 1 => s.railsOn
  | 3 => s.romStarts
  | 4 => s.firmwareStarts rung
  | 5 => if u.cls = 0x01 then (s.clearPads i).modDie i fun d => { d with inService := true } else s
  | 6 => if u.cls = 0x06 then s.modBar fun b => { b with cfgServed := true } else s
  | 7 =>
    let s := s.modMem (i / 4) fun d => { d with inService := d.inService ||| (1#4 <<< (i % 4)), scrubStart := s.now }
    if rung = 0 then s else (s.modBoot fun b => { b with training := b.training.put i (Config.spdSerial i) }).pulse 0x156
  | 8 =>
    if u.cls = 0x03 then
      (s.countFree i).modFlash i fun d => { d with secondary := decide (rung = 1), tabA := if rung = 1 then d.tabB else d.tabA }
    else s
  | _ => s

/-! ## Attempts -/

/-- How an attempt came out, where the state decides it: the firmware image (R349), which cannot be read where neither copy of the Logbook can,
for it lies in the same device (R383); the port (R377); the link; `none` when the attempt cannot be over yet. -/
def judge (s : State) (step : Nat) (u : UnitId) (r : AttemptResult) : Option AttemptResult :=
  let i := u.idx.toNat
  if step = 4 then
    let img := s.slotImage (s.bootSlot (s.rungOf 4 u))
    if s.boot.deadA && s.boot.deadB then some { r with ok := false, cause := 0x0A }
    else if !s.imageSigned img then some { r with ok := false, cause := 0x08 }
    else if img.svn.toNat < s.sec.rollFuses then some { r with ok := false, cause := 0x09 }
    else some r
  else if step = 9 then
    let x := s.port i
    if x.mode = .out ∧ (x.cause = 0x1 ∨ x.cause = 0x3) then some { r with ok := false, cause := 0x0C }
    else if x.mode = .out ∨ x.mode = .up ∨ x.mode = .dark then some { r with ok := true }
    else if r.ok = false then some r else none
  else if step = 10 then if s.bar.linkUp then some { r with ok := true } else if r.ok then none else some r
  else some r

/-- An attempt of a step for a unit is over (R370 to R372): its OUTCOME is written and the ladder chooses what follows. -/
def attemptEnds (s : State) (step : Nat) (u : UnitId) (r : AttemptResult) : State :=
  let rung := s.rungOf step u
  let l := s.ladder step u
  if r.ok then
    let s := s.unitStarts step u rung
    let s := s.setLadder step u 0 (if rung = 0 then (s.ladder step u).floor else BitVec.ofNat 8 rung)
    let s := s.outcome step u rung 0 0 (s.stepDetail step u rung r.detail)
    (s.modBoot fun b => { b with todo := b.todo.filter fun v => v != u }).bootGoesOn
  else
    let fin := finalCause r.cause.toNat
    let s := s.setLadder step u (if fin then nextThird l.consec else Word.satInc l.consec) l.floor
    let s := s.outcome step u rung (if fin then 2 else 1) r.cause.toNat (s.stepDetail step u rung r.detail)
    let s := if s.rungKind step u = .try_ then prepare step s u else s
    s.bootGoesOn

/-- An attempt of a step for a unit runs. -/
def attempting (s : State) (step : Nat) (u : UnitId) : Bool :=
  s.bar.mode == .booting && !s.boot.waitPerst && s.boot.step.toNat == step && s.boot.todo.contains u && s.rungKind step u == .try_

/-- One attempt of a step for a unit ends as its result and the state have it (R377). -/
def attempt (s : State) (step : Nat) (u : UnitId) (r : AttemptResult) : State :=
  if s.attempting step u then
    match s.judge step u r with
    | none => s
    | some r => s.attemptEnds step u r
  else s

/-! ## Resets (R384, Table 10-5) -/

/-- The object map as step 8 rebuilds it from the flash (R463). -/
def keptObjs (t : Tbl Obj) : Tbl Obj :=
  (t.keep fun _ o => o.home == .flash && o.committed).mapVals fun _ o =>
    { o with
      mode := if o.bad.entries.isEmpty then .home else .poisoned
      resident := none, refs := 0, evictPend := false, delPend := false, writes := [], next := none, promoteTags := [] }

/-- What a cold (`cold`) or warm reset does to the units' state (Table 10-5): register blocks and their counters at their reset
values, jobs and groups lost, DRAM and its keys lost, objects by R463, sessions and streams ended, the log cleared when cold,
learned powers kept when warm (R397), the default headings (R392). -/
def unitReset (s : State) (cold : Bool) : State :=
  { s with
    cores := tabulate 176 fun c => { Core.reset c with scratch := if cold then Mem.empty else (s.core c).scratch }
    posts := []
    dies := s.dies.map fun d => { ComputeDie.reset with learned := if cold then Tbl.empty else d.learned }
    spus := Vector.replicate 4 Spu.reset
    seps := Vector.replicate 4 Sep.reset
    mems := s.mems.map fun d => { MemDie.reset with keyGen := d.keyGen }
    flashes := s.flashes.map flashKept
    skms := Vector.replicate 8 Skimmer.reset
    dram := Mem.empty
    objs := keptObjs s.objs
    evicts := []
    alm := Almanac.reset
    fab := s.opticsKept
    jobs := [], images := [], groups := [], queries := []
    queues := tabulate 8 HostQ.reset
    visit := (0, 0)
    bar :=
      if cold then Bar.reset
      else { Bar.reset with linkUp := s.bar.linkUp, linkWidth := s.bar.linkWidth, linkRate := s.bar.linkRate
                            cfgServed := s.bar.cfgServed, d3 := s.bar.d3, cfg := s.bar.cfg
                            msixOn := s.bar.msixOn, msixAll := s.bar.msixAll }
    ic := Ic.reset
    log := if cold then { EventLog.reset with nextSeq := s.log.nextSeq } else s.log
    sec :=
      { s.sec with
        cdi0 := none, cdi1 := none, aliasCert := [], slotCert := [], meas := Tbl.empty, sessions := [], versionSet := Vector.replicate 2 false
        algsSet := Vector.replicate 2 false, linkIde := IdeStream.reset, selIde := IdeStream.reset
        recordBad := false, changes := [], ownerHold := false, jtagOpen := false, bypass := false }
    power := { s.power with dimmRail := false, wpN := true, alertWait := none, returning := none, alertEdges := [],
                            sideband := none, sideAddr := none }
    helm := Helm.reset
    tlm := Telemetry.reset
    fresh := [] }

/-- A start begins at a step (Table 10-5): START counts it. Every count and floor of a cold one is 0, but the floor of a firmware slot (R372). -/
def startBegins (s : State) (type step : Nat) (cold : Bool) : State :=
  let s := s.modBoot fun b =>
    { b with
      starts := b.starts + 1, resetType := BitVec.ofNat 8 type, began := s.ns, leftOut := [], latchedOut := [], skipped10 := false
      ladders := if cold then coldCounts b.ladders else b.ladders }
  (s.stepBegins step).bootGoesOn

/-- A warm reset (R384): the link and its configuration space are kept, and start-up runs from step 3. WP_N is asserted through it (R448). -/
def warmReset (s : State) (type : Nat) : State :=
  let s := if s.power.wpN then s else s.emit (.pin "WP_N" false)
  ((s.unitReset false).setLoop.alertStands).startBegins type 3 false

/-- The rails go off, and with them all that the units hold (R437, R440, R406). -/
def railsOff (s : State) : State :=
  let s := s.unitReset true
  let s := s.modBoot fun b => { b with step := 0, todo := [], latchedOut := [], waitPerst := false }
  (s.modPower fun p => { p with rails := false, dimmRail := false }).setLoop

/-! ## A function-level reset (R385) -/

/-- The object map is kept as it stands (R463): writes and promotions of commands that get no record go on without them. -/
def dropTags (s : State) : State :=
  { s with objs := s.objs.mapVals fun _ o =>
      { o with writes := o.writes.map fun w => { w with tag := none }, promoteTags := [] } }

/-- A core is halted and cleared at once (R385). DESIGN CHOICE (log 103): what its operations still under way had not yet written is not
written. -/
def coreKill (s : State) (c : Nat) : State :=
  ((s.coreHalt c).modCore c fun k => { k with regs := { k.regs with mode := .fault } }).coreClear c

/-- A job ends without its steps' ends: cores halted and cleared, entries cancelled, collectives ended, unloaded. -/
def killJob (s : State) (j : Job) : State :=
  let s := (coresOf j.dies).foldl coreKill s
  let s := [0, 1, 2, 3].foldl
    (fun s m =>
      match s.sepShard m with
      | some (k, _) => if k.id == j.id then s.modSep m fun u => { u with mode := .idle, abortReq := false, cur := none, fact := none } else s
      | none => s)
    s
  let s := (j.steps.foldl (fun s r => s.discardUpdate j.id r.n) s).cancelEntries j.id none
  let s := ((s.fab.streams.filter fun k => k.job == j.id).map (·.stream)).foldl dropStream s
  (s.modFab fun b => { b with colls := b.colls.filter fun c => c.job != j.id }).cancelDone.unloadJob j

/-- A group ends with its requests. -/
def killGroup (s : State) (g : Group) : State :=
  let s := ((g.pins.foldl unref ((coresOf g.dies).foldl coreKill s)).cancelEntries (g.id.setWidth 16) none).cancelDone
  ({ s with groups := s.groups.filter fun k => k.id != g.id }).dropSlot g.slot.val

/-- Skimmers stop, and queries end with the references that they hold (R166). -/
def killQueries (s : State) : State :=
  let s := (s.queries.flatMap fun k => k.refs.map (·.toNat)).foldl unref s
  { s with
    queries := []
    skms := s.skms.map fun k => { k with mode := .idle, queue := [], waiting := [], running := none, qdata := [], qscl := [] } }

/-- The function's registers reset (Table 10-5): configuration space, queues, INT_CAUSE, INT_ENABLE, MSI-X. -/
def functionRegs (s : State) : State :=
  let s := { s with queues := tabulate 8 HostQ.reset, visit := (0, 0) }
  let s := s.modBar fun b =>
    { b with
      icEvent := false, icQerr := false, icFatal := false, icState := false, intEnable := 0, stateCnt := 0, fatalCnt := 0
      qerrCnt := 0, eventCnt := 0, msix := Tbl.empty, msixPend := 0, msixOn := false, msixAll := false, msixWait := []
      cfg := Tbl.empty, d3 := false }
  let s := s.modSec fun c => { c with sessions := c.sessions.filter fun x => x.ch != .doe }
  s.ideInsecure.modSec fun c => { c with linkIde := IdeStream.reset, selIde := IdeStream.reset }

/-- FUNCTION_LEVEL_RESET (R385, R386): while start-up runs only the function's registers reset. -/
def functionReset (s : State) : State :=
  if !s.power.rails then s
  else
    let s := s.functionRegs.pulse 0x113
    if s.bar.mode ≠ .ready then s
    else
      let s := ((s.setMode .resetting).stopQueues).dropTags.killQueries
      let s := s.modFab fun b => { b with reshard := none }
      let s := s.jobs.foldl killJob s
      let s := s.groups.foldl killGroup s
      let s := s.images.foldl (fun s i => s.unreserve i.id.toNat) s
      let s := { s with images := [] }
      let s := s.fwEvent 0x0002 true 0xFFFF (Bytes.ofNat 1 6 ++ Bytes.zeros 7 ++ Bytes.ofNat 8 s.boot.starts.toNat)
      s.setMode .ready

/-! ## Device-fatal errors (R329) -/

/-- Fatal codes that a warm reset recovers from (Table 8-5). -/
def warmFatal (c : Nat) : Bool := [1, 2, 3, 6, 7].contains c

/-- A device-fatal error: FATAL with its code, a FATAL record if the log can be written (an uncorrectable error of the SRAM that
holds it leaves that open), every queue stopped. -/
def fatal (s : State) (code : Nat) : State :=
  let s := (s.modBar fun b => { b with fatalCode := BitVec.ofNat 16 code }).setMode .fatal
  let s := s.raiseCause .fatal
  let s := if code = 1 then s.pulse 0x162 else if code = 3 then s.pulse 0x163 else s
  let (n, s) := s.drawNat
  let s := if code = 1 ∧ n % 2 = 0 then s else s.fwEvent 0x0001 true 0xFFFF (Bytes.ofNat 2 code)
  s.stopQueues

end State

/-! ## Meanings -/

/-- STARTUP_ATTEMPT (R370). -/
def execStartupAttempt (step : Fin 12) (u : UnitId) (r : AttemptResult) (s : State) : Host.Outcome State Fault Refusal :=
  .next (s.attempt step.val u r)

/-- STARTUP_WATCHDOG (R373): the attempt fails TIMEOUT, or a warm reset follows when the firmware has stopped. Steps 1 and 2 run
without firmware. -/
def execStartupWatchdog (u : UnitId) (firmwareStopped : Bool) (s : State) : Host.Outcome State Fault Refusal :=
  let step := s.boot.step.toNat
  if s.bar.mode = .booting ∧ s.boot.waitPerst = false ∧ s.boot.todo.contains u = true then
    if firmwareStopped ∧ 3 ≤ step then .next (s.warmReset 5)
    else if s.attempting step u then .next (s.attemptEnds step u { ok := false, cause := 0x01, detail := 0 })
    else .next s
  else .next s

/-- PCIE_LINK_CHANGE (R368, R378): the link trains once step 2 has completed; one that comes up after a skipped step 10 is journalled. -/
def execPcieLinkChange (up : Bool) (width rate : BitVec 8) (s : State) : Host.Outcome State Fault Refusal :=
  if s.runs && s.boot.step != 1 && s.boot.step != 2 then
    let s := (s.modBar fun b =>
      { b with linkUp := up, linkWidth := if up then width else 0, linkRate := if up then rate else 0 }).pulse 0x112
    if up && s.boot.skipped10 && (s.bar.mode == .ready || s.bar.mode == .booting) then
      let s := s.modBoot fun b => { b with skipped10 := false }
      .next (s.outcome 10 (unitOf 0 0) (s.countRung 10 (unitOf 0 0)) 0 0 (s.stepDetail 10 (unitOf 0 0) 0 0))
    else .next s
  else .next s

/-- FUNCTION_LEVEL_RESET (R385). -/
def execFunctionLevelReset (s : State) : Host.Outcome State Fault Refusal := .next s.functionReset

/-- DEVICE_FATAL (R329, Table 8-5). -/
def execDeviceFatal (code : BitVec 16) (s : State) : Host.Outcome State Fault Refusal :=
  if s.power.rails && (s.bar.mode == .ready || s.bar.mode == .booting) && decide (1 ≤ code.toNat ∧ code.toNat ≤ 7) then
    .next (s.fatal code.toNat)
  else .next s

/-- FATAL_RECOVERY_RESET (R384): the warm reset that recovers from a fatal code of Table 8-5. -/
def execFatalRecoveryReset (s : State) : Host.Outcome State Fault Refusal :=
  if s.bar.mode = .fatal ∧ State.warmFatal s.bar.fatalCode.toNat = true then .next (s.warmReset 4) else .next s

end Sys2Proof.Machine
end

