-- ==== Sys2Proof/Machine/CoreRows.lean ====
section
/-!
DEFINITION. The rows of a Churn core (chapter 1): its operation stream, the events of its units, its control register, and the
delivery of remote posts. Every one answers a next state; a row whose event cannot come about in the state leaves it as it is.
-/
namespace Sys2Proof.Machine

/-- The L_max under which a die issues (R395, R400, R401, R405, R407): the lowest that an active defence sets. -/
def ComputeDie.lmax (d : ComputeDie) : Nat :=
  let l := min 8 d.lmaxHelm
  let l := if d.lmaxBurst then min l 4 else l
  let l := if d.droopOn && d.fabricClk then min l 4 else l
  if d.critical then min l 2 else l

namespace State

/-! ## Sequencer operations -/

/-- JUMP redirects fetch (R53): what the buffer holds is dropped. -/
def issueJump (s : State) (c : Nat) (target : BitVec 19) : State :=
  s.modCore c fun k => k.modPipe fun p => { p with fetch := [], fetchPc := target.toNat }

/-- WAIT is satisfied at issue when its semaphore holds COUNT, or is held (R46). -/
def issueWait (s : State) (c seq pc : Nat) (bar : Bool) (sem : BitVec 6) (count : BitVec 16) : State :=
  if count.toNat ≤ ((s.core c).sem sem).toNat then s.satisfyWait c seq pc bar sem count
  else s.hold c seq pc (.wait bar sem count)

/-- Slots of Table 4-9 that a MOVE takes (R170, R172). -/
def moveSlots (s : State) (o : MoveOp) : List Slot :=
  (s.addrSlots o.raddr o.len).filter fun w => o.inbound || (match w with | .host _ => true | _ => false)

/-- The bytes that the next cycle of a MOVE brings: up to the next 64-byte boundary of its destination. -/
def movePiece (c : Nat) (e : MoveEntry) : Nat := 64 - (moveTo c e.op + e.moved) % 64

/-- Whether a MOVE moves a piece in this cycle: one that the mesh lets through and that has its slots, a piece that is not its last, whose
source is not host memory, which answers in the row that ends the MOVE, and does not read poisoned, which that row answers for (R112). -/
def pieceGoes (s : State) (c : Nat) (e : MoveEntry) : Bool :=
  decide (e.moved + movePiece c e < e.op.len) && s.moveAllowed c e.op && s.slotsFree (s.moveSlots e.op) &&
  (match s.placeOf (moveFrom c e.op) with
   | .dram m o _ => !anyPoison (s.dramCells (m * dieSpan + o + e.moved) (movePiece c e))
   | .scratch d o => !anyPoison ((s.core d).readScratch (o + e.moved) (movePiece c e))
   | _ => false)

/-- One arith cycle of the mesh unit (R27): a MOVE reads its next piece and writes it. -/
def moveCycle (s : State) (c : Nat) : State :=
  match (s.core c).pipe.moveQ.find? (s.pieceGoes c) with
  | none => s
  | some e =>
    let n := movePiece c e
    let rs := s.regionsOf (s.workOfCore c)
    let (cs, s) := s.load noEnv rs (moveFrom c e.op + e.moved) n
    (s.store rs (moveTo c e.op + e.moved) cs).modCore c fun k => k.modPipe fun p =>
      { p with moveQ := p.moveQ.map fun m => if m.seq == e.seq then { m with moved := m.moved + n } else m }

/-- A MOVE becomes visible, once it has had its slots; one that brings in poisoned data was a read for a pass of its job's running step
(R112). -/
def moveRow (s : State) (c i : Nat) (x : Env) : State :=
  if !s.slotsFree (match (s.core c).pipe.moveQ[i]? with | some e => s.moveSlots e.op | none => []) then s
  else
  match s.moveRun c i x with
  | (true, s) =>
    (match s.jobOfDie (c / 8) with
     | some j => (match passesRun j with | some r => s.setVerdict j.id r.n 0x04 | none => s)
     | none => s)
  | (false, s) => s

/-- An event of core `c` whose operation a fault of this arith cycle may have taken from its unit: what it would have raised there counts
against that fault (R461), and nothing else of it happens. -/
def race (s : State) (c : Nat) (ev : State → State) : State :=
  match (s.core c).was with
  | none => ev s
  | some (p, a) =>
    let t := ev (s.modCore c fun k =>
      { k with regs := { k.regs with mode := .run, faultCause := 0 }, pipe := p, arr := a, was := none })
    match (t.core c).raised with
    | some (seq, cz, pc) => (ev s).markFault c seq cz pc
    | none => ev s

/-- A held WAIT finds its semaphore at COUNT (R46). -/
def waitMet (s : State) (c : Nat) : State :=
  match (s.core c).pipe.held with
  | some ⟨seq, pc, .wait bar sem count, _, none⟩ =>
    if count.toNat ≤ ((s.core c).sem sem).toNat then (s.satisfyWait c seq pc bar sem count).settle c else s
  | _ => s

/-- The start-stagger hold of a satisfied WAIT ends (R42). -/
def staggerEnds (s : State) (c : Nat) : State :=
  match (s.core c).pipe.held with
  | some h => if h.stagger = some 0 then (s.dropHeld c).settle c else s
  | none => s

/-- Arith cycles after which an unsatisfied WAIT faults (R49); none when the watchdog is off. -/
def wdogCycles (k : Core) : Option Nat :=
  if k.regs.wdog = 0 then none else some (2 ^ max 16 (min k.regs.wdog.toNat 47))

/-- A held WAIT has waited too long (R49). -/
def waitTooLong (s : State) (c : Nat) : State :=
  match (s.core c).pipe.held with
  | some ⟨seq, pc, .wait _ sem count, waited, none⟩ =>
    match wdogCycles (s.core c) with
    | some n =>
      if n ≤ waited ∧ ((s.core c).sem sem).toNat < count.toNat then (s.markFault c seq .waitTimeout pc).settle c else s
    | none => s
  | _ => s

/-! ## The activity ramp (R39 to R41) -/

/-- A boundary of the activity level (R37, R39): held during a replay. A lowered L_max takes the level down with it, so that a raised
one is reached by the ramp (R395). -/
def levelStep (s : State) (c : Nat) : State :=
  let top := (s.die (c / 8)).lmax
  s.modCore c fun k =>
    let a := k.arr
    if a.replay.isSome || !(a.level == 0 || decide (4 ≤ a.cycle4)) then k
    else
      let level := if stepReady k then min (a.level + 1) top else if 64 ≤ a.idleFor then a.level - 1 else a.level
      k.modArr fun a => { a with level := level, cycle4 := 0, credit := if level = 0 then 0 else a.credit }

/-- A grant (R40, R41): the credit pays for the next real step, or for a dummy step, which changes nothing that the core holds. -/
def grant (s : State) (c : Nat) (x : Env) : State :=
  if (s.core c).arr.credit < 8 then s
  else
    let s := s.modCore c fun k => k.modArr fun a => { a with credit := a.credit - 8 }
    match nextStep (s.core c) with
    | some (e, l, again) => (s.grantStep c x e l again).settle c
    | none => s

/-- CORE_BUSY counts one more cycle past its largest value (Table 1-22, R424). -/
def busyWraps (s : State) (c : Nat) : State :=
  let r := (s.core c).regs
  if r.mode = .run ∧ r.busy = BitVec.allOnes 48 then
    (s.occur (regKey 0 c 0x20) 15).modCore c fun k =>
      k.modRegs fun r => { r with busy := 0, wrapped := true, wrapCnt := Word.satInc r.wrapCnt }
  else s

end State

/-! ## Meanings: the operation stream -/

/-- OPERATION_FETCH (R16, R19, R51). -/
def execOperationFetch (c : CoreId) (x : Env) (s : State) : Host.Outcome State Fault Refusal :=
  .next (s.react (s.fetchTwo c.val x))

/-- NOP issues and has no effect (R20). -/
def execNop (c : CoreId) (s : State) : Host.Outcome State Fault Refusal :=
  .next (s.react (s.coreIssue c.val (fun o => o == .nop) fun s _ _ _ => s))

/-- END is held until every earlier operation has retired, then the core enters IDLE (R26). -/
def execEndOp (c : CoreId) (s : State) : Host.Outcome State Fault Refusal :=
  .next (s.react (s.coreIssue c.val (fun o => o == .endOp) fun s seq pc op => s.hold c.val seq pc op))

/-- SYNC is held until every earlier operation has retired (R26). -/
def execSync (c : CoreId) (s : State) : Host.Outcome State Fault Refusal :=
  .next (s.react (s.coreIssue c.val (fun o => o == .sync) fun s seq pc op => s.hold c.val seq pc op))

/-- JUMP (R53). -/
def execJump (c : CoreId) (s : State) : Host.Outcome State Fault Refusal :=
  .next (s.react (s.coreIssue c.val (fun o => match o with | .jump _ => true | _ => false) fun s _ _ op =>
    match op with | .jump t => s.issueJump c.val t | _ => s))

/-- PHASE is held until every earlier operation has retired, then writes CORE_PHASE (R44). -/
def execPhase (c : CoreId) (s : State) : Host.Outcome State Fault Refusal :=
  .next (s.react (s.coreIssue c.val (fun o => match o with | .phase _ => true | _ => false) fun s seq pc op =>
    s.hold c.val seq pc op))

/-- WAIT (R46). -/
def execWait (c : CoreId) (s : State) : Host.Outcome State Fault Refusal :=
  .next (s.react (s.coreIssue c.val (fun o => match o with | .wait _ _ _ => true | _ => false) fun s seq pc op =>
    match op with | .wait bar sem count => s.issueWait c.val seq pc bar sem count | _ => s))

/-- POST is held until every earlier operation has retired, then posts (R46 to R48). -/
def execPost (c : CoreId) (s : State) : Host.Outcome State Fault Refusal :=
  .next (s.react (s.coreIssue c.val (fun o => match o with | .post _ _ _ => true | _ => false) fun s seq pc op =>
    s.hold c.val seq pc op))

/-- LDS (R21, R24, R53). -/
def execLds (c : CoreId) (s : State) : Host.Outcome State Fault Refusal :=
  .next (s.react (s.coreIssue c.val (fun o => match o with | .lds _ => true | _ => false) fun s seq pc op =>
    match op with | .lds o => s.issueLds c.val seq pc o | _ => s))

/-- ACCLD (R23, R86). -/
def execAccld (c : CoreId) (s : State) : Host.Outcome State Fault Refusal :=
  .next (s.react (s.coreIssue c.val (fun o => match o with | .accld _ => true | _ => false) fun s seq pc op =>
    match op with | .accld o => s.issueAccld c.val seq pc o | _ => s))

/-- ANCH (R33, R34). -/
def execAnch (c : CoreId) (s : State) : Host.Outcome State Fault Refusal :=
  .next (s.react (s.coreIssue c.val (fun o => match o with | .anch _ => true | _ => false) fun s seq pc op =>
    match op with | .anch o => s.issueAnch c.val seq pc o | _ => s))

/-- PASS (R12, R23, R24, R43, R96). -/
def execPass (c : CoreId) (s : State) : Host.Outcome State Fault Refusal :=
  .next (s.react (s.coreIssue c.val (fun o => match o with | .pass _ => true | _ => false) fun s seq pc op =>
    match op with | .pass o => s.issuePass c.val seq pc o | _ => s))

/-- DRAIN (R29, R52). -/
def execDrain (c : CoreId) (s : State) : Host.Outcome State Fault Refusal :=
  .next (s.react (s.coreIssue c.val (fun o => match o with | .drain _ => true | _ => false) fun s seq pc op =>
    match op with | .drain o => s.issueDrain c.val seq pc o | _ => s))

/-- QUANT (R87). -/
def execQuant (c : CoreId) (s : State) : Host.Outcome State Fault Refusal :=
  .next (s.react (s.coreIssue c.val (fun o => match o with | .quant _ => true | _ => false) fun s seq pc op =>
    match op with | .quant o => s.issueQuant c.val seq pc o | _ => s))

/-- MOVE (R55). -/
def execMove (c : CoreId) (s : State) : Host.Outcome State Fault Refusal :=
  .next (s.react (s.coreIssue c.val (fun o => match o with | .move _ => true | _ => false) fun s seq pc op =>
    match op with | .move o => s.issueMove c.val seq pc o | _ => s))

/-! ## Meanings: events of the units -/

/-- LDS_LAST_ROW (R21, R28). -/
def execLdsLastRow (c : CoreId) (x : Env) (s : State) : Host.Outcome State Fault Refusal :=
  .next (s.react (s.race c.val (·.ldsRun c.val x)))

/-- ACCLD_LAST_LINE (R28, R82, R86). -/
def execAccldLastLine (c : CoreId) (x : Env) (s : State) : Host.Outcome State Fault Refusal :=
  .next (s.react (s.race c.val (·.accldRun c.val x)))

/-- ANCH_PLACED (R34, R78). -/
def execAnchPlaced (c : CoreId) (x : Env) (s : State) : Host.Outcome State Fault Refusal :=
  .next (s.react (s.race c.val (·.anchRun c.val x)))

/-- CONTRIBUTION_LANDS (R72 to R76), with the replay of R35 on an overflow. -/
def execContributionLands (c : CoreId) (s : State) : Host.Outcome State Fault Refusal := .next (s.react (s.race c.val (·.landStep c.val)))

/-- DRAIN_CAPTURE (R23, R29, R98). -/
def execDrainCapture (c : CoreId) (s : State) : Host.Outcome State Fault Refusal := .next (s.react (s.race c.val (·.capture c.val)))

/-- DRAIN_STREAM_DONE (R30 to R32). -/
def execDrainStreamDone (c : CoreId) (s : State) : Host.Outcome State Fault Refusal := .next (s.react (s.race c.val (·.streamDone c.val)))

/-- QUANT_DONE (R22, R87). -/
def execQuantDone (c : CoreId) (x : Env) (s : State) : Host.Outcome State Fault Refusal := .next (s.react (s.race c.val (·.quantRun c.val x)))

/-- MOVE_VISIBLE (R48, R55, R153). -/
def execMoveVisible (c : CoreId) (i : Fin 16) (x : Env) (s : State) : Host.Outcome State Fault Refusal :=
  .next (s.react ((s.withEnv x).race c.val (·.moveRow c.val i.val x)))

/-- MESH_REFUSAL (R55, R147). -/
def execMeshRefusal (c : CoreId) (i : Fin 16) (s : State) : Host.Outcome State Fault Refusal :=
  .next (s.react (s.race c.val (·.moveRefused c.val i.val)))

/-- LEVEL_BOUNDARY (R37, R39). -/
def execLevelBoundary (c : CoreId) (s : State) : Host.Outcome State Fault Refusal := .next (s.levelStep c.val)

/-- STEP_GRANT (R11, R40, R41). -/
def execStepGrant (c : CoreId) (x : Env) (s : State) : Host.Outcome State Fault Refusal := .next (s.react (s.race c.val (·.grant c.val x)))

/-- WAIT_SATISFIED (R42, R46). -/
def execWaitSatisfied (c : CoreId) (s : State) : Host.Outcome State Fault Refusal := .next (s.react (s.waitMet c.val))

/-- STAGGER_RELEASE (R42). -/
def execStaggerRelease (c : CoreId) (s : State) : Host.Outcome State Fault Refusal := .next (s.react (s.staggerEnds c.val))

/-- WAIT_TIMEOUT (R49, R58). -/
def execWaitTimeout (c : CoreId) (s : State) : Host.Outcome State Fault Refusal := .next (s.react (s.race c.val (·.waitTooLong c.val)))

/-- HALT_REQ (R56, Table 1-20). -/
def execHaltReq (c : CoreId) (s : State) : Host.Outcome State Fault Refusal := .next (s.react (s.coreHalt c.val))

/-- CLEAR (R56, Table 1-20). -/
def execClear (c : CoreId) (s : State) : Host.Outcome State Fault Refusal := .next (s.react (s.coreClear c.val))

/-- START (R56, Table 1-20). -/
def execStart (c : CoreId) (s : State) : Host.Outcome State Fault Refusal := .next (s.react (s.coreStart c.val))

/-- CORE_BUSY_WRAP (R57, R424). -/
def execCoreBusyWrap (c : CoreId) (s : State) : Host.Outcome State Fault Refusal := .next (s.busyWraps c.val)

/-- REMOTE_POST_DELIVERY (R47, R48). -/
def execRemotePostDelivery (i : Nat) (s : State) : Host.Outcome State Fault Refusal := .next (s.react (s.deliverPost i))

end Sys2Proof.Machine
end

