-- ==== Sys2Proof/Machine/Secrecy.lean ====
section
/-!
DEFINITION. Ownership (R341 to R345, R357 to R362), SPDM (R350 to R353) and the sideband's messages (R349, R366, R430).
What a response body lists is what the response conveys; the layouts of the SPDM standard are not repeated here.
-/
namespace Sys2Proof.Machine

/-! ## Signed blocks (Tables 9-3, 9-4) -/

/-- Body bytes and signatures of a subcommand. -/
def blockShape : Nat → Option (Nat × Nat)
  | 0 => some (160, 1)
  | 1 => some (160, 2)
  | 2 => some (0, 1)
  | 3 => some (64, 1)
  | 4 => some (16, 1)
  | 5 => some (320, 1)
  | _ => none

/-- Bits that byte `i` of an owner policy may have set (Table 9-8). -/
def policyMask (i : Nat) : Nat := if i = 0 then 0x3F else if i < 4 ∨ 56 ≤ i then 0 else 0xFF

/-- Bits that byte `i` of a block's header and body may have set. -/
def blockMask (subop i : Nat) : Nat :=
  if i = 5 then (if subop = 1 then 0x01 else 0)
  else if 28 ≤ i ∧ i < 32 then 0
  else if 32 ≤ i ∧ i < 80 then (if subop = 0 ∨ subop = 4 then 0xFF else 0)
  else if 80 ≤ i ∧ i < 128 then 0
  else if i < 128 then 0xFF
  else
    let b := i - 128
    match subop with
    | 0 | 1 => if b < 96 then 0xFF else policyMask (b - 96)
    | 3 => policyMask b
    | 4 => if b = 0 then 0x1F else 0
    | _ => 0xFF

/-- Offset of the first byte that breaks the layout (R342 check 1). -/
def blockBad (b : List Byte) (len : Nat) : Option Nat :=
  let subop := Bytes.field b 4 1
  if Bytes.field b 0 4 ≠ 0x424E574F then some 0
  else
    match blockShape subop with
    | none => some 4
    | some (body, sigs) =>
      if Bytes.field b 6 2 ≠ body ∨ len ≠ 128 + body + 96 * sigs then some 6
      else (List.range (128 + body)).find? fun i =>
        let v := Bytes.field b i 1
        v &&& blockMask subop i != v

namespace State

/-- The condition of R340: start-up has halted because the ownership record cannot be trusted. -/
def recordLost (s : State) : Bool := s.bar.mode == .halted && s.sec.recordBad

/-- Whether Table 9-2 permits a subcommand in the current state. -/
def ownerAllows (s : State) (subop : Nat) : Bool :=
  if s.recordLost then subop == 2
  else
    match s.sec.mode with
    | .unowned => subop == 0
    | .owned => subop == 1 || subop == 3 || subop == 4 || subop == 2
    | .debug => subop == 5 || subop == 2

/-- The vendor's keys whose hashes the fuses hold and whose revoke fuses are not burned (R346). -/
def vendorKeys (s : State) : List (List Byte) :=
  ((List.range 4).filter fun k => !s.sec.revoked.getLsbD k && vget 0 s.sec.vendorHashes k == Config.sha384 (Config.vendorKey k)).map
    Config.vendorKey

/-- For each signature of a block, in order, the keys of which one must have made it (Table 9-4). -/
def blockKeys (s : State) (subop : Nat) (b : List Byte) : List (List (List Byte)) :=
  let newKey := Bytes.slice b 128 96
  if s.recordLost then [s.vendorKeys]
  else if subop = 0 then [[newKey]]
  else if subop = 1 then [[s.sec.ownerKey], [newKey]]
  else [[s.sec.ownerKey]]

/-- The checks of R342, in order. -/
def blockError (s : State) (subop : Nat) (b : List Byte) (len : Nat) : Option (BitVec 8 × Nat) :=
  match blockBad b len with
  | some i => some (Status.invalidField, 0x8000 + i)
  | none =>
    let body := Bytes.field b 6 2
    let seq := Bytes.field b 16 8
    let seqOk := if subop = 0 then true else if s.recordLost then seq == 0 else decide (s.sec.ownerSeq.toNat < seq)
    let signed := b.take (128 + body)
    let sigs := (s.blockKeys subop b).zipIdx.all fun k =>
      k.1.any fun key => Config.sigVerifies key signed (Bytes.slice b (128 + body + 96 * k.2) 96)
    if Bytes.field b 4 1 ≠ subop then some (Status.invalidField, 0x8004)
    else if !s.ownerAllows subop then some (Status.notPermitted, 0x01)
    else if Bytes.field b 8 8 ≠ Config.serial.toNat ∨ Bytes.field b 24 4 ≠ s.sec.epochFuses then some (Status.notPermitted, 0x02)
    else if !seqOk then some (Status.notPermitted, 0x03)
    else if (subop = 0 ∨ subop = 4) ∧ Bytes.slice b 32 48 ≠ digestBytes s.sec.nonce then some (Status.notPermitted, 0x04)
    else if !sigs then some (Status.signatureFailed, 0)
    else none

/-- A job or group is loaded. -/
def anyLoaded (s : State) : Bool := !s.jobs.isEmpty || !s.groups.isEmpty

/-- ERASE of a TRANSFER. -/
def erases (subop : Nat) (b : List Byte) : Bool := subop == 1 && Bytes.bit (Bytes.field b 5 1) 0

/-- The generation of flash keys that an escrow blob opens to (R362): every blob of the present epoch opens, the keys of which a crypto-erase
within the epoch has since replaced too. -/
def blobKeys (s : State) (blob : List Byte) : Option Nat :=
  if Bytes.field blob 0 4 = 0x57534345 ∧ Bytes.field blob 4 4 = s.sec.epochFuses then
    (s.sec.heldFlashKey.toList ++ List.range s.sec.keyNext).find? fun g =>
      blob.drop 48 == Bytes.fit 272 (Config.escrowSeal s.sec.epochFuses g (blob.take 48))
  else none

/-- What an accepted block may still be refused for (R345, R362, R454, Table 7-8): a loaded job, no fuse left, an escrow blob that does not
open. DESIGN CHOICE (log 37): a DEBUG_LOCK while a job or group is loaded completes as a RELEASE or DEBUG_UNLOCK then does. -/
def changeError (s : State) (subop : Nat) (b : List Byte) : Option (BitVec 8 × Nat) :=
  if (subop = 0 ∨ erases subop b) ∧ s.anyLoaded then some (Status.notPermitted, 0x08)
  else if subop = 0 ∧ 128 ≤ s.sec.epochFuses then some (Status.notPermitted, 0x07)
  else if (subop = 2 ∨ subop = 4 ∨ subop = 5) ∧ s.anyLoaded then some (Status.inUse, 8)
  else if subop = 5 ∧ (s.blobKeys (Bytes.slice b 128 320)).isNone then some (Status.notPermitted, 0x0A)
  else none

/-! ## Effects -/

/-- Every scratchpad, shared cache, Separator and Skimmer buffer is zero-filled, and DRAM keys are drawn anew (R344, R360, R462). -/
def wipe (s : State) : State :=
  { s with
    cores := s.cores.map fun c => { c with scratch := Mem.empty }
    seps := s.seps.map fun u => { u with fact := none, parked := [], staged := [] }
    skms := s.skms.map fun k => { k with qdata := [], qscl := [] }
    mems := s.mems.map fun d => { d with cache := Tbl.empty, keyGen := d.keyGen + 1 }
    dram := Mem.empty }

/-- A crypto-erase (R344): keys zeroized and made anew, buffers filled, every object FREE. -/
def cryptoErase (s : State) : State :=
  let s := s.wipe
  let ms := s.mems.map fun d => { d with copies := [] }
  let fs := s.flashes.map fun d => d.modTables fun _ => Tbl.empty
  let s := { s with objs := Tbl.empty, mems := ms, flashes := fs }
  (s.modSec fun c =>
    { c with flashKeyGen := c.keyNext, keyNext := c.keyNext + 1, heldFlashKey := none, metaKeyGen := c.metaKeyGen + 1
             escrow := none }).pulse 0x154

/-- A change of security state (R352): sessions and IDE streams end, and every UP port runs a full handshake again. -/
def stateChanges (s : State) : State :=
  let s := s.endSessions.ideInsecure
  (List.range 8).foldl (fun s p => if (s.port p).mode = .up then s.portRetrain p true else s) s

/-- VAL_LOG is withdrawn where neither the policy nor the debug scope permits it (R359). -/
def fixValLog (s : State) : State :=
  if s.sec.policy.valLogAllow || (s.sec.mode == .debug && s.sec.scope.getLsbD 4) then s
  else { s with dies := s.dies.map fun d => { d with sxt := { d.sxt with valLog := false, probe := d.sxt.probe.map fun p => { p with valLog := false } } } }

/-- After an accepted block (R348): measurements 6 to 9, the alias key and its certificate, sessions ended, DEV_STATE.SEC. -/
def blockTaken (s : State) : State :=
  ((s.measureOwner.deriveAlias.placeCert.endSessions).fixValLog).setSecCode (BitVec.ofNat 2 s.sec.mode.code)

/-- The 320 bytes of a new escrow blob (Table 9-9). -/
def newEscrow (s : State) : List Byte :=
  let iv := Bytes.ofNat 12 (Config.random s.sec.nonceNext).toNat
  let head := Bytes.ofNat 4 0x57534345 ++ Bytes.ofNat 4 s.sec.epochFuses ++ Bytes.ofNat 8 Config.serial.toNat ++
    Bytes.ofNat 8 s.sec.ownerSeq.toNat ++ iv ++ Bytes.zeros 12
  head ++ Bytes.fit 272 (Config.escrowSeal s.sec.epochFuses s.sec.flashKeyGen head)

/-- The escrow blob is made; it is written to the host by the command. -/
def makeEscrow (s : State) : State :=
  let e := s.newEscrow
  (s.modSec fun c => { c with escrow := some e, nonceNext := c.nonceNext + 1 }).pulse 0x154

/-- DEBUG_UNLOCK (R360). -/
def debugUnlock (s : State) (scope : BitVec 64) : State :=
  let s := s.wipe
  let ms := s.mems.map fun d => { d with copies := [] }
  let os : Tbl Obj := (s.objs.keep fun _ (o : Obj) => o.home != Home.dram).mapVals fun _ (o : Obj) => o.dropCopy
  let s := { s with objs := os, mems := ms }
  let s := s.modSec fun c =>
    { c with mode := .debug, scope := scope, heldFlashKey := some c.flashKeyGen, flashKeyGen := c.keyNext, keyNext := c.keyNext + 1 }
  let s := (s.pulse 0x154).stateChanges
  s.modSec fun c => { c with jtagOpen := true }

/-- What a flash-home object holds when its die's key is not the one that it was written under: undefined bytes. DESIGN CHOICE (log 100). -/
def garble (s : State) (oid : Nat) : State :=
  match s.obj? oid with
  | some o =>
    if o.home = .flash ∧ o.committed then
      let (bs, s) := s.drawBytes o.len
      s.modObj oid fun o => { o with data := ((List.range o.len).zip bs).foldl (fun t p => t.set 0 p.1 p.2) Tbl.empty }
    else s
  | none => s

/-- DEBUG_LOCK up to its completion (R362): the flash keys of generation `g`, from the escrow blob, return, and what was written since the
unlock goes. -/
def debugLock (s : State) (g : Nat) : State :=
  let gone := s.objs.keys.filter s.debugWritten
  let s := gone.foldl freeObj s
  let s := if s.sec.heldFlashKey = some g then s else s.objs.keys.foldl garble s
  let s := s.modSec fun c =>
    { c with mode := .owned, scope := 0, flashKeyGen := g, heldFlashKey := none, jtagOpen := false, bypass := false }
  (s.pulse 0x154).stateChanges

/-- The effects of an accepted block, in the order of Table 9-2, with the record written (R345). -/
def applyBlock (s : State) (subop : Nat) (b : List Byte) : State :=
  let seq := BitVec.ofNat 64 (Bytes.field b 16 8)
  let s := s.modSec fun c => { c with ownerSeq := seq, primaryOk := true, secondaryOk := true }
  let take (s : State) (off : Nat) : State := s.modSec fun c => { c with policy := policyOf (b.drop off) }
  let s := match subop with
    | 0 =>
      let s := (s.cryptoErase).modSec fun c =>
        { c with epochFuses := c.epochFuses + 1, mode := .owned, ownerKey := Bytes.slice b 128 96 }
      ((take s 224).makeEscrow).stateChanges
    | 1 =>
      let s := if erases subop b then s.cryptoErase else s
      let s := s.modSec fun c => { c with ownerKey := Bytes.slice b 128 96 }
      (take s 224).makeEscrow
    | 2 =>
      let s := (s.cryptoErase).modSec fun c =>
        { c with epochFuses := c.epochFuses + 1, mode := .unowned, ownerKey := [], policy := Policy.default, scope := 0
                 jtagOpen := false, bypass := false, recordBad := false }
      s.stateChanges
    | 3 => take s 128
    | 4 => s.debugUnlock (BitVec.ofNat 64 (Bytes.field b 128 8))
    | _ => s.debugLock ((s.blobKeys (Bytes.slice b 128 320)).getD s.sec.flashKeyGen)
  (s.pulse 0x156).blockTaken

/-- A subcommand that waits for every command in flight (R345). -/
def mustWait (subop : Nat) (b : List Byte) : Bool := subop == 0 || erases subop b || subop == 2 || subop == 4 || subop == 5

/-- A command that cannot go on before an OWNERSHIP command of its queue has completed: a FENCE behind one (R316), or one that depends on it
(R292). -/
def behindChange (h : HostQ) (f : Flight) : Bool :=
  !f.started && h.flights.any fun g => decide (g.n < f.n) && g.opc == 0x07 && (f.opc == 0x25 || g.n + f.dep == f.n)

/-- Every command in flight has completed (R345), but for ownership changes and what cannot start before one of them has completed. -/
def quiet (s : State) : Bool :=
  (List.range 8).all fun q =>
    let h := s.queue q
    (h.flights.takeWhile fun f => !behindChange h f).all fun f => f.opc == 0x07

/-- Post a queue's waiting records. -/
def postAll (q : Nat) : Nat → State → State
  | 0, s => s
  | k + 1, s => postAll q k (s.postRecord q)

/-- A queue's ring has room for its waiting records and for one more, and they may leave. -/
def recordsFit (s : State) (q : Nat) : Bool :=
  let h := s.queue q
  let size := 2 ^ h.cqLog2.toNat
  let used := (h.cqTail.toNat + size - h.head) % size
  decide (used + h.waiting.length + 1 < size) && !s.bar.d3 && !s.ideStall

/-- A command completes OK on its ring and the warm reset begins (R297, R362). While the ring has no room for its record, the
command waits. -/
def resetAfter (s : State) (q : Nat) (f : Flight) (r0 : Nat) (type : Nat) (effect : State → State) : State :=
  if s.recordsFit q then
    let need := (s.queue q).waiting.length + 1
    let s := effect s
    let s := s.complete q f Status.ok 0 (BitVec.ofNat 32 r0) 0
    (postAll q need s).warmReset type
  else s

/-- A response over MCTP: a status of Table 7-7 and its DETAIL. -/
def blockAnswer (s : State) (st : BitVec 8) (d : Nat) : State :=
  s.emit (.mctp 0x04 (Bytes.ofNat 1 st.toNat ++ Bytes.zeros 1 ++ Bytes.ofNat 2 d))

/-- The queue and the flight of the command that carries a block. -/
def changeFlight (s : State) (c : OwnerChange) : Option (Nat × Flight) :=
  c.cmd.bind fun p => ((s.queue p.1.val).flights.find? fun f => f.n == p.2 && f.started).map fun f => (p.1.val, f)

/-- The first change is over, and fetching resumes (R345). -/
def endChange (s : State) : State := s.modSec fun c => { c with changes := c.changes.drop 1, ownerHold := false }

/-- The first change fails: its command, or OWNER_BLOCK, gets a status. -/
def failChange (s : State) (c : OwnerChange) (st : BitVec 8) (d : Nat) : State :=
  match s.changeFlight c with
  | some (q, f) => s.endChange.refuse q f st d
  | none => s.endChange.blockAnswer st d

/-- SUBOP and LEN of a change: its command's, or its block's own. -/
def changeForm (s : State) (c : OwnerChange) : Nat × Nat :=
  match s.changeFlight c with
  | some (_, f) => (f.arg 8 1, f.arg 24 4)
  | none => (Bytes.field c.block 4 1, c.block.length)

/-- What refuses the first change, as things stand. -/
def changeRefused (s : State) (c : OwnerChange) : Option (BitVec 8 × Nat) :=
  let (subop, len) := s.changeForm c
  match s.blockError subop c.block len with
  | some e => some e
  | none => s.changeError subop c.block

/-- A change that its checks let through must wait (R345, R354): for the commands in flight, for room for the record of a DEBUG_LOCK that a
reset follows, or for a Secure stream to write the escrow blob. -/
def changeWaits (s : State) (c : OwnerChange) : Bool :=
  let subop := (s.changeForm c).1
  (mustWait subop c.block && !s.quiet) ||
  match s.changeFlight c with
  | some (q, _) => (subop == 5 && !s.recordsFit q) || (decide (subop < 2) && s.ideStall)
  | none => false

/-- The effects of the first change and its answer. The vendor's RELEASE in the condition of R340 is followed by a warm reset (R380). -/
def makeChange (s : State) (c : OwnerChange) : State :=
  let b := c.block
  let subop := (s.changeForm c).1
  match s.changeFlight c with
  | some (q, f) =>
    if subop = 5 then s.endChange.resetAfter q f 1 3 fun s => s.applyBlock 5 b
    else
      let s := s.endChange.applyBlock subop b
      let s := match s.sec.escrow with
        | some e => if subop < 2 then s.hostPut (f.arg 16 8 + Word.roundUp (f.arg 24 4) 64) e else s
        | none => s
      s.finishOk q f (BitVec.ofNat 32 s.sec.mode.code) 0
  | none =>
    let lost := s.recordLost
    let s := (s.endChange.applyBlock subop b).blockAnswer Status.ok 0
    if lost then s.warmReset 2 else if subop = 5 then s.warmReset 3 else s

/-- Ownership changes go on, one at a time and in the order in which they came (R345): the first is refused, waits, or is made; one whose
command a reset of the function has ended is dropped. -/
def changesGo : Nat → State → State
  | 0, s => s
  | k + 1, s =>
    match s.sec.changes with
    | [] => s
    | c :: _ =>
      if c.cmd.isSome && (s.changeFlight c).isNone then changesGo k s.endChange
      else
        match s.changeRefused c with
        | some (st, d) => changesGo k (s.failChange c st d)
        | none =>
          if s.changeWaits c then s.modSec fun x => { x with ownerHold := mustWait (s.changeForm c).1 c.block }
          else changesGo k (s.makeChange c)

/-- Go on with the ownership changes that wait, while the device takes them. -/
def changesMove (s : State) : State :=
  if s.bar.mode == .ready || s.recordLost then changesGo s.sec.changes.length s else s

/-- OWNERSHIP (Table 7-8): its block has reached the binnacle. -/
def ownershipCmd (s : State) (q : Nat) (f : Flight) : State :=
  if 5 < f.arg 8 1 then s.refuse q f Status.invalidField 8
  else if f.arg 16 8 % 64 ≠ 0 then s.refuse q f Status.invalidField 16
  else
    let c : OwnerChange := { cmd := some (Fin.ofNat 8 q, f.n), block := s.hostBytes (f.arg 16 8) (min (f.arg 24 4) 1024) }
    if s.sec.changes.any fun k => k.cmd == c.cmd then s.changesMove
    else (s.modSec fun k => { k with changes := k.changes ++ [c] }).changesMove

/-- A host access of an OWNERSHIP command has failed: its change is not made. -/
def dropChange (s : State) (q : Nat) (f : Flight) : State :=
  s.modSec fun c => { c with changes := c.changes.filter fun k => k.cmd != some (Fin.ofNat 8 q, f.n), ownerHold := false }

/-- Run the OWNERSHIP command of a tag if its subcommand is this row's; CLAIM's row takes the codes that Table 7-8 does not
assign. -/
def ownership (s : State) (t : Tag) (x : Env) (subop : Nat) : State :=
  match s.flightOf t with
  | some (q, f) =>
    if f.arg 8 1 = subop ∨ (subop = 0 ∧ 5 < f.arg 8 1) then
      s.react (s.runAgain t 0x07 x ownershipCmd fun s f => s.dropChange q f)
    else s
  | none => s

/-! ## The sideband (R366, R430) -/

/-- The sideband answers once step 3 has completed, whatever state the device is in (R430). -/
def sidebandUp (s : State) : Bool :=
  s.runs && (s.bar.mode == .ready || s.bar.mode == .resetting || decide (4 ≤ s.bar.bootStep.toNat))

/-- An MCTP message arrives: the first transaction chooses the protocol, and any that is no I3C broadcast command chooses SMBus at
address 0x64. -/
def mctpIn (s : State) : State :=
  let s := s.modPower fun p =>
    match p.sideband with
    | none => { p with sideband := some false, sideAddr := some 0x64 }
    | some _ => p
  s.pulse 0x111

/-- Bytes of a temperature or power that Table 11-7 lays out. -/
def byteOf (n : Nat) : List Byte := Bytes.ofNat 1 (min n 255)

/-- Watts of a window average, rounded to 1 W (R365). -/
def watts (s : State) (sum : Nat) : Nat := Frac.round (Frac.mul (s.windowAvg sum) (Frac.quot 1 1000))

/-- The record of Table 11-7: 256 bytes. -/
def powerRecord (s : State) : List Byte :=
  let h := s.helm
  let w (n : Nat) : List Byte := Bytes.ofNat 2 (min n 65535)
  Bytes.ofNat 8 h.windowAt ++ w (s.watts h.last.input) ++ w (s.watts (computeSum h.last + h.last.other)) ++
  w (s.watts h.last.dimm) ++ w (s.watts h.last.flash) ++
  ((List.range 8).flatMap fun p => Bytes.ofNat 1 ((s.lowestPoint p).getD 0xFF)) ++
  ((List.range 8).flatMap fun p => Bytes.ofNat 4 (vget Shortfall.reset h.shortfall p).windows.toNat) ++
  Bytes.ofNat 4 h.droopCnt.toNat ++ Bytes.ofNat 4 h.alertCnt.toNat ++ Bytes.ofNat 4 h.thermCnt.toNat ++
  Bytes.ofNat 4 h.limitedCnt.toNat ++ ((List.range 40).flatMap fun i => byteOf (h.tempsSec.dies.getD i 0)) ++
  ((List.range 16).flatMap fun c =>
    byteOf (if (s.memDie (c / 4)).inService.getLsbD (c % 4) then h.tempsSec.dimms.getD c 0 else 0)) ++
  ((List.range 4).flatMap fun f => byteOf (h.tempsSec.flash.getD f 0)) ++ Bytes.zeros 124

/-- Power and temperature over the sideband (R365): the fields of Table 11-7 that hold them. -/
def coarsePower (s : State) : List Byte := Bytes.slice s.powerRecord 0 16 ++ Bytes.slice s.powerRecord 72 60

/-- Logbook records from a SEQ on. -/
def logbookFrom (s : State) (start : BitVec 64) (count : Nat) : List Byte :=
  ((s.boot.logB.filter fun r => decide (start ≤ r.seq)).take count).flatMap logBytes

/-- OWNER_BLOCK (R366): a RELEASE or DEBUG_LOCK block, handled as OWNERSHIP handles it, in its turn (R345). -/
def ownerBlock (s : State) (b : List Byte) : State :=
  let subop := Bytes.field b 4 1
  if subop ≠ 2 ∧ subop ≠ 5 then s.blockAnswer Status.invalidField 0x8004
  else (s.modSec fun k => { k with changes := k.changes ++ [{ cmd := none, block := b }] }).changesMove

/-! ## SPDM (R351) -/

/-- Place of a channel. -/
def chanNo : SpdmChan → Nat
  | .doe => 0 | .mctp => 1

/-- The responder runs once the certificate stands in slot 0, at READY; DOE needs the link. -/
def spdmUp (s : State) (ch : SpdmChan) : Bool :=
  s.bar.mode == .ready && (match ch with | .doe => s.bar.linkUp | .mctp => s.sidebandUp)

/-- An SPDM request arrives: its mailbox's interrupt source pulses. -/
def spdmIn (s : State) (ch : SpdmChan) : State :=
  match ch with | .doe => s.pulse 0x110 | .mctp => s.mctpIn

/-- An ERROR response: its code, and the request it answers where the code names one. -/
def spdmError (s : State) (ch : SpdmChan) (code : Nat) (request : BitVec 8) : State :=
  s.emit (.spdm ch 0x7F (Bytes.ofNat 1 code ++ Bytes.ofNat 1 request.toNat))

/-- Answer a request: nothing while the responder does not run; UnexpectedRequest before the algorithms are settled. -/
def spdmAnswer (s : State) (ch : SpdmChan) (settled : Bool) (body : State → State) : State :=
  if !s.spdmUp ch then s
  else
    let s := s.spdmIn ch
    if settled && !(vget false s.sec.versionSet (chanNo ch) && vget false s.sec.algsSet (chanNo ch)) then s.spdmError ch 0x04 0
    else body s

/-- The established session of a requester over a channel. -/
def session? (s : State) (ch : SpdmChan) (reqId : BitVec 16) : Option SpdmSession :=
  s.sec.sessions.find? fun x => x.ch == ch && x.reqId == reqId && x.established

/-- A request within an established session. -/
def inSession (s : State) (ch : SpdmChan) (reqId : BitVec 16) (body : State → State) : State :=
  s.spdmAnswer ch true fun s => if (s.session? ch reqId).isSome then body s else s.spdmError ch 0x02 0

/-- Change the sessions of a requester. -/
def modSession (s : State) (ch : SpdmChan) (reqId : BitVec 16) (f : SpdmSession → SpdmSession) : State :=
  s.modSec fun c => { c with sessions := c.sessions.map fun x => if x.ch == ch && x.reqId == reqId then f x else x }

/-- End the sessions of a requester. -/
def dropSession (s : State) (ch : SpdmChan) (reqId : BitVec 16) : State :=
  s.modSec fun c => { c with sessions := c.sessions.filter fun x => !(x.ch == ch && x.reqId == reqId) }

/-- Measurement blocks of an index, or of all (Table 9-7). -/
def measBlocks (s : State) (index : Nat) : Option (List Byte) :=
  let one (i : Nat) : List Byte := Bytes.ofNat 1 i ++ (s.measurement i).getD []
  if index = 0xFF then some (((List.range 12).map (· + 1)).flatMap one)
  else if 1 ≤ index ∧ index ≤ 12 then some (one index) else none

/-- An IDE stream, link or selective. -/
def ideStream (s : State) (sel : Bool) : IdeStream := if sel then s.sec.selIde else s.sec.linkIde

/-- Change an IDE stream. -/
def modIde (s : State) (sel : Bool) (f : IdeStream → IdeStream) : State :=
  s.modSec fun c => if sel then { c with selIde := f c.selIde } else { c with linkIde := f c.linkIde }

/-- IDE_KM (R353, R354): a stream whose keys are programmed becomes Secure, and what waited for it leaves; or it leaves that state. Its
source pulses at each change (R409). -/
def ideKm (s : State) (km : IdeKm) : State :=
  match km with
  | .program sel => s.modIde sel fun i => { i with keyed := true }
  | .setGo sel =>
    if (s.ideStream sel).keyed && !(s.ideStream sel).secure then
      ((s.modIde sel fun i => { i with secure := true, left := false }).pulse 0x115).flushMsix
    else s
  | .setStop sel =>
    if (s.ideStream sel).secure then (s.modIde sel fun i => { i with secure := false, left := true }).pulse 0x115 else s

end State

/-! ## Meanings: ownership -/

/-- CLAIM (R341). -/
def execClaim (t : Tag) (x : Env) (s : State) : Host.Outcome State Fault Refusal := .next (s.ownership t x 0)

/-- TRANSFER (R341). -/
def execTransfer (t : Tag) (x : Env) (s : State) : Host.Outcome State Fault Refusal := .next (s.ownership t x 1)

/-- RELEASE (R341). -/
def execRelease (t : Tag) (x : Env) (s : State) : Host.Outcome State Fault Refusal := .next (s.ownership t x 2)

/-- POLICY (R357). -/
def execPolicy (t : Tag) (x : Env) (s : State) : Host.Outcome State Fault Refusal := .next (s.ownership t x 3)

/-- DEBUG_UNLOCK (R360). -/
def execDebugUnlock (t : Tag) (x : Env) (s : State) : Host.Outcome State Fault Refusal := .next (s.ownership t x 4)

/-- DEBUG_LOCK (R362). -/
def execDebugLock (t : Tag) (x : Env) (s : State) : Host.Outcome State Fault Refusal := .next (s.ownership t x 5)

/-! ## Meanings: SPDM (Table 9-7) -/

/-- GET_VERSION: version 1.3. -/
def execGetVersion (ch : SpdmChan) (s : State) : Host.Outcome State Fault Refusal :=
  .next (s.spdmAnswer ch false fun s =>
    (s.modSec fun c =>
      { c with versionSet := vmod c.versionSet (State.chanNo ch) fun _ => true
               algsSet := vmod c.algsSet (State.chanNo ch) fun _ => false }).emit (.spdm ch 0x04 (Bytes.ofNat 2 0x1300)))

/-- GET_CAPABILITIES: CERT, CHAL, MEAS with signatures, KEY_EX, ENCRYPT, MAC, HBEAT, KEY_UPD, at the SPDM standard's bits. -/
def execGetCapabilities (ch : SpdmChan) (s : State) : Host.Outcome State Fault Refusal :=
  .next (s.spdmAnswer ch false fun s =>
    if vget false s.sec.versionSet (State.chanNo ch) then s.emit (.spdm ch 0x61 (Bytes.ofNat 4 0x62D6)) else s.spdmError ch 0x04 0)

/-- NEGOTIATE_ALGORITHMS: the one suite of R351. -/
def execNegotiateAlgorithms (ch : SpdmChan) (offersSuite : Bool) (s : State) : Host.Outcome State Fault Refusal :=
  .next (s.spdmAnswer ch false fun s =>
    if !vget false s.sec.versionSet (State.chanNo ch) then s.spdmError ch 0x04 0
    else if offersSuite then
      (s.modSec fun c => { c with algsSet := vmod c.algsSet (State.chanNo ch) fun _ => true }).emit (.spdm ch 0x63 [])
    else s.spdmError ch 0x01 0)

/-- GET_DIGESTS: slot 0. -/
def execGetDigests (ch : SpdmChan) (s : State) : Host.Outcome State Fault Refusal :=
  .next (s.spdmAnswer ch true fun s =>
    s.emit (.spdm ch 0x01 (State.digestBytes (Config.sha384 s.slotChain))))

/-- GET_CERTIFICATE: slot 0 only. -/
def execGetCertificate (ch : SpdmChan) (slot : BitVec 8) (s : State) : Host.Outcome State Fault Refusal :=
  .next (s.spdmAnswer ch true fun s =>
    if slot = 0 then s.emit (.spdm ch 0x02 s.slotChain) else s.spdmError ch 0x01 0)

/-- CHALLENGE: signed by the alias key, with the measurement summary. -/
def execChallenge (ch : SpdmChan) (slot : BitVec 8) (nonce : BitVec 256) (s : State) : Host.Outcome State Fault Refusal :=
  .next (s.spdmAnswer ch true fun s =>
    if slot = 0 then
      s.signed.emit (.spdm ch 0x03 (s.measSummary ++ s.aliasSign (Bytes.ofNat 32 nonce.toNat ++ s.measSummary)))
    else s.spdmError ch 0x01 0)

/-- GET_MEASUREMENTS (R350). -/
def execGetMeasurements (ch : SpdmChan) (index : BitVec 8) (signed : Bool) (nonce : BitVec 256) (s : State) :
    Host.Outcome State Fault Refusal :=
  .next (s.spdmAnswer ch true fun s =>
    match s.measBlocks index.toNat with
    | some b =>
      if signed then s.signed.emit (.spdm ch 0x60 (b ++ s.aliasSign (Bytes.ofNat 32 nonce.toNat ++ b))) else s.emit (.spdm ch 0x60 b)
    | none => s.spdmError ch 0x01 0)

/-- KEY_EXCHANGE: up to four sessions over DOE and two over MCTP. -/
def execKeyExchange (ch : SpdmChan) (reqId : BitVec 16) (s : State) : Host.Outcome State Fault Refusal :=
  .next (s.spdmAnswer ch true fun s =>
    let mine := s.sec.sessions.filter fun x => x.ch == ch
    let most := match ch with | .doe => 4 | .mctp => 2
    if mine.any fun x => x.reqId == reqId then s.spdmError ch 0x04 0
    else if most ≤ mine.length then s.spdmError ch 0x0A 0
    else
      let x : SpdmSession := { ch := ch, reqId := reqId, established := false, keyUpdates := 0 }
      (s.modSec fun c => { c with sessions := c.sessions ++ [x] }).signed.emit
        (.spdm ch 0x64 (s.measSummary ++ s.aliasSign (Config.spdmBody 0xE4 reqId.toNat))))

/-- FINISH: the session is established, or ends when the requester's MAC fails. -/
def execSpdmFinish (ch : SpdmChan) (reqId : BitVec 16) (macOk : Bool) (s : State) : Host.Outcome State Fault Refusal :=
  .next (s.spdmAnswer ch true fun s =>
    if s.sec.sessions.any fun x => x.ch == ch && x.reqId == reqId && !x.established then
      (if macOk then (s.modSession ch reqId fun x => { x with established := true }).emit (.spdm ch 0x65 (Config.spdmBody 0xE5 reqId.toNat))
       else (s.dropSession ch reqId).spdmError ch 0x06 0)
    else s.spdmError ch 0x02 0)

/-- HEARTBEAT. -/
def execHeartbeat (ch : SpdmChan) (reqId : BitVec 16) (s : State) : Host.Outcome State Fault Refusal :=
  .next (s.inSession ch reqId fun s => s.emit (.spdm ch 0x68 []))

/-- KEY_UPDATE. -/
def execSpdmKeyUpdate (ch : SpdmChan) (reqId : BitVec 16) (s : State) : Host.Outcome State Fault Refusal :=
  .next (s.inSession ch reqId fun s =>
    (s.modSession ch reqId fun x => { x with keyUpdates := x.keyUpdates + 1 }).emit (.spdm ch 0x69 []))

/-- END_SESSION: its keys are destroyed (Table 9-5). -/
def execEndSession (ch : SpdmChan) (reqId : BitVec 16) (s : State) : Host.Outcome State Fault Refusal :=
  .next (s.inSession ch reqId fun s => (s.dropSession ch reqId).emit (.spdm ch 0x6C []))

/-- VENDOR_DEFINED_REQUEST: IDE_KM, only inside a session over DOE (R353). -/
def execVendorDefinedRequest (ch : SpdmChan) (reqId : BitVec 16) (km : IdeKm) (s : State) : Host.Outcome State Fault Refusal :=
  .next (match ch with
    | .doe => s.inSession .doe reqId fun s => (s.ideKm km).emit (.spdm .doe 0x7E [])
    | .mctp => s.spdmAnswer .mctp false fun s => s.spdmError .mctp 0x07 0xFE)

/-- Any other request: ERROR UnsupportedRequest. -/
def execSpdmUnsupportedRequest (ch : SpdmChan) (code : BitVec 8) (s : State) : Host.Outcome State Fault Refusal :=
  .next (s.spdmAnswer ch false fun s => s.spdmError ch 0x07 code)

/-! ## Meanings: the sideband -/

/-- GET_STATE (Table 9-12): DEV_STATE and DEV_IDENT, also from a halted module (R380). -/
def execGetState (s : State) : Host.Outcome State Fault Refusal :=
  if s.sidebandUp then .next (s.mctpIn.emit (.mctp 0x01 (Bytes.ofNat 8 s.bar.devState ++ Bytes.ofNat 8 devIdent))) else .next s

/-- GET_POWER (R365). -/
def execGetPower (s : State) : Host.Outcome State Fault Refusal :=
  if s.sidebandUp && s.bar.mode == .ready then .next (s.mctpIn.emit (.mctp 0x02 s.coarsePower)) else .next s

/-- GET_LOGBOOK, also from a halted module (R380). -/
def execGetLogbook (start : BitVec 64) (count : BitVec 16) (s : State) : Host.Outcome State Fault Refusal :=
  if s.sidebandUp then .next (s.mctpIn.emit (.mctp 0x03 (s.logbookFrom start count.toNat))) else .next s

/-- OWNER_BLOCK (R366). -/
def execOwnerBlock (block : List Byte) (s : State) : Host.Outcome State Fault Refusal :=
  if s.sidebandUp && (s.bar.mode == .ready || s.recordLost) then .next (s.mctpIn.ownerBlock block) else .next s

/-- PLDM_FW_UPDATE (R349): an image is installed in a slot, which starts at the next reset that runs step 4; its floor is
cleared (R372), of which a CARRY record tells the starts to come. -/
def execPldmFwUpdate (slot : Bool) (img : FwImage) (s : State) : Host.Outcome State Fault Refusal :=
  if s.sidebandUp && s.bar.mode == .ready then
    let i := Bytes.ofBool slot
    let u := unitOf 0x0A i
    let s := s.mctpIn.modSec fun c => { c with slots := vmod c.slots i fun _ => img, activeSlot := slot }
    let s := s.setLadder 4 u (s.ladder 4 u).consec 0
    .next (s.journal (s.logRec 5 4 u 0 0 0 0))
  else .next s

/-- DYNAMIC_ADDRESS_ASSIGNMENT (R430): ENTDAA over I3C, or SMBus address resolution, as the protocol stands; the module answers with the
identifier that it derives from its serial and takes the address. -/
def execDynamicAddressAssignment (i3c : Bool) (addr : BitVec 7) (s : State) : Host.Outcome State Fault Refusal :=
  if s.sidebandUp && s.power.sideband.getD i3c == i3c then
    .next ((s.modPower fun w => { w with sideband := some i3c, sideAddr := some addr }).emit
      (.sideId (if i3c then (Config.provisionalId Config.serial).setWidth 128 else Config.udid Config.serial)))
  else .next s

end Sys2Proof.Machine
end

