-- ==== Sys2Proof/Machine/Edges.lean ====
section
/-!
DEFINITION. The module's electrical edges (chapter 13, R427 to R453): the input, the hot-swap controller, the power-fail sequence,
PERST_N, the trip, and what the LEDs show.
-/
namespace Sys2Proof.Machine

namespace State

/-- The module's logic is powered and nothing takes its power away: the standby rail is good, no trip, no power-fail sequence. -/
def powered (s : State) : Bool := s.power.standby && !s.power.tripped && !s.power.failing

/-- WP_N of every NAND package is asserted, and the flash rails go off (R437, R448). -/
def flashOff (s : State) : State :=
  (s.modPower fun p => { p with wpN := true, flashRail := false }).emit (.pin "WP_N" false)

/-- The power-fail sequence up to its first 10 µs (R437): the link and every rail but the flash rails and the standby rail. WP_N
follows 2 ms later. -/
def powerFails (s : State) : State :=
  let p := s.power
  (s.stopQueues.railsOff).modPower fun q => { q with failing := true, underAlert := false, wpN := p.wpN, flashRail := p.flashRail }

/-- The hot-swap controller turns the module off: a power loss (R434). -/
def hotSwapTurnsOff (s : State) : State :=
  let s := s.modPower fun p => { p with hotSwapOff := true }
  if s.powered then s.powerFails else s

/-- The standby rail comes up: a power-on (R384, R420, R434, R438). Device time and SEQ start anew, and start-up steps 1 and 2 run
whatever PERST_N is doing. -/
def powersOn (s : State) : State :=
  let s := s.railsOff
  let s := s.modPower fun p =>
    { p with p40v := true, standby := true, hotSwapOff := false, tripped := false, failing := false, underAlert := false,
             flashRail := false, wpN := true }
  ({ s with devTime := 0, log := EventLog.reset }).startBegins 0 1 true

/-- PERST_N becomes asserted while the module runs: a cold reset (R440, R386). The standby rail stays up, device time and SEQ go
on. -/
def coldReset (s : State) : State := ((s.stopQueues.railsOff).flashOff).startBegins 1 1 true

/-- The trip latch closes (R406, R453): every package, DIMM and flash rail goes off at once. -/
def trips (s : State) : State :=
  let s := (s.modPower fun p => { p with tripped := true }).emit (.pin "THERM_TRIP_N" false)
  (s.stopQueues.railsOff).flashOff

end State

/-! ## LEDs (R451, Table 13-9) -/

/-- What an LED shows; `bursts n` is n blinks at 2 Hz and a 2 s pause. -/
inductive LedForm where
  | off | steady | blinking | bursts (n : Nat)
  deriving DecidableEq, Repr

/-- The LEDs of Table 13-9. -/
inductive Led where
  | pwr | stateGreen | stateAmber | attn | debug | laser | portGreen (p : PortId) | portAmber (p : PortId)
  deriving DecidableEq, Repr

/-- Steady or off. -/
def LedForm.ofBool (b : Bool) : LedForm := if b then .steady else .off

/-- What an LED shows; they are driven from the standby rail. -/
def led (s : State) (l : Led) : LedForm :=
  if s.power.standby = false then .off
  else
    match l with
    | .pwr => .steady
    | .stateGreen =>
      if s.bar.mode = .booting ∧ s.boot.step ≠ 0 ∧ s.boot.waitPerst = false then .blinking else .ofBool (s.bar.mode == .ready)
    | .stateAmber => if s.bar.mode = .halted then .bursts s.bar.bootStep.toNat else .ofBool (s.bar.mode == .fatal)
    | .attn => if s.power.tripped then .steady else if s.bar.degraded then .blinking else .off
    | .debug => .ofBool (s.runs && s.sec.mode == .debug)
    | .laser => .ofBool s.fab.loop
    | .portGreen p =>
      match (s.port p.val).mode with
      | .up => .steady
      | .train | .attest | .retrain => .blinking
      | _ => .off
    | .portAmber p => .ofBool ((s.port p.val).mode == .out)

/-! ## Meanings -/

/-- P40V_APPLIED (R433, R434): the input rises from below 20 V and stays at `millivolts`. Below 34 V the controller does not start;
above 48 V it turns the module off; between the operating and the absolute limits operation is not specified. -/
def execP40vApplied (millivolts : Nat) (s : State) : Host.Outcome State Fault Refusal :=
  if millivolts < 34000 then .next s
  else if 48000 < millivolts then .next (s.modPower fun p => { p with p40v := true }).hotSwapTurnsOff
  else if 44000 < millivolts then .fault .outsideOperatingConditions
  else if s.power.standby then .next s
  else .next s.powersOn

/-- HOT_SWAP_TURN_OFF (R434). -/
def execHotSwapTurnOff (s : State) : Host.Outcome State Fault Refusal := .next s.hotSwapTurnsOff

/-- POWER_FAIL (R437). -/
def execPowerFail (s : State) : Host.Outcome State Fault Refusal := .next (if s.powered then s.powerFails else s)

/-- WP_ASSERT (R437): 2 ms into the power-fail sequence. -/
def execWpAssert (s : State) : Host.Outcome State Fault Refusal :=
  .next (if s.power.failing && s.power.flashRail then s.flashOff else s)

/-- STANDBY_RAIL_OFF (R437, R453): the bulk falls below 20 V, in the power-fail sequence or after a trip; THERM_TRIP_N is
released. -/
def execStandbyRailOff (s : State) : Host.Outcome State Fault Refusal :=
  if s.power.standby && (s.power.failing || s.power.tripped) then
    let s := if s.power.tripped then s.emit (.pin "THERM_TRIP_N" true) else s
    .next (s.modPower fun p =>
      { p with p40v := p.p40v && p.hotSwapOff, standby := false, failing := false, tripped := false, flashRail := false, wpN := true })
  else .next s

/-- PERST_ASSERT (R440, R453). -/
def execPerstAssert (s : State) : Host.Outcome State Fault Refusal :=
  if s.power.perst then .next s
  else
    let s := s.modPower fun p => { p with perst := true }
    .next (if s.powered then s.coldReset else s)

/-- PERST_DEASSERT (R438, R439): start-up steps 3 to 11 may run. -/
def execPerstDeassert (s : State) : Host.Outcome State Fault Refusal :=
  if !s.power.perst then .next s
  else
    let s := s.modPower fun p => { p with perst := false }
    if s.powered then
      let s := s.setLoop
      .next (if s.boot.waitPerst then (s.stepBegins 3).bootGoesOn else s)
    else .next s

/-- THERM_TRIP (R406). -/
def execThermTrip (s : State) : Host.Outcome State Fault Refusal :=
  .next (if s.power.standby && !s.power.tripped then s.trips else s)

end Sys2Proof.Machine
end

