-- ==== Sys2Proof/Machine/Device.lean ====
section
/-!
DEFINITION. The device commands of Table 7-8 that no other file holds: IDENTIFY, TELEMETRY and its pages (R408, R426), LOG_READ,
LOG_CLEAR (R422), HEADINGS (R392), RESET_DEVICE (R297), and the telemetry sample (R425).
-/
namespace Sys2Proof.Machine

/-- The 64 bytes of an event record (Table 12-5). -/
def Event.bytes (e : Event) : List Byte :=
  Bytes.ofNat 8 e.seq.toNat ++ Bytes.ofNat 8 e.time.toNat ++ Bytes.ofNat 2 e.code.toNat ++ Bytes.ofNat 1 e.idx.toNat ++
  Bytes.ofNat 1 e.cls.toNat ++ Bytes.ofNat 1 (Bytes.ofBool e.host + 2 * Bytes.ofBool e.retained) ++ Bytes.ofNat 1 e.pilot.toNat ++
  Bytes.ofNat 2 e.job.toNat ++ Bytes.zeros 8 ++ Bytes.fit 32 e.payload

/-- The records that the log holds, in ascending SEQ. -/
def EventLog.held (l : EventLog) : List Event := l.retained ++ l.ring

namespace State

/-! ## Telemetry pages (Tables 11-7, 12-10) -/

/-- One window of telemetry, in ns. -/
def windowNs : Nat := 1000000

/-- The end of the last 1 ms window. -/
def windowEnd (s : State) : Nat := s.ns / windowNs * windowNs

/-- STALL_k of some cores, summed. -/
def stallSum (s : State) (cs : List Nat) (k : Nat) : Nat := (cs.map fun c => ((s.core c).regs.stall.get 0 k).toNat).foldl (· + ·) 0

/-- STALL_0 to STALL_8 of some cores, 8 bytes each. -/
def stallBytes (s : State) (cs : List Nat) : List Byte := (List.range 9).flatMap fun k => Bytes.ofNat 8 (s.stallSum cs k)

/-- An entry of page 0x02 for a job or group and its cores. -/
def workEntry (s : State) (id : Nat) (cs : List Nat) : List Byte :=
  let busy := (cs.map fun c => (s.tlm.busySums.get 0 c).toNat).foldl (· + ·) 0
  Bytes.ofNat 2 id ++ Bytes.zeros 6 ++ Bytes.ofNat 8 busy ++ s.stallBytes cs ++ Bytes.zeros 8

/-- An entry of page 0x02 for a core, under CORE_COUNTERS. -/
def coreEntry (s : State) (c : Nat) : List Byte :=
  let r := (s.core c).regs
  Bytes.ofNat 1 c ++ Bytes.ofNat 1 (Bytes.ofBool r.wrapped) ++ Bytes.zeros 6 ++ Bytes.ofNat 8 r.busy.toNat ++ s.stallBytes [c]

/-- An entry of page 0x03 for a stage of a job on a memory die (R197). -/
def stageEntry (s : State) (j : Job) (b : Budget) : List Byte :=
  let cs := Config.stageCores j.digest.toNat b.stage
  let inbound := (s.fab.queues.filter fun k => k.job == j.id && k.rec_.cNode == s.node && cs.contains k.rec_.cCore.toNat).map (·.peakUsed)
  Bytes.ofNat 2 j.id.toNat ++ Bytes.ofNat 1 b.stage ++ Bytes.ofNat 1 b.die ++ Bytes.zeros 4 ++ Bytes.ofNat 8 b.bytes ++
  Bytes.ofNat 8 b.peak ++ Bytes.ofNat 4 (inbound.foldl max 0) ++ Bytes.zeros 4 ++ Bytes.ofNat 8 (s.stallSum cs 8) ++ Bytes.zeros 8

/-- The Sounding record of a job's latest completed step (Table 5-9). -/
def soundingRecord (j : Job) : List Byte :=
  let n := j.replicas.length
  Bytes.ofNat 8 j.soundStep.toNat ++ Bytes.ofNat 8 j.bCrit.toNat ++ Bytes.ofNat 8 j.sBar.toNat ++ Bytes.ofNat 8 j.tBar.toNat ++
  Bytes.ofNat 2 n ++ Bytes.zeros 6 ++ Bytes.ofNat 8 (j.params.tokens.toNat * n)

/-- An entry of page 0x04. -/
def soundingEntry (j : Job) : List Byte := Bytes.ofNat 2 j.id.toNat ++ Bytes.zeros 14 ++ soundingRecord j

/-- An entry of page 0x05 for a group, 0xFF for host queries (R278). -/
def groupEntry (s : State) (g : Nat) (completed : Nat) : List Byte :=
  Bytes.ofNat 1 g ++ Bytes.zeros 7 ++ ((List.range 4).flatMap fun k => Bytes.ofNat 8 (s.tlm.kinds.get 0 (4 * g + k)).toNat) ++
  Bytes.ofNat 8 completed

/-- An entry of page 0x06 for a port. -/
def portEntry (s : State) (p : Nat) : List Byte :=
  let x := s.port p
  [portState x, x.fecCorr.toNat, x.fecUnc.toNat, x.retryCnt.toNat, x.authCnt.toNat, x.linkdnCnt.toNat, x.txFrames.toNat,
    x.rxFrames.toNat].flatMap (Bytes.ofNat 8)

/-- The entries of a page as the counters stand. -/
def pageEntries (s : State) (page : Nat) : List (List Byte) :=
  match page with
  | 0x02 => (s.jobs.map fun j => s.workEntry j.id.toNat (coresOf j.dies)) ++ s.groups.map fun g => s.workEntry g.id.toNat (coresOf g.dies)
  | 0x12 => (List.range 176).map s.coreEntry
  | 0x03 => s.jobs.flatMap fun j => j.budgets.map fun b => s.stageEntry j b
  | 0x04 => s.jobs.map soundingEntry
  | 0x05 => (s.groups.map fun g => s.groupEntry g.id.toNat g.completed.toNat) ++ [s.groupEntry 0xFF 0]
  | 0x06 => (List.range 8).map s.portEntry
  | _ => []

/-- Page 0x00. -/
def summaryPage (s : State) : List Byte :=
  Bytes.ofNat 8 s.windowEnd ++ Bytes.ofNat 8 s.bar.devState ++ Bytes.ofNat 8 s.log.nextSeq.toNat ++ Bytes.ofNat 4 s.log.overflow.toNat ++
  Bytes.ofNat 4 s.log.drops.toNat ++ Bytes.ofNat 4 s.tlm.lost.toNat ++ Bytes.ofNat 2 (s.jobs.length + s.groups.length) ++ Bytes.zeros 26

/-- A debug scope bit is in force (Table 9-10). -/
def scopeBit (s : State) (i : Nat) : Bool := s.sec.mode == .debug && s.sec.scope.getLsbD i

/-- A page's head and its entries as TELEMETRY returns them: pages 0x00 and 0x01 have no header, and what R365 keeps back is not in
them. -/
def pageParts (s : State) (page : Nat) : List Byte × List (List Byte) :=
  match page with
  | 0x00 => ([], [s.summaryPage])
  | 0x01 => ([], s.powerRecord :: if s.scopeBit 2 then s.helm.fine.map fun e => Bytes.ofNat 8 e.toNat else [])
  | p => ([], s.tlm.pages.get [] (if p = 0x02 ∧ s.scopeBit 3 = true then 0x12 else p))

/-- The longest run of whole entries within a length. -/
def wholeEntries (len : Nat) : List (List Byte) → List (List Byte)
  | [] => []
  | e :: es => if e.length ≤ len then e :: wholeEntries (len - e.length) es else []

/-- The bytes that TELEMETRY writes for a page and LEN (R408, R426). -/
def pageBytes (s : State) (page len : Nat) : List Byte :=
  let es := (s.pageParts page).2
  if page < 2 then (wholeEntries len es).flatten
  else if len < 16 then []
  else
    let es := wholeEntries (len - 16) es
    Bytes.ofNat 8 s.windowEnd ++ Bytes.ofNat 4 es.length ++ Bytes.zeros 4 ++ es.flatten

/-! ## Command bodies -/

/-- IDENTIFY: the identity block of Table 7-12. -/
def identifyCmd (s : State) (q : Nat) (f : Flight) : State :=
  let ha := f.arg 8 8
  if ha % 64 ≠ 0 then s.refuse q f Status.invalidField 8
  else (s.hostPut ha (Bytes.fit 4096 s.identityHead)).finishOk q f 0 0

/-- TELEMETRY. -/
def telemetryCmd (s : State) (q : Nat) (f : Flight) : State :=
  let ha := f.arg 8 8
  if ha % 64 ≠ 0 then s.refuse q f Status.invalidField 8
  else if 6 < f.arg 20 1 then s.refuse q f Status.invalidField 20
  else
    let b := s.pageBytes (f.arg 20 1) (f.arg 16 4)
    (s.hostPut ha b).finishOk q f (BitVec.ofNat 32 b.length) 0

/-- LOG_READ (R422). -/
def logReadCmd (s : State) (q : Nat) (f : Flight) : State :=
  let ha := f.arg 8 8
  let first := BitVec.ofNat 64 (f.arg 24 8)
  if ha % 64 ≠ 0 then s.refuse q f Status.invalidField 8
  else
    let rs := (s.log.held.filter fun e => decide (first ≤ e.seq)).take (f.arg 16 4)
    let next := match rs.getLast? with | some e => e.seq + 1 | none => first
    (s.hostPut ha (rs.flatMap Event.bytes)).finishOk q f (BitVec.ofNat 32 rs.length) next

/-- LOG_CLEAR (R422): pilot `p` writes LOG_CLEARED as the first retained record. -/
def logClearCmd (p : Nat) (s : State) (q : Nat) (f : Flight) : State :=
  let l := s.log
  let s := { s with log := { l with retained := [], ring := [], overflow := 0, drops := 0, overwrote := false } }
  let s := s.event 0x0071 0x11 p false p 0xFFFF (Bytes.ofNat 4 l.overflow.toNat ++ Bytes.ofNat 4 l.drops.toNat)
  s.finishOk q f l.overflow 0

/-- The first bad byte of a heading table (R392). -/
def headingsBad (b : List Byte) : Option Nat :=
  (List.range 64).find? fun i =>
    let v := Bytes.field b i 1
    if i % 8 = 0 then decide (15 < v) else if i % 8 = 1 then decide (Bytes.field b (i - 1) 1 < v) else v != 0

/-- HEADINGS (R392): Helm applies the new table at its next decision. -/
def headingsCmd (s : State) (q : Nat) (f : Flight) : State :=
  let ha := f.arg 8 8
  let len := f.arg 16 4
  if ha % 64 ≠ 0 then s.refuse q f Status.invalidField 8
  else if len ≠ 64 then s.refuse q f Status.invalidField (0x8000 + min len 64)
  else
    let b := s.hostBytes ha 64
    match headingsBad b with
    | some i => s.refuse q f Status.invalidField (0x8000 + i)
    | none =>
      let s := s.modHelm fun h =>
        { h with
          table := some (tabulate 8 fun p => BitVec.ofNat 4 (Bytes.field b (8 * p) 1),
                         tabulate 8 fun p => BitVec.ofNat 4 (Bytes.field b (8 * p + 1) 1)) }
      s.finishOk q f 0 0

/-- RESET_DEVICE (R297). -/
def resetCmd (s : State) (q : Nat) (f : Flight) : State :=
  if f.arg 8 4 ≠ 0x54455352 then s.refuse q f Status.invalidField 8 else s.resetAfter q f 0 2 id

/-! ## The telemetry sample -/

/-- Fold CORE_BUSY of a core into its busy sum, which clears WRAPPED, but for a wrap of the same cycle (R418, R424). -/
def foldBusy (s : State) (c : Nat) : State :=
  let r := (s.core c).regs
  let d := r.busy - s.tlm.busyLast.get 0 c
  let s := { s with tlm := { s.tlm with
    busySums := s.tlm.busySums.set 0 c (s.tlm.busySums.get 0 c + d.setWidth 64), busyLast := s.tlm.busyLast.set 0 c r.busy } }
  let w := s.clears (regKey 0 c 0x20) (1#64 <<< 15)
  s.modCore c fun k => { k with regs := { k.regs with wrapped := w1c k.regs.wrapped w 15 } }

/-- The peak bytes in use of every declared stage, read anew (R197). -/
def peakBudgets (s : State) : List Budget → State × List Budget
  | [] => (s, [])
  | b :: bs =>
    let n := s.free
    let s := { s with free := n + 1 }
    let (s, bs) := s.peakBudgets bs
    (s, { b with peak := max b.peak (Config.stageBytes n) } :: bs)

/-- Read the stages of every job. -/
def readStages (s : State) : State :=
  (s.jobs.map (·.id)).foldl
    (fun s id =>
      match s.job? id with
      | some j =>
        let r := s.peakBudgets j.budgets
        r.1.modJob id fun j => { j with budgets := r.2 }
      | none => s)
    s

/-- A sample of every counter: the pages as they stand, then the busy sums. -/
def takeSample (s : State) : State :=
  let s := s.readStages
  let cores := s.pageEntries 0x12
  let s := (List.range 176).foldl foldBusy s
  let pages := [0x02, 0x03, 0x04, 0x05, 0x06].foldl (fun (t : Tbl (List (List Byte))) p => t.set [] p (s.pageEntries p))
    ((Tbl.empty : Tbl (List (List Byte))).set [] 0x12 cores)
  { s with tlm := { s.tlm with pages := pages } }

/-- TELEMETRY_SAMPLE (R425): the firmware samples once a window, or the sample is lost. -/
def sample (s : State) (taken : Bool) : State :=
  if s.bar.mode ≠ .ready ∨ s.windowEnd ≤ s.tlm.sampleAt then s
  else
    let s := { s with tlm := { s.tlm with sampleAt := s.windowEnd } }
    if taken then s.takeSample else { s with tlm := { s.tlm with lost := Word.satInc s.tlm.lost } }

/-! ## A command's host access that finds no Secure stream (R354) -/

/-- The destination of a failed IDENTIFY (R314). -/
def spoilIdentify (s : State) (f : Flight) : State := s.spoilHost (f.arg 8 8) 4096

/-- The destination of a failed TELEMETRY. -/
def spoilTelemetry (s : State) (f : Flight) : State := s.spoilHost (f.arg 8 8) (if 6 < f.arg 20 1 then 0 else f.arg 16 4)

/-- The destination of a failed LOG_READ. -/
def spoilLogRead (s : State) (f : Flight) : State := s.spoilHost (f.arg 8 8) (64 * f.arg 16 4)

/-- An address in a host region's window. -/
def inWindow (s : State) (a : Nat) : Bool := match s.placeOf a with | .window _ _ => true | _ => false

/-- A command in flight has a host memory access still to make (Tables 7-8 to 7-11): the read of its argument block while it has not
started, or its transfer. -/
def hostAccess (s : State) (q : Nat) (f : Flight) : Bool :=
  match f.opc with
  | 0x01 | 0x02 | 0x03 | 0x05 | 0x07 | 0x11 | 0x12 | 0x20 | 0x26 | 0x2C => true
  | 0x29 | 0x32 => !f.started
  | 0x24 => !f.started && f.arg 16 8 != 0
  | 0x14 => match s.obj? (f.arg 8 4) with | some o => o.home == .host | none => false
  | 0x27 => s.inWindow (f.arg 24 6) || s.inWindow (f.arg 32 6)
  | 0x2A => f.arg 8 1 == 1 || f.arg 24 8 != 0
  | 0x2B => f.arg 8 1 == 1
  | 0x33 => !(s.queries.any fun k => k.tag == some (Fin.ofNat 8 q, f.tag))
  | _ => false

/-- What a command whose host access failed leaves in its destination (R314), and the end of what it had begun. -/
def spoilCmd (s : State) (f : Flight) : State :=
  match f.opc with
  | 0x01 => s.spoilIdentify f
  | 0x02 => s.spoilTelemetry f
  | 0x03 => s.spoilLogRead f
  | 0x11 => s.spoilWrite f
  | 0x12 => s.spoilHost (f.arg 32 8) (f.arg 24 8)
  | 0x14 => s.spoilPromote f
  | 0x26 => s.spoilDma f
  | 0x27 =>
    (s.fab.colls.filter fun c => match c.tag with | some t => t.2 == f.tag | none => false).foldl
      (fun s c => ((s.spoilOutput c 0).endStream c).endColl c) s
  | 0x2A => s.spoilFix f
  | 0x2C => s.spoilExport f
  | _ => s

/-- A second has passed without a Secure stream (R354): the command of a tag, started or first in its stream, that has a host access to make
completes HOST_DMA_ERROR 0x0004. -/
def ideFails (s : State) (q : Nat) (t : Tag) : State :=
  match (s.queue q).flights.find? fun f => f.tag == t with
  | some f =>
    if (f.started || s.mayStart q f false) && s.hostAccess q f then
      ((if f.opc = 0x07 then s.dropChange q f else s.spoilCmd f)).refuse q f Status.hostDmaError 0x0004
    else s
  | none => s

/-- A second has passed (R354): what a queue has waiting to leave, its records and its vector's message, waits no longer, and the queue fails. -/
def ideQueueFails (s : State) (q : Nat) : State :=
  let v := (s.queue q).vector
  if (s.queue q).waiting.isEmpty && (v == 0 || !s.bar.msixWait.contains v) then s
  else (s.modBar fun b => { b with msixWait := b.msixWait.filter fun w => w != v || v == 0 }).queueError q 2

end State

/-! ## Meanings -/

/-- IDE_WAIT_TIMEOUT: a second without a Secure stream ends the wait of a command's host access with HOST_DMA_ERROR 0x0004, or
of a record with the queue's error DMA_FAULT (R354). -/
def execIdeWaitTimeout (q : QueueId) (t : Option Tag) (s : State) : Host.Outcome State Fault Refusal :=
  if s.bar.mode = .ready ∧ s.ideStall = true then
    match t with
    | some t => .next (s.react (s.ideFails q.val t))
    | none => .next (s.ideQueueFails q.val)
  else .next s

/-- IDENTIFY (R294, Table 7-12). -/
def execIdentify (t : Tag) (x : Env) (s : State) : Host.Outcome State Fault Refusal := .next (s.runHostCmd t 0x01 x State.identifyCmd State.spoilIdentify)

/-- TELEMETRY (R426, R408). -/
def execTelemetry (t : Tag) (x : Env) (s : State) : Host.Outcome State Fault Refusal := .next (s.runHostCmd t 0x02 x State.telemetryCmd State.spoilTelemetry)

/-- LOG_READ (R422). -/
def execLogRead (t : Tag) (x : Env) (s : State) : Host.Outcome State Fault Refusal := .next (s.runHostCmd t 0x03 x State.logReadCmd State.spoilLogRead)

/-- LOG_CLEAR (R422). -/
def execLogClear (t : Tag) (p : PilotId) (s : State) : Host.Outcome State Fault Refusal :=
  .next (if p.val = 3 then s else s.runCmd t 0x04 false (State.logClearCmd p.val))

/-- HEADINGS (R392). -/
def execHeadings (t : Tag) (x : Env) (s : State) : Host.Outcome State Fault Refusal := .next (s.runHostCmd t 0x05 x State.headingsCmd)

/-- RESET_DEVICE (R297): it completes on its own ring, then the warm reset begins. -/
def execResetDevice (t : Tag) (s : State) : Host.Outcome State Fault Refusal := .next (s.runCmdAgain t 0x0F State.resetCmd)

/-- TELEMETRY_SAMPLE (R425). -/
def execTelemetrySample (taken : Bool) (s : State) : Host.Outcome State Fault Refusal := .next (s.sample taken)

end Sys2Proof.Machine
end

