-- ==== Sys2Proof/Machine/Interrupts.lean ====
section
/-!
DEFINITION. The rows of the interrupt controller (chapter 12, R409 to R417).
-/
namespace Sys2Proof.Machine

namespace State

/-- A read of IC_CLAIM_p is served (R413): the best eligible source goes into service and the pilot's moderation interval begins (R415);
without one the read gives 0x3FF and counts. -/
def claimSource (s : State) (p : PilotId) : State :=
  match s.bestSource p.val with
  | some n =>
    let s := s.modSrc n fun x => { x with insvc := some p, latched := false }
    let s := s.modPilot p.val fun q => if q.interval = 0 then q else { q with modLeft := q.interval.toNat }
    s.emit (.claim p (BitVec.ofNat 10 n))
  | none => (s.modPilot p.val fun q => { q with spurCnt := Word.satInc q.spurCnt }).emit (.claim p 0x3FF)

/-- A read of IC_CLAIM_p reaches the controller (R413). -/
def claimReaches (s : State) (p : PilotId) : State := { s with ic := { s.ic with claims := s.ic.claims ++ [p] } }

/-- The reads of IC_CLAIM that reached the controller in a control cycle are served at its end, in ascending pilot order (R413). -/
def serveClaims (s : State) : State :=
  (([0, 1, 2, 3] : List PilotId).flatMap fun p => s.ic.claims.filter fun q => q == p).foldl claimSource
    { s with ic := { s.ic with claims := [] } }

/-- A write of IC_COMPLETE_p ends the service of a source that is in service for this pilot (R414). A LEVEL source whose signal is still high is
pending again from the next sample. -/
def completeSource (s : State) (p : PilotId) (n : Nat) : State :=
  s.modSrc n fun x => if x.insvc = some p then { x with insvc := none, line := x.line && x.sense != 0 } else x

/-- IC_SWI: pulse the inter-pilot source of each pilot named (Table 12-3). -/
def swi (s : State) (pilots : BitVec 4) : State := [0, 1, 2, 3].foldl (fun s p => if pilots.getLsbD p then s.pulse (0x15C + p) else s) s

/-- Whether some source wakes pilot `p` (R416). -/
def wakeSource (s : State) (p : Nat) : Bool := s.ic.srcs.toList.any fun x => x.wakes p

end State

/-- IC_CLAIM (R413, R415). -/
def execIcClaim (p : PilotId) (s : State) : Host.Outcome State Fault Refusal := .next (s.claimReaches p)

/-- IC_COMPLETE (R414). -/
def execIcComplete (p : PilotId) (source : BitVec 9) (s : State) : Host.Outcome State Fault Refusal :=
  .next (s.completeSource p source.toNat)

/-- IC_SWI (R409). -/
def execIcSwi (pilots : BitVec 4) (s : State) : Host.Outcome State Fault Refusal := .next (s.swi pilots)

/-- MODERATION_EXPIRE: the last control cycle of a moderation interval (R415). -/
def execModerationExpire (p : PilotId) (s : State) : Host.Outcome State Fault Refusal :=
  if (s.pilot p.val).modLeft = 1 then .next (s.modCycle p.val) else .next s

/-- WAIT_FOR_INTERRUPT: the pilot sleeps (R416). -/
def execWaitForInterrupt (p : PilotId) (s : State) : Host.Outcome State Fault Refusal :=
  .next (s.modPilot p.val fun q => { q with asleep := true })

/-- PILOT_WAKE: a sleeping pilot wakes when a source enabled for it is pending and not in service (R416). -/
def execPilotWake (p : PilotId) (s : State) : Host.Outcome State Fault Refusal :=
  if (s.pilot p.val).asleep && s.wakeSource p.val then
    .next (s.modPilot p.val fun q => { q with asleep := false, wakeCnt := Word.satInc q.wakeCnt })
  else .next s

/-- DEVICE_TIME_COMPARE: DEV_TIME has reached an armed comparator (Table 12-1). -/
def execDeviceTimeCompare (k : Fin 4) (s : State) : Host.Outcome State Fault Refusal :=
  match s.ic.comparators.find? k.val with
  | some v =>
    if v.toNat ≤ s.ns then
      .next ({ s with ic := { s.ic with comparators := s.ic.comparators.drop k.val } }.pulse (0x158 + k.val))
    else .next s
  | none => .next s

/-- WATCHDOG_HALF: half of the start-up watchdog's limit has elapsed (R373, Table 12-1). -/
def execWatchdogHalf (s : State) : Host.Outcome State Fault Refusal :=
  if s.boot.step ≠ 0 ∧ s.bar.mode = .booting ∧ s.boot.watchHalf = false then
    .next ((s.modBoot fun b => { b with watchHalf := true }).pulse 0x157)
  else .next s

/-- TRNG_HEALTH_FAILURE (Table 12-1). -/
def execTrngHealthFailure (s : State) : Host.Outcome State Fault Refusal := .next (s.pulse 0x155)

end Sys2Proof.Machine
end

