-- ==== Sys2Proof/Machine/PortRows.lean ====
section
/-!
DEFINITION. The rows of a port: bring-up and the handshake of Table 5-3 (R203 to R208), loss of light and retrain (R200 to R202, R209),
acknowledgement, credits and keys (R208, R214 to R218), and the epoch's OPEN, OPEN_ACK and CLOSE (R239).
-/
namespace Sys2Proof.Machine

/-- Whether a link policy accepts a peer (R357, R358); its security state has the codes of DEV_STATE.SEC. -/
def peerAccepted (c : Security) (pol : Policy) (m : EvidenceMsg) : Bool :=
  if c.mode = .unowned then m.sec == 0
  else
    let want := if pol.peerOwner = 0 then Config.sha384 c.ownerKey else pol.peerOwner
    decide (pol.minPeerSvn.toNat ≤ m.svn.toNat) && (m.sec == 1 || (m.sec == 2 && pol.debugPeers)) &&
    (pol.anyOwner || m.ownerDigest == want)

namespace State

/-! ## The handshake (R206, R207) -/

/-- Two ends' contributions, the one of the lower node first. -/
def lowerFirst (s : State) (p : Nat) (mine theirs : List Byte) : List Byte :=
  if s.node.toNat < (s.port p).peer.toNat then mine ++ theirs else theirs ++ mine

/-- The transcript of the first `n` messages (R207): message by message, the lower node's first. DESIGN CHOICE (log 88). -/
def transcript (s : State) (p n : Nat) : List Byte :=
  (List.range n).flatMap fun i => s.lowerFirst p ((s.port p).shake.sent.getD i []) ((s.port p).shake.got.getD i [])

/-- A message of the peer has passed its check: its frames are counted (R253), it enters the transcript, and the next of the handshake is
due. -/
def shakeTakes (s : State) (p : Nat) (msg : List Byte) : State :=
  s.modPort p fun x =>
    { x with handshake := x.handshake + 1, rxFrames := Word.satAdd x.rxFrames ((max 1 msg.length + 511) / 512)
             shake := { x.shake with got := x.shake.got ++ [msg] } }

/-- CERTS leaves: the alias certificate chain. -/
def sendCerts (s : State) (p : Nat) : State := s.sendShake p 0x02 (Config.certChain s.sec.aliasCert)

/-- EVIDENCE leaves: measurement summary and security state, signed over both nonces. -/
def sendEvidence (s : State) (p : Nat) : State :=
  let x := s.port p
  let body := s.measSummary ++ Bytes.ofNat 1 s.sec.mode.code
  s.signed.sendShake p 0x03 (body ++ s.aliasSign (s.lowerFirst p (Bytes.ofNat 48 x.shake.nonce.toNat) (Bytes.ofNat 48 x.peerNonce.toNat) ++ body))

/-- KEYX leaves: a fresh ephemeral public key, signed over the transcript so far. -/
def sendKeyx (s : State) (p : Nat) : State :=
  let eph := Config.random s.sec.nonceNext
  let s := (s.modSec fun c => { c with nonceNext := c.nonceNext + 1 }).modPort p fun x => { x with shake := { x.shake with eph := some eph } }
  s.signed.sendShake p 0x04 (Config.ecdhPublic eph ++ s.aliasSign (hashBytes (s.transcript p 3)))

/-- The keys of the handshake are derived, FINISH leaves, and the ephemeral private key is erased (R207). -/
def sendFinish (s : State) (p : Nat) : State :=
  let x := s.port p
  let eph := x.shake.eph.getD 0
  let theirs := (x.shake.got.getD 3 []).take (Config.ecdhPublic eph).length
  let prk := shakeSecret (Config.ecdhShared eph theirs) (s.transcript p 4)
  let s := s.modPort p fun x =>
    { x with shake := { x.shake with keys := some (sessionOf prk s.node x.peer x.shake.policy.integrity) } }
  (s.sendShake p 0x05 (hmac (finishKey prk) (hashBytes (s.transcript p 4)))).modPort p fun x =>
    { x with shake := { x.shake with eph := none } }

/-- A handshake fails: the port goes OUT with a cause; when it ran again after a RETRAIN, what the port held is lost with it (R209). -/
def shakeFails (s : State) (p : Nat) (cause : BitVec 4) : State :=
  if (s.port p).rehandshake then (s.portOut p cause).portLost p else s.portOut p cause

/-- A port in ATTEST that expects the `k`-th message. -/
def expects (s : State) (p k : Nat) : Bool := (s.port p).mode == .attest && (s.port p).handshake == k

end State

/-! ## Bring-up -/

/-- OPT_CTRL_EN (R203): the pilots write it, which run on a powered module that is not in reset (R444, R452). -/
def execOptCtrlEn (e : EngineId) (s : State) : Host.Outcome State Fault Refusal := .next (if s.runs then s.engineOn e.val else s)

/-- PEER_PROBE_SEEN (R202): a DARK port enters TRAIN. -/
def execPeerProbeSeen (p : PortId) (s : State) : Host.Outcome State Fault Refusal :=
  if (s.port p.val).mode = .dark then
    .next (s.modPort p.val fun x =>
      { x with mode := .train, since := s.ns, trainFails := 0, extSrc := s.portLight p.val,
               wasExt := x.wasExt || x.extSrc })
  else .next s

/-- TRAIN_DONE (R204). -/
def execTrainDone (p : PortId) (usable : BitVec 4) (s : State) : Host.Outcome State Fault Refusal :=
  .next (s.trainDone p.val usable)

/-- ATTEST_TIMEOUT: 150 ms in ATTEST (Table 5-2). -/
def execAttestTimeout (p : PortId) (s : State) : Host.Outcome State Fault Refusal :=
  if (s.port p.val).mode = .attest ∧ (s.port p.val).since + 150000000 ≤ s.ns then .next (s.react (s.shakeFails p.val 0x3)) else .next s

/-- HELLO (R205, R206): the peer must be the neighbour, and name the same protection mode; then CERTS leaves. -/
def execHello (p : PortId) (m : HelloMsg) (s : State) : Host.Outcome State Fault Refusal :=
  if s.expects p.val 0 then
    let s := s.modPort p.val fun x => { x with peer := m.node, peerNonce := m.nonce }
    if m.node ≠ neighbour s.dim s.node p.val then .next (s.react (s.shakeFails p.val 0x2))
    else if m.integrity ≠ (s.port p.val).shake.policy.integrity then .next (s.react (s.shakeFails p.val 0x4))
    else .next ((s.shakeTakes p.val (State.helloBytes m)).sendCerts p.val)
  else .next s

/-- CERTS (R206, R358); then EVIDENCE leaves. -/
def execCerts (p : PortId) (m : ShakeMsg) (s : State) : Host.Outcome State Fault Refusal :=
  if s.expects p.val 1 then
    if m.ok then .next ((s.shakeTakes p.val m.body).sendEvidence p.val) else .next (s.react (s.shakeFails p.val 0x3))
  else .next s

/-- EVIDENCE (R358); then KEYX leaves. -/
def execEvidence (p : PortId) (m : EvidenceMsg) (s : State) : Host.Outcome State Fault Refusal :=
  if s.expects p.val 2 then
    if !m.sigOk then .next (s.react (s.shakeFails p.val 0x3))
    else if peerAccepted s.sec (s.port p.val).shake.policy m then .next ((s.shakeTakes p.val m.body).sendKeyx p.val)
    else .next (s.react (s.shakeFails p.val 0x4))
  else .next s

/-- KEYX (R207): the keys are derived and FINISH leaves. -/
def execKeyx (p : PortId) (m : ShakeMsg) (s : State) : Host.Outcome State Fault Refusal :=
  if s.expects p.val 3 then
    if m.ok then .next ((s.shakeTakes p.val m.body).sendFinish p.val) else .next (s.react (s.shakeFails p.val 0x3))
  else .next s

/-- FINISH (R207, Table 5-2): the port is UP under fresh keys. -/
def execFinish (p : PortId) (macOk : Bool) (s : State) : Host.Outcome State Fault Refusal :=
  if s.expects p.val 4 then
    if macOk then .next (s.react ((s.portUp p.val).pumpAll p.val)) else .next (s.react (s.shakeFails p.val 0x3))
  else .next s

/-! ## Light -/

/-- LOSS_OF_LIGHT (R202, R209): an UP port enters RETRAIN; one that trains or attests falls back to DARK. -/
def execLossOfLight (p : PortId) (s : State) : Host.Outcome State Fault Refusal :=
  match (s.port p.val).mode with
  | .up => .next (s.portRetrain p.val false)
  | .train | .attest =>
    if (s.port p.val).rehandshake then .next (s.react ((s.portDark p.val).portLost p.val))
    else .next (s.clearPort p.val fun x => { x with mode := .dark, since := s.ns })
  | _ => .next s

/-- RETRAIN_COMPLETE (R204, R209, R211): the port is UP again with its session and sends what it holds, or runs its handshake. -/
def execRetrainComplete (p : PortId) (usable : BitVec 4) (s : State) : Host.Outcome State Fault Refusal :=
  let x := s.port p.val
  if x.mode = .retrain ∧ (State.widthOf usable).2 ≠ 0 then
    let s := s.modPort p.val fun x =>
      { x with lanes := (State.widthOf usable).1, width := (State.widthOf usable).2, extSrc := s.portLight p.val }
    if x.rehandshake || x.session.isNone then .next (s.attestBegins p.val)
    else .next (s.react (((s.modPort p.val fun x => { x with mode := .up, noProgress := 0 }).resend p.val).pumpAll p.val))
  else .next s

/-- ELS_CHANGE (R200, R201): the external source comes, goes, or its loop opens; the ports whose source changes train again. -/
def execElsChange (present closed works : Bool) (s : State) : Host.Outcome State Fault Refusal :=
  .next (s.modFab fun f => { f with elsPresent := present, elsClosed := closed && f.loop, elsWorks := works }).followLight

/-- WAVELENGTH_TUNING (R202): the control loop of engine `e`'s photonic die runs while its ports may emit light. -/
def execWavelengthTuning (e : EngineId) (s : State) : Host.Outcome State Fault Refusal :=
  if (s.engine e.val).en then .next (s.modEngine e.val fun x => { x with tuned := s.ns }) else .next s

/-! ## Acknowledgement, credits, keys -/

/-- ACK (R217). -/
def execAck (p : PortId) (f : Frame) (s : State) : Host.Outcome State Fault Refusal := .next (s.react (s.receive p.val 0 f id))

/-- NAK (R217): the frames after the one it names go again. -/
def execNak (p : PortId) (f : Frame) (s : State) : Host.Outcome State Fault Refusal :=
  .next (s.react (s.receive p.val 1 f fun s => s.resend p.val))

/-- KEY_UPDATE (R208): the receiver's key follows the phase of the frame, which acceptance has seen. -/
def execKeyUpdate (p : PortId) (f : Frame) (s : State) : Host.Outcome State Fault Refusal := .next (s.react (s.receive p.val 3 f id))

/-- RETRY_TIMEOUT (R217). -/
def execRetryTimeout (p : PortId) (s : State) : Host.Outcome State Fault Refusal :=
  let x := s.port p.val
  if x.mode = .up ∧ x.retry.isEmpty = false ∧ x.progressAt + 1000 * (s.engine (p.val / 2)).timeoutUs.toNat ≤ s.ns then
    .next (s.resend p.val)
  else .next s

/-- NAK_REPEAT: a gap that lasts 10 µs (R216). -/
def execNakRepeat (p : PortId) (s : State) : Host.Outcome State Fault Refusal :=
  let x := s.port p.val
  if x.mode = .up ∧ x.gap = true ∧ x.gapSince + 10000 ≤ s.ns then
    .next ((s.modPort p.val fun x => { x with gapSince := s.ns }).sendNak p.val)
  else .next s

/-- ACK_TIMER: accepted frames are acknowledged at least once every microsecond (R218). DESIGN CHOICE (log 89): credits that are owed go
back then too. -/
def execAckTimer (p : PortId) (s : State) : Host.Outcome State Fault Refusal :=
  let s := if (s.port p.val).mode = .up ∧ 0 < (s.port p.val).sinceAck then s.sendAck p.val else s
  .next ([0, 1, 2, 3].foldl (fun s i => s.creditOut p.val i) s)

/-- KEY_UPDATE_DUE: 2^40 frames or 24 h under one key (R208): the sender's key and phase change. -/
def execKeyUpdateDue (p : PortId) (s : State) : Host.Outcome State Fault Refusal :=
  match (s.port p.val).mode, (s.port p.val).session with
  | .up, some k =>
    if 2 ^ 40 ≤ k.keyFrames ∨ k.keySince + 86400000000000 ≤ s.ns then
      let s := s.modPort p.val fun x =>
        { x with
          keyphase := !k.txPhase
          session := some { k with txKey := nextKey k.txKey, txKeys := k.txKeys + 1, txPhase := !k.txPhase, keyFrames := 0, keySince := s.ns } }
      .next (s.react (s.transmit p.val { blankFrame 3 true 0x06 with dst := (s.port p.val).peer, src := s.node, epoch := s.epoch } none))
    else .next s
  | _, _ => .next s

/-! ## Epochs -/

/-- OPEN (R239, R241). -/
def execOpenMsg (p : PortId) (f : Frame) (s : State) : Host.Outcome State Fault Refusal :=
  .next (s.react (s.control p.val 0x07 f fun s => s.openAsked p f))

/-- OPEN_ACK (R239). -/
def execOpenAck (p : PortId) (f : Frame) (s : State) : Host.Outcome State Fault Refusal :=
  .next (s.react (s.control p.val 0x08 f fun s => s.openAnswered p.val f))

/-- CLOSE (Table 5-5): the peer opens afresh before its next frames; frames towards it wait for an OPEN again. -/
def execClose (p : PortId) (f : Frame) (s : State) : Host.Outcome State Fault Refusal :=
  .next (s.react (s.control p.val 0x0A f fun s => s.inEpoch p.val f fun s =>
    s.modFab fun b => { b with opened := b.opened.filter fun n => n != f.src }))

end Sys2Proof.Machine
end

