-- ==== Sys2Proof/Machine/ServeRows.lean ====
section
/-!
DEFINITION. The rows of similarity queries and of serving requests (chapter 6, Table 7-11).
-/
namespace Sys2Proof.Machine
namespace State

/-- Run a command on the group that its JOB names (R294, R296). -/
def withGroup (s : State) (q : Nat) (f : Flight) (body : Group → State) : State :=
  match if f.job.toNat < 0xFF then s.group? (f.job.setWidth 8) else none with
  | none => s.refuse q f Status.notFound 6
  | some g => if g.queue.val != q then s.refuse q f Status.wrongQueue g.queue.val else body g

/-- SKIM_QUERY (R257, R258, R302): checked, copied and queued; it waits while an object that it names is WRITING, and holds references on
its objects meanwhile (R166). -/
def skimQueryCmd (s : State) (x : Env) (q : Nat) (f : Flight) : State :=
  let me : Option (QueueId × Tag) := some (Fin.ofNat 8 q, f.tag)
  if s.queries.any fun k => k.tag == me then s
  else s.withWork q f fun work =>
    if f.arg 8 8 % 64 ≠ 0 then s.refuse q f Status.invalidField 8
    else
      let b := s.hostBytes (f.arg 8 8) 128
      let d := queryDescOf b
      if d.job ≠ work then s.refuse q f Status.invalidField 0x8000
      else
        match s.queryCheck x work b with
        | (.bad st det, s) => s.refuse q f st det
        | (.waits, _) => s.holdObjs q f (s.queryObjs x work d)
        | (.ok segs refs, s) => (s.holdObjs q f []).queryAccept d segs refs me none

/-- A pilot's write to SKM_SUBMIT (R264, R269): the descriptor at a device address is queued at this Skimmer, with the segment list that it
points at. DESIGN CHOICE (log 31): the Skimmer takes it as it reads, without the firmware's checks and references. -/
def skmSubmitRow (s : State) (k : Nat) (a : Addr) : State :=
  if s.mappedRange Tbl.empty a.toNat 128 false then
    let (cs, s) := s.load noEnv Tbl.empty a.toNat 128
    let d := queryDescOf (cellBytes cs)
    let (list, s) := s.load noEnv Tbl.empty d.seglist (32 * d.nseg)
    s.queueQuery d ((Bytes.chunks 32 (cellBytes list)).map segmentOf) [] [k] none none
  else s

/-- SERVE_SUBMIT (R274): the request joins its group, with ACCEPT the device time at which the firmware took it from the ring. -/
def serveSubmitCmd (s : State) (q : Nat) (f : Flight) : State :=
  s.withGroup q f fun g =>
    let len := f.arg 16 2
    if f.arg 8 8 % 64 ≠ 0 then s.refuse q f Status.invalidField 8
    else
      let b := s.hostBytes (f.arg 8 8) len
      let nops := Bytes.field b 9 1
      if len < 32 ∨ (0 < nops ∧ nops ≤ 64 ∧ len ≠ 32 + 16 * nops) then s.refuse q f Status.invalidField 16
      else
        match requestOf g b with
        | .error o => s.refuse q f Status.invalidField (0x8000 + o)
        | .ok (seq, ops) =>
          let r : Request :=
            { queue := Fin.ofNat 8 q, tag := f.tag, seq := seq, accept := f.taken, ops := ops, cur := 0, running := false, query := none,
              reports := 0, failed := none }
          s.modGroup g.id fun g => { g with requests := g.requests ++ [r] }

/-- The running request of a group is cancelled (R301): a STREAM operation's cores are halted and its request ends STOPPED; a SKIM
operation finishes first. -/
def cancelRunning (s : State) (g : Group) (r : Request) : State :=
  match r.ops[r.cur]? with
  | some o =>
    if o.skim && o.started then s.modRequest g.id r.tag fun r => { r with failed := some (Status.stopped, 0) }
    else ((s.lateDone g.id r.tag).clearGroup g).endRequest g.id r Status.stopped 0
  | none => s

/-- CANCEL (R301): it completes after the request's record has been made; re-fired, it looks whether a SKIM operation that it waits for
has ended. -/
def cancelCmd (s : State) (again : Bool) (q : Nat) (f : Flight) : State :=
  s.withGroup q f fun g =>
    let seq := BitVec.ofNat 64 (f.arg 8 8)
    match g.requests.find? fun r => r.seq == seq with
    | none => s.finishOk q f (if again then 1 else 0) 0
    | some r =>
      if again then s
      else
        let s := s.cancelEntries (g.id.setWidth 16) (some seq)
        let s := if r.running then s.cancelRunning g r else s.endRequest g.id r Status.stopped 0
        match (s.group? g.id).bind fun g => g.requests.find? fun p => p.tag == r.tag with
        | some _ => s
        | none => s.finishOk q f 1 0

/-- Whether the command of a tag has started. -/
def hasStarted (s : State) (t : Tag) : Bool :=
  match s.flightOf t with
  | some (_, f) => f.started
  | none => false

end State

/-! ## Meanings -/

/-- SKIM_QUERY (R302). -/
def execSkimQuery (t : Tag) (x : Env) (s : State) : Host.Outcome State Fault Refusal :=
  .next (s.runAgain t 0x33 x fun s => s.skimQueryCmd x)

/-- SKM_SUBMIT (R264). -/
def execSkmSubmit (k : Fin 8) (addr : Addr) (s : State) : Host.Outcome State Fault Refusal := .next (s.skmSubmitRow k.val addr)

/-- SKIM_SCAN_START (R264). -/
def execSkimScanStart (k : Fin 8) (s : State) : Host.Outcome State Fault Refusal := .next (s.skmStart k.val)

/-- SKIM_SCAN_DONE (R262). -/
def execSkimScanDone (k : Fin 8) (x : Env) (s : State) : Host.Outcome State Fault Refusal := .next (s.skmFinish k.val x)

/-- SKIM_MERGE_DONE (R263). -/
def execSkimMergeDone (query : Nat) (s : State) : Host.Outcome State Fault Refusal := .next (s.react (s.mergeDone query))

/-- SERVE_SUBMIT (R274). -/
def execServeSubmit (t : Tag) (x : Env) (s : State) : Host.Outcome State Fault Refusal :=
  .next (s.runHostCmd t 0x32 x State.serveSubmitCmd)

/-- SERVE_OP_START (R275). -/
def execServeOpStart (g : BitVec 8) (s : State) : Host.Outcome State Fault Refusal := .next (s.react (s.opStart g))

/-- SERVE_OP_DONE (R276). -/
def execServeOpDone (g : BitVec 8) (s : State) : Host.Outcome State Fault Refusal := .next (s.react (s.opDone g))

/-- DEADLINE_OVERDUE (R277). -/
def execDeadlineOverdue (g : BitVec 8) (op : Fin 64) (s : State) : Host.Outcome State Fault Refusal := .next (s.opOverdue g op.val)

/-- CANCEL (R301). -/
def execCancel (t : Tag) (s : State) : Host.Outcome State Fault Refusal :=
  .next (s.react (s.runCmdAgain t 0x34 fun u => u.cancelCmd (s.hasStarted t)))

end Sys2Proof.Machine
end

