-- ==== Sys2Proof/Machine/Registers.lean ====
section
/-!
DEFINITION. Register accesses (R8, Table 0-6): the BAR0 window (Tables 7-2 to 7-4), the register blocks of the device address map
(Table 4-3), the test access port (R363), PCIe configuration requests (R368) and DOE Discovery (R279).
-/
namespace Sys2Proof.Machine

/-- A field of a written value. -/
def fld (v : BitVec 64) (lo w : Nat) : BitVec w := v.extractLsb' lo w

/-- One bit in its place. -/
def bitAt (b : Bool) (i : Nat) : Nat := Bytes.ofBool b * 2 ^ i

namespace State

/-! ## Writes of the dies' register blocks -/

/-- The core of a register block may be written (R47, R190): it is in IDLE or FAULT. -/
def coreStill (s : State) (c : Nat) : Bool := (s.core c).regs.mode != .run

/-- Change a core's registers. -/
def modRegs (s : State) (c : Nat) (f : CoreRegs → CoreRegs) : State := s.modCore c fun k => { k with regs := f k.regs }

/-- Core control block (Tables 1-19 to 1-22). -/
def writeCore (s : State) (c r : Nat) (v : BitVec 64) : State :=
  if r = 0x000 then
    if v.getLsbD 2 then s.coreHalt c
    else
      let s := if v.getLsbD 1 then s.coreClear c else s
      if v.getLsbD 0 then s.coreStart c else s
  else if r = 0x008 then s.modRegs c fun g => { g with startPc := fld v 0 19 }
  else if r = 0x020 then s.clearCoreStatus c v
  else if r = 0x030 then s.modRegs c fun g => { g with stag := fld v 0 3 }
  else if r = 0x038 then s.modRegs c fun g => { g with wdog := fld v 0 6 }
  else if 0x100 ≤ r ∧ r < 0x300 ∧ s.coreStill c = true then
    s.modRegs c fun g => { g with sems := g.sems.set 0 ((r - 0x100) / 8) (fld v 0 16) }
  else s

/-- Stall counter block (Table 4-13, R190). -/
def writeStall (s : State) (c r : Nat) (v : BitVec 64) : State :=
  if 0x80 ≤ r ∧ r < 0xA0 ∧ s.coreStill c = true then
    s.modRegs c fun g => { g with classes := g.classes.set 0 ((r - 0x80) / 8) v }
  else s

/-- VAL_LOG may be set (R359). -/
def valLogMay (s : State) : Bool := s.sec.policy.valLogAllow || s.scopeBit 4

/-- Change a Sextant. -/
def modSxt (s : State) (d : Nat) (f : Sextant → Sextant) : State := s.modDie d fun c => { c with sxt := f c.sxt }

/-- Sextant block (Tables 2-11 to 2-13, R359). -/
def writeSxt (s : State) (d r : Nat) (v : BitVec 64) : State :=
  if r = 0x000 then
    s.modSxt d fun x =>
      { x with nExp := fld v 8 5, valLog := v.getLsbD 2 && s.valLogMay, logEn := v.getLsbD 1, en := v.getLsbD 0 }
  else if r = 0x008 then s.modSxt d fun x => { x with thresh := fld v 0 5 }
  else if r = 0x010 then s.modSxt d fun x => { x with seed := v }
  else if r = 0x018 then s.modSxt d fun x => { x with mismatch := w1c x.mismatch v 1 }
  else s

/-- Separator block (Tables 3-10 to 3-13): the list and the per-step registers take writes only in IDLE (R131). -/
def writeSep (s : State) (m r : Nat) (v : BitVec 64) : State :=
  if 0x010 ≤ r ∧ r ≤ 0x060 ∧ (s.sep m).mode ≠ .idle then s else
  match r with
  | 0x000 =>
    let s := if v.getLsbD 1 then s.sepAbort m else s
    if v.getLsbD 0 then s.goRow m else s
  | 0x008 => s.modSep m fun u => { u with nonfinite := w1c u.nonfinite v 7, poison := w1c u.poison v 6, done := w1c u.done v 5 }
  | 0x010 => s.modSep m fun u => { u with list := fld v 0 48 }
  | 0x018 => s.modSep m fun u => { u with listLen := fld v 0 16 }
  | 0x020 => s.modSep m fun u => { u with step := v }
  | 0x028 => s.modSep m fun u => { u with t := v }
  | 0x030 => s.modSep m fun u => { u with seed := v }
  | 0x038 => s.modSep m fun u => { u with unscale := fld v 0 8 }
  | 0x040 => s.modSep m fun u => { u with gscale := fld v 0 32 }
  | 0x048 => s.modSep m fun u => { u with lr := fld v 0 32 }
  | 0x050 => s.modSep m fun u => { u with beta1 := fld v 0 32, beta2 := fld v 32 32 }
  | 0x058 => s.modSep m fun u => { u with bc1 := fld v 0 32, bc2 := fld v 32 32 }
  | 0x060 => s.modSep m fun u => { u with bc2p := fld v 0 32 }
  | _ => s

/-- Scale-pass block (Tables 2-16, 2-17). -/
def writeSpu (s : State) (m r : Nat) (v : BitVec 64) : State :=
  match r with
  | 0x000 => s.modSpu m fun u => { u with en := v.getLsbD 0 }
  | 0x008 => s.modSpu m fun u => { u with poison := w1c u.poison v 18, reject := w1c u.reject v 17, done := w1c u.done v 16 }
  | 0x010 => s.spuSubmit m (fld v 0 48)
  | _ => s

/-- Skimmer block (Tables 6-7, 6-8, R269). -/
def writeSkm (s : State) (k r : Nat) (v : BitVec 64) : State :=
  match r with
  | 0x800 => s.modSkm k fun u => { u with en := v.getLsbD 0 }
  | 0x808 => s.modSkm k fun u => { u with poison := w1c u.poison v 17, done := w1c u.done v 16 }
  | 0x810 => s.skmSubmitRow k (fld v 0 48)
  | _ => s

/-- Memory die controls block (Tables 4-14, 4-15). -/
def writeMem (s : State) (m r : Nat) (v : BitVec 64) : State :=
  if r = 0x000 then s.modMem m fun d => { d with overdue := w1c d.overdue v 1, ue := w1c d.ue v 0 } else s.writeSkm m r v

/-- Flash die block (Tables 4-6, 4-7). -/
def writeFld (s : State) (f r : Nat) (v : BitVec 64) : State :=
  match r with
  | 0x000 => s.modFlash f fun d => { d with poison := w1c d.poison v 9 }
  | 0x008 => s.modFlash f fun d => { d with floor := fld v 16 10, low := fld v 0 10 }
  | _ => s.writeSkm (4 + f) r v

/-- Almanac block (Tables 4-10, 4-11). -/
def writeAlm (s : State) (r : Nat) (v : BitVec 64) : State :=
  if r = 0x000 then s.modAlm fun a => { a with en := v.getLsbD 0 }
  else if r = 0x008 then
    s.modAlm fun a => { a with poison := w1c a.poison v 3, tlate := w1c a.tlate v 2, late := w1c a.late v 1 }
  else if r = 0x010 then s.modAlm fun a => { a with cancelJob := fld v 0 16 }
  else if r = 0x018 then s.cancelStepWrite v
  else if r = 0x020 then s.modAlm fun a => { a with guard := fld v 0 24 }
  else if r = 0x028 then s.modAlm fun a => { a with latFlash := fld v 32 24, latHost := fld v 16 16, latDram := fld v 0 16 }
  else if r = 0x030 then
    s.modAlm fun a => { a with rateScratch := fld v 48 16, rateHost := fld v 32 16, rateFlash := fld v 16 16, rateDram := fld v 0 16 }
  else if 0x100 ≤ r ∧ r < 0x180 then
    let j := (r - 0x100) / 16
    if r % 16 = 0 then (s.modSlot j fun x => { x with valid := v.getLsbD 16, job := fld v 0 16 }).sweepEntries.pruneSlot j
    else s.writeSlotStep j v
  else s

/-- OPT_CTRL.EN = 0 (Table 5-2): ports of the engine that are not OUT go OFF and dark, and their sessions end, with what they held
(R209). -/
def engineOff (s : State) (e : Nat) : State :=
  let s := s.modEngine e fun x => { x with en := false }
  let s := [2 * e, 2 * e + 1].foldl
    (fun s p =>
      let x := s.port p
      if x.mode = .out then s
      else
        let s := s.clearPort p fun x => { x with mode := .off }
        if x.mode = .up ∨ x.mode = .retrain then s.portLost p else s)
    s
  s.setLoop

/-- Optical engine block (Tables 5-11, 5-12, R253). -/
def writeOpt (s : State) (e r : Nat) (v : BitVec 64) : State :=
  match r with
  | 0x000 =>
    let s := s.modEngine e fun x => { x with elsAllow := v.getLsbD 1 }
    (if v.getLsbD 0 then s.engineOn e else if (s.engine e).en then s.engineOff e else s).followLight
  | 0x008 =>
    s.modEngine e fun x =>
      { x with
        timeout := w1c x.timeout v 7, unroute := w1c x.unroute v 6, laggard := w1c x.laggard v 5, stale := w1c x.stale v 4
        auth := x.auth.mapIdx fun j b => w1c b v (2 + j), linkdn := x.linkdn.mapIdx fun j b => w1c b v j }
  | 0x010 => s.modEngine e fun x => { x with node := fld v 0 12 }
  | 0x018 => (s.modEngine e fun x => if dimOk (fld v 0 16) then { x with dim := fld v 0 16 } else x).unusedPorts
  | 0x020 =>
    let old := (s.engine e).epoch
    let s := s.modEngine e fun x => { x with epoch := fld v 0 16 }
    if e = 0 ∧ old ≠ fld v 0 16 then s.epochBegins (fld v 0 16) else s
  | 0x028 => s.modEngine e fun x => { x with ackFrames := fld v 16 8, limit := fld v 8 4, timeoutUs := fld v 0 8 }
  | 0x030 => s.modEngine e fun x => { x with mcHold := fld v 0 16 }
  | 0x038 => s.modEngine e fun x => { x with collTimeout := fld v 0 16 }
  | _ => s

/-- Interrupt controller block (Tables 12-2, 12-3). The configuration of a source that Table 12-1 does not list ignores writes
(R409). -/
def writeIc (s : State) (r : Nat) (v : BitVec 64) : State :=
  if r < 0x1000 then
    if srcListed (r / 8) then
      s.modSrc (r / 8) fun x =>
        { x with nomod := v.getLsbD 24, targets := fld v 16 4, prio := fld v 8 4, sense := fld v 4 2, enable := v.getLsbD 0 }
    else s
  else if 0x2000 ≤ r ∧ r < 0x2400 then
    let p := (r - 0x2000) / 0x100
    match r % 0x100 with
    | 0x08 => if h : p < 4 then s.completeSource ⟨p, h⟩ (fld v 0 9).toNat else s
    | 0x10 => s.modPilot p fun q => { q with all := v.getLsbD 8, thresh := fld v 0 4 }
    | 0x18 => s.modPilot p fun q => { q with interval := fld v 0 16 }
    | _ => s
  else if r = 0x3008 then s.swi (fld v 0 4)
  else s

/-- A write to a register block of the device address map, at an offset from its first address (Table 4-3). RO, RC and reserved bits
ignore it (Table 0-6). -/
def regWrite (s : State) (off : Nat) (v : BitVec 64) : State :=
  let i := off % 0x100000 / 0x1000
  let r := off % 0x1000
  let v := s.clears off v
  if off % 8 ≠ 0 then s
  else
    match off / 0x100000 with
    | 0 => if i < 176 then s.writeCore i r v else s
    | 1 => if i < 22 then s.writeSxt i r v else s
    | 2 => let c := off % 0x100000 / 0x100; if c < 176 then s.writeStall c (off % 0x100) v else s
    | 3 => if i < 4 then s.writeSep i r v else s
    | 4 => if i < 4 then s.writeSpu i r v else s
    | 5 => if i < 4 then s.writeMem i r v else s
    | 6 => if i < 4 then s.writeFld i r v else s
    | 7 => if i = 0 then s.writeAlm r v else s
    | 8 => if i < 4 then s.writeOpt i r v else s
    | 9 => s.writeIc (off % 0x100000) v
    | _ => s

/-! ## Reads of the dies' register blocks -/

/-- A core's control block as it reads. -/
def coreValue (s : State) (c r : Nat) : Nat :=
  let k := s.core c
  let g := k.regs
  let valid (b : Nat) : Bool := match k.arr.banks.find? b with | some x => x.valid | none => false
  match r with
  | 0x008 => g.startPc.toNat
  | 0x010 => if g.mode = .run ∧ k.pipe.faulting = none then (s.boundary c).2 else g.pc
  | 0x018 => g.phase.toNat
  | 0x020 =>
    (match g.mode with | .idle => 0 | .run => 1 | .fault => 2) + bitAt (k.arr.tiles.any fun t => t.active) 2 + bitAt (valid 0) 3 +
    bitAt (valid 1) 4 + bitAt k.arr.replay.isSome 5 + k.arr.level * 2 ^ 6 + bitAt g.done 13 + bitAt g.faulted 14 + bitAt g.wrapped 15
  | 0x028 => g.faultPc.toNat + g.faultCause.toNat * 2 ^ 32
  | 0x030 => g.stag.toNat
  | 0x038 => g.wdog.toNat
  | 0x040 => g.busy.toNat
  | 0x048 => g.replays.toNat
  | 0x050 => g.doneCnt.toNat
  | 0x058 => g.faultCnt.toNat
  | 0x060 => g.wrapCnt.toNat
  | _ => if 0x100 ≤ r ∧ r < 0x300 then (g.sems.get 0 ((r - 0x100) / 8)).toNat else 0

/-- A stall counter block as it reads. -/
def stallValue (s : State) (c r : Nat) : Nat :=
  let g := (s.core c).regs
  if r < 0x48 then (g.stall.get 0 (r / 8)).toNat
  else if 0x80 ≤ r ∧ r < 0xA0 then (g.classes.get 0 ((r - 0x80) / 8)).toNat else 0

/-- A Sextant block as it reads. -/
def sxtValue (s : State) (d r : Nat) : Nat :=
  let x := (s.die d).sxt
  match r with
  | 0x000 => bitAt x.en 0 + bitAt x.logEn 1 + bitAt x.valLog 2 + x.nExp.toNat * 2 ^ 8
  | 0x008 => x.thresh.toNat
  | 0x010 => x.seed.toNat
  | 0x018 => bitAt x.probe.isSome 0 + bitAt x.mismatch 1
  | 0x020 => x.sampled.toNat
  | 0x028 => x.skipped.toNat
  | 0x030 => x.mismatchCnt.toNat
  | 0x038 => x.lastSeq.toNat
  | 0x040 => x.posCol.toNat + x.posRow.toNat * 2 ^ 6 + x.posPhase.toNat * 2 ^ 15 + x.posCore.toNat * 2 ^ 18 + x.errExp.toNat * 2 ^ 24
  | _ => 0

/-- A Separator block as it reads, but for SEP_PARK_PEAK's action. -/
def sepValue (s : State) (m r : Nat) : Nat :=
  let u := s.sep m
  match r with
  | 0x008 =>
    (match u.mode with | .idle => 0 | .run => 1 | .wait => 2) + bitAt (decide (0 < s.parkCapacity m ∧ s.parkCapacity m ≤ u.parked.length)) 4 + bitAt u.done 5 +
    bitAt u.poison 6 + bitAt u.nonfinite 7 + u.descIndex * 2 ^ 32
  | 0x010 => u.list.toNat
  | 0x018 => u.listLen.toNat
  | 0x020 => u.step.toNat
  | 0x028 => u.t.toNat
  | 0x030 => u.seed.toNat
  | 0x038 => u.unscale.toNat
  | 0x040 => u.gscale.toNat
  | 0x048 => u.lr.toNat
  | 0x050 => u.beta1.toNat + u.beta2.toNat * 2 ^ 32
  | 0x058 => u.bc1.toNat + u.bc2.toNat * 2 ^ 32
  | 0x060 => u.bc2p.toNat
  | 0x068 => u.digest.toNat
  | 0x070 => u.params.toNat
  | 0x078 => u.parkStall.toNat
  | 0x080 => u.parked.length
  | 0x088 => u.parkPeak.toNat
  | 0x090 => u.doneCnt.toNat
  | 0x098 => u.poisonCnt.toNat
  | 0x0A0 => u.nonfinCnt.toNat
  | _ => 0

/-- A scale-pass block as it reads. -/
def spuValue (s : State) (m r : Nat) : Nat :=
  let u := s.spu m
  match r with
  | 0x000 => bitAt u.en 0
  | 0x008 => bitAt u.running.isSome 0 + u.queue.length * 2 ^ 8 + bitAt u.done 16 + bitAt u.reject 17 + bitAt u.poison 18
  | 0x018 => u.lastAddr.toNat + u.lastCode.toNat * 2 ^ 56
  | 0x020 => u.blocks.toNat
  | 0x028 => u.doneCnt.toNat
  | 0x030 => u.rejectCnt.toNat
  | 0x038 => u.poisonCnt.toNat
  | _ => 0

/-- A Skimmer block as it reads. -/
def skmValue (s : State) (k r : Nat) : Nat :=
  let u := s.skm k
  match r with
  | 0x800 => bitAt u.en 0
  | 0x808 =>
    (match u.mode with | .idle => 0 | .load => 1 | .scan => 2 | .merge => 3) + u.queue.length * 2 ^ 8 + bitAt u.done 16 + bitAt u.poison 17
  | 0x818 => u.bytes.toNat
  | 0x820 => u.vecs.toNat
  | 0x828 => u.doneCnt.toNat
  | 0x830 => u.poisonCnt.toNat
  | _ => 0

/-- A memory die controls block as it reads. -/
def memValue (s : State) (m r : Nat) : Nat :=
  let d := s.memDie m
  match r with
  | 0x000 => bitAt d.ue 0 + bitAt d.overdue 1
  | 0x008 => d.inService.toNat + d.rate.toNat * 2 ^ 8
  | 0x010 => d.ueAddr.toNat
  | 0x018 => d.scrubPos.toNat
  | 0x020 => d.scrubStart.toNat
  | 0x028 => d.ueCnt.toNat
  | 0x030 => d.ovdCnt.toNat
  | 0x038 => d.cacheHit.toNat
  | 0x040 => d.cacheMiss.toNat
  | 0x048 => d.cacheWb.toNat
  | _ => if 0x050 ≤ r ∧ r < 0x070 then (d.ceCnt.get 0 ((r - 0x050) / 8)).toNat else s.skmValue m r

/-- A flash die block as it reads. -/
def fldValue (s : State) (f r : Nat) : Nat :=
  let d := s.flash f
  match r with
  | 0x000 => d.channels.toNat + bitAt d.bgActive 8 + bitAt d.poison 9
  | 0x008 => d.low.toNat + d.floor.toNat * 2 ^ 16
  | 0x010 => d.freeBlocks.toNat
  | 0x018 => d.wearUsed.toNat + d.wearMax.toNat * 2 ^ 32
  | 0x020 => d.rebuildCnt.toNat
  | 0x028 => d.poisonCnt.toNat
  | 0x030 => d.refreshCnt.toNat
  | 0x038 => d.wstall.toNat
  | _ => s.skmValue (4 + f) r

/-- The Almanac block as it reads, but for ALM_USED.PEAK's action. -/
def almValue (s : State) (r : Nat) : Nat :=
  let a := s.alm
  if r = 0x000 then bitAt a.en 0
  else if r = 0x008 then
    bitAt (decide (4096 ≤ a.table.length)) 0 + bitAt a.late 1 + bitAt a.tlate 2 + bitAt a.poison 3 + bitAt a.cancelling 8
  else if r = 0x010 then a.cancelJob.toNat
  else if r = 0x020 then a.guard.toNat
  else if r = 0x028 then a.latDram.toNat + a.latHost.toNat * 2 ^ 16 + a.latFlash.toNat * 2 ^ 32
  else if r = 0x030 then
    a.rateDram.toNat + a.rateFlash.toNat * 2 ^ 16 + a.rateHost.toNat * 2 ^ 32 + a.rateScratch.toNat * 2 ^ 48
  else if r = 0x038 then a.table.length + a.peak.toNat * 2 ^ 16
  else if r = 0x040 then a.launched.toNat
  else if r = 0x048 then a.lateCnt.toNat
  else if r = 0x050 then a.tlateCnt.toNat
  else if r = 0x058 then a.poisonCnt.toNat
  else if r = 0x060 then a.cancelCnt.toNat
  else if r = 0x068 then a.discard.toNat
  else if 0x100 ≤ r ∧ r < 0x180 then
    let x := s.almSlot ((r - 0x100) / 16)
    if r % 16 = 0 then x.job.toNat + bitAt x.valid 16 else x.step.toNat
  else if 0x200 ≤ r ∧ r < 0x240 then (s.almSlot ((r - 0x200) / 8)).clk.toNat
  else if 0x280 ≤ r ∧ r < 0x2C0 then (s.almSlot ((r - 0x280) / 8)).pclk.toNat
  else if 0x300 ≤ r ∧ r < 0x340 then
    let x := s.almSlot ((r - 0x300) / 8)
    x.pstep.toNat + bitAt x.pvalid 63
  else 0

/-- An optical engine block as it reads. -/
def optValue (s : State) (e r : Nat) : Nat :=
  let x := s.engine e
  if 0x040 ≤ r ∧ r < 0x0C0 then
    let p := s.port (2 * e + (r - 0x040) / 0x40)
    match (r - 0x040) % 0x40 with
    | 0x00 => portState p
    | 0x08 => p.fecCorr.toNat
    | 0x10 => p.fecUnc.toNat
    | 0x18 => p.retryCnt.toNat
    | 0x20 => p.authCnt.toNat
    | 0x28 => p.linkdnCnt.toNat
    | 0x30 => p.txFrames.toNat
    | _ => p.rxFrames.toNat
  else
    match r with
    | 0x000 => bitAt x.en 0 + bitAt x.elsAllow 1
    | 0x008 =>
      bitAt (vget false x.linkdn 0) 0 + bitAt (vget false x.linkdn 1) 1 + bitAt (vget false x.auth 0) 2 + bitAt (vget false x.auth 1) 3 +
      bitAt x.stale 4 + bitAt x.laggard 5 + bitAt x.unroute 6 + bitAt x.timeout 7 + bitAt s.fab.elsPresent 12 +
      bitAt (s.fab.elsClosed && s.fab.loop) 13
    | 0x010 => x.node.toNat
    | 0x018 => x.dim.toNat
    | 0x020 => x.epoch.toNat
    | 0x028 => x.timeoutUs.toNat + x.limit.toNat * 2 ^ 8 + x.ackFrames.toNat * 2 ^ 16
    | 0x030 => x.mcHold.toNat
    | 0x038 => x.collTimeout.toNat
    | 0x0C0 => x.staleCnt.toNat
    | 0x0C8 => x.lagCnt.toNat
    | 0x0D0 => x.unrouteCnt.toNat
    | 0x0D8 => x.timeoutCnt.toNat
    | _ => 0

/-- The interrupt controller's block as it reads, but for a claim's action. -/
def icValue (s : State) (r : Nat) : Nat :=
  if r < 0x1000 then
    let x := s.src (r / 8)
    bitAt x.enable 0 + bitAt x.pending 1 + bitAt x.insvc.isSome 2 + bitAt x.line 3 + x.sense.toNat * 2 ^ 4 + x.prio.toNat * 2 ^ 8 +
    x.targets.toNat * 2 ^ 16 + bitAt x.nomod 24
  else if r < 0x1040 then maskOf 64 fun i => (s.src (64 * ((r - 0x1000) / 8) + i)).pending
  else if 0x2000 ≤ r ∧ r < 0x2400 then
    let p := (r - 0x2000) / 0x100
    let q := s.pilot p
    match r % 0x100 with
    | 0x00 => (s.bestSource p).getD 0x3FF
    | 0x10 => q.thresh.toNat + bitAt q.all 8
    | 0x18 => q.interval.toNat
    | 0x20 => bitAt (s.notified p) 0 + bitAt q.asleep 1
    | 0x28 => q.spurCnt.toNat
    | 0x30 => q.wakeCnt.toNat
    | 0x38 => q.modHold.toNat
    | _ => 0
  else if r = 0x3000 then s.ic.mergeCnt.toNat
  else 0

/-- What a read at an offset of the register blocks returns. -/
def regValue (s : State) (off : Nat) : Nat :=
  let i := off % 0x100000 / 0x1000
  let r := off % 0x1000
  if off % 8 ≠ 0 then 0
  else
    match off / 0x100000 with
    | 0 => if i < 176 then s.coreValue i r else 0
    | 1 => if i < 22 then s.sxtValue i r else 0
    | 2 => let c := off % 0x100000 / 0x100; if c < 176 then s.stallValue c (off % 0x100) else 0
    | 3 => if i < 4 then s.sepValue i r else 0
    | 4 => if i < 4 then s.spuValue i r else 0
    | 5 => if i < 4 then s.memValue i r else 0
    | 6 => if i < 4 then s.fldValue i r else 0
    | 7 => if i = 0 then s.almValue r else 0
    | 8 => if i < 4 then s.optValue i r else 0
    | 9 => s.icValue (off % 0x100000)
    | _ => 0

/-- What a read does: the actions of the RC registers (Table 0-6). -/
def regReadActs (s : State) (off : Nat) : State :=
  let i := off % 0x100000 / 0x1000
  let r := off % 0x1000
  if off = 0x700038 then s.almPeakRead
  else if off / 0x100000 = 3 ∧ r = 0x088 ∧ i < 4 then s.parkPeakRead i
  else if h : off / 0x100000 = 9 ∧ off % 0x100 = 0 ∧ 0x902000 ≤ off ∧ off < 0x902400 then
    s.claimReaches ⟨(off - 0x902000) / 0x100, by omega⟩
  else s

/-! ## BAR0 (Tables 7-2 to 7-4) -/

/-- A queue register as it reads. -/
def queueValue (s : State) (q r : Nat) : Nat :=
  let h := s.queue q
  match r with
  | 0x00 => h.sqBase.toNat * 2 ^ 12
  | 0x08 => h.cqBase.toNat * 2 ^ 12
  | 0x10 =>
    h.sqLog2.toNat + h.cqLog2.toNat * 2 ^ 8 + h.vector.toNat * 2 ^ 16 + h.imodCount.toNat * 2 ^ 24 + h.imodTime.toNat * 2 ^ 32
  | 0x18 => bitAt h.enable 0
  | 0x20 => bitAt h.enabled 0 + h.cqTail.toNat * 2 ^ 8 + bitAt h.phase 16 + h.error.toNat * 2 ^ 24 + bitAt h.err 32
  | 0x28 => h.holdCnt.toNat
  | 0x30 => h.errCnt.toNat
  | 0x38 => h.igndbCnt.toNat
  | _ => 0

/-- The 64-bit register at an aligned BAR0 offset as it reads. -/
def barWord (s : State) (r : Nat) : Nat :=
  let b := s.bar
  if r = 0x0000 then devIdent
  else if r = 0x0008 then 0x0100 + b.fw.toNat * 2 ^ 16
  else if r = 0x0010 then 8 + 8 * 2 ^ 8 + 0x400 * 2 ^ 16 + 0x40 * 2 ^ 32
  else if r = 0x0018 then b.devState
  else if r = 0x0020 then s.ns
  else if r = 0x0040 then bitAt b.icState 0 + bitAt b.icFatal 1 + bitAt b.icQerr 2 + bitAt b.icEvent 3
  else if r = 0x0048 then b.intEnable.toNat
  else if r = 0x0060 then b.stateCnt.toNat
  else if r = 0x0068 then b.fatalCnt.toNat
  else if r = 0x0070 then b.qerrCnt.toNat
  else if r = 0x0078 then b.eventCnt.toNat
  else if 0x1000 ≤ r ∧ r < 0x1400 then s.queueValue ((r - 0x1000) / 0x80) (r % 0x80)
  else if 0x8000 ≤ r ∧ r < 0x8400 then
    let i := (r - 0x8000) / 4
    (b.msixDword i).toNat + (b.msixDword (i + 1)).toNat * 2 ^ 32
  else if r = 0x9000 then b.msixPend.toNat
  else 0

/-- A read of BAR0 (R281): naturally aligned, 4 or 8 bytes; any other returns 0. -/
def barRead (s : State) (off size : Nat) : Nat :=
  if size = 8 ∧ off % 8 = 0 then s.barWord off
  else if size = 4 ∧ off % 4 = 0 then Bytes.bits (s.barWord (off / 8 * 8)) (if off % 8 = 0 then 0 else 32) 32
  else 0

/-- A written field of a register that keeps the bits outside the access. -/
def merged (old : Nat) (v m : BitVec 64) : BitVec 64 := (BitVec.ofNat 64 old &&& ~~~m) ||| (v &&& m)

/-- Write a dword of the MSI-X table (Table 7-1); a vector that becomes unmasked sends its pending message. -/
def writeMsix (s : State) (i : Nat) (d : BitVec 32) : State :=
  let v := i / 4
  let d := if i % 4 = 3 then d &&& 1 else if i % 4 = 0 then d &&& 0xFFFFFFFC else d
  let s := s.modBar fun b => { b with msix := b.msix.set (if i % 4 = 3 then 1 else 0) i d }
  if i % 4 = 3 ∧ s.bar.msixOn = true ∧ s.bar.masked v = false ∧ s.bar.msixPend.getLsbD v = true then
    (s.modBar fun b => { b with msixPend := b.msixPend &&& ~~~(1#64 <<< v) }).sendMsix (BitVec.ofNat 6 v)
  else s

/-- A write to a queue register; bases and configuration change only while ENABLED = 0 (R285). -/
def writeQueue (s : State) (q r : Nat) (v m : BitVec 64) : State :=
  let x := merged (s.queueValue q r) v m
  let on := (s.queue q).enabled
  match r with
  | 0x00 => if on then s else s.modQueue q fun h => { h with sqBase := fld x 12 52 }
  | 0x08 => if on then s else s.modQueue q fun h => { h with cqBase := fld x 12 52 }
  | 0x10 =>
    if on then s
    else s.modQueue q fun h =>
      { h with imodTime := fld x 32 16, imodCount := fld x 24 8, vector := fld x 16 6, cqLog2 := fld x 8 4, sqLog2 := fld x 0 4 }
  | 0x18 => if m.getLsbD 0 then (if v.getLsbD 0 then s.enableQueue q else s.disableQueue q) else s
  | 0x20 => s.modQueue q fun h => { h with err := w1c h.err (v &&& m) 32 }
  | _ => s

/-- A write of the 64-bit register at an aligned offset; `m` names the bits that the access covers. -/
def barWordWrite (s : State) (r : Nat) (v m : BitVec 64) : State :=
  let v := s.clears (barKey r) v
  if r = 0x0040 then
    s.modBar fun b =>
      { b with
        icState := w1c b.icState (v &&& m) 0, icFatal := w1c b.icFatal (v &&& m) 1
        icQerr := w1c b.icQerr (v &&& m) 2, icEvent := w1c b.icEvent (v &&& m) 3 }
  else if r = 0x0048 then s.modBar fun b => { b with intEnable := fld (merged b.intEnable.toNat v m) 0 4 }
  else if 0x1000 ≤ r ∧ r < 0x1400 then s.writeQueue ((r - 0x1000) / 0x80) (r % 0x80) v m
  else if 0x2000 ≤ r ∧ r < 0x2040 then if m.getLsbD 0 then s.tailDb ((r - 0x2000) / 8) (fld v 0 8) else s
  else if 0x2100 ≤ r ∧ r < 0x2140 then if m.getLsbD 0 then s.headDb ((r - 0x2100) / 8) (fld v 0 8) else s
  else if 0x8000 ≤ r ∧ r < 0x8400 then
    let i := (r - 0x8000) / 4
    let s := if m.getLsbD 0 then s.writeMsix i (fld v 0 32) else s
    if m.getLsbD 32 then s.writeMsix (i + 1) (fld v 32 32) else s
  else s

/-- A write of BAR0 (R281): naturally aligned, 4 or 8 bytes; any other is ignored. -/
def barWrite (s : State) (off size : Nat) (v : BitVec 64) : State :=
  if !s.barServed then s
  else if size = 8 ∧ off % 8 = 0 then s.barWordWrite off v (BitVec.allOnes 64)
  else if size = 4 ∧ off % 8 = 0 then s.barWordWrite off v 0xFFFFFFFF
  else if size = 4 ∧ off % 8 = 4 then s.barWordWrite (off - 4) (v <<< 32) 0xFFFFFFFF00000000
  else s

/-- A pilot arms a device-time comparator (R410): IC_SRC of its source names that pilot alone and is enabled. -/
def armComparator (s : State) (k : Nat) (p : PilotId) (v : BitVec 64) : State :=
  let s := s.modSrc (0x158 + k) fun x => { x with targets := 1#4 <<< p.val, enable := true }
  { s with ic := { s.ic with comparators := s.ic.comparators.put k v } }

/-- REGISTER_WRITE (R8). Dies take no write while the module is held in reset (R438). -/
def registerWrite (s : State) (r : RegTarget) (v : BitVec 64) : State :=
  match r with
  | .bar0 off size => s.barWrite off.toNat size.toNat v
  | .dev a =>
    if !s.runs then s
    else
      match s.placeOf a.toNat with
      | .regs off => s.react (s.regWrite off v)
      | _ => s
  | .comparator k p => if s.runs then s.armComparator k.val p v else s

/-! ## The test access port (R363, R450) -/

/-- A read of 8 bytes of any device address through the mesh; one of IC_CLAIM_p is answered as a pilot's is (R413). What the spec gives no contents reads as a free value. -/
def meshRead (s : State) (a : Nat) : State :=
  match s.placeOf a with
  | .regs off =>
    if off % 0x100 = 0 ∧ 0x902000 ≤ off ∧ off < 0x902400 then s.regReadActs off
    else (s.emit (.jtag (BitVec.ofNat 64 (s.regValue off)))).regReadActs off
  | _ =>
    if s.mappedRange Tbl.empty a 8 false then
      let (cs, s) := s.load noEnv Tbl.empty a 8
      s.emit (.jtag (BitVec.ofNat 64 (Bytes.toNat (cellBytes cs))))
    else
      let (n, s) := s.drawNat
      s.emit (.jtag (BitVec.ofNat 64 n))

/-- A write of 8 bytes of any device address through the mesh. -/
def meshWrite (s : State) (a : Nat) (v : BitVec 64) : State :=
  match s.placeOf a with
  | .regs off => s.react (s.regWrite off v)
  | _ => if s.mappedRange Tbl.empty a 8 true then s.store Tbl.empty a (cleanCells (Bytes.ofNat 8 v.toNat)) else s

/-- The port grants what a scope bit names (R363). -/
def jtagGrants (s : State) (bit : Nat) : Bool := s.sec.jtagOpen && s.scopeBit bit

/-- The record of a Logbook copy that lies at a record's place in its ring. DEDUCED (log 101): record SEQ lies at place SEQ mod 65,536. -/
def norRecord (l : List LogRec) (k : Nat) : List Byte :=
  match l.reverse.find? fun r => r.seq.toNat % logRing == k with | some r => logBytes r | none => List.replicate 64 0xFF

/-- A byte of the logbook NOR (Table 13-8), where the spec lays it out: the two copies of the Logbook, and the reserved range, which is
erased. -/
def norByte (s : State) (a : Nat) : Option Byte :=
  if decide (a < 0x400000) && s.boot.deadA || decide (0x400000 ≤ a ∧ a < 0x800000) && s.boot.deadB then none
  else if a < 0x400000 then some ((norRecord s.boot.logA (a / 64)).getD (a % 64) 0xFF)
  else if a < 0x800000 then some ((norRecord s.boot.logB ((a - 0x400000) / 64)).getD (a % 64) 0xFF)
  else if a < 0x2930000 then none
  else some 0xFF

/-- The bench reads the NOR through a pilot (R449): firmware slots, ownership record, identity certificate and training store lie in it in
forms that the spec does not lay out, and read as free values. -/
def norRead (s : State) (a n : Nat) : List Byte × State :=
  let (bs, s') := s.drawBytes n
  (((List.range n).zip bs).map fun p => (s.norByte (a + p.1)).getD p.2, s')

/-- What the bench reads through a pilot (R363, R364, Table 9-10); a pilot's own registers and memory read as free values. -/
def benchRead (s : State) (a : BenchAsset) : State :=
  match a with
  | .pilot => (let (bs, s) := s.drawBytes 8; s.emit (.bench bs))
  | .certificates => s.emit (.bench s.slotChain)
  | .measurements => s.emit (.bench (s.measOf ((List.range 12).map (· + 1))))
  | .fuses => s.emit (.bench (Bytes.ofNat 4 s.sec.rollFuses ++ Bytes.ofNat 4 s.sec.epochFuses ++ Bytes.ofNat 1 s.sec.revoked.toNat))
  | .ownership => s.emit (.bench (Bytes.ofNat 1 s.sec.mode.code ++ s.sec.ownerKey ++ Bytes.ofNat 8 s.sec.ownerSeq.toNat))
  | .eventLog => s.emit (.bench (s.log.held.flatMap Event.bytes))
  | .telemetry p => s.emit (.bench (s.pageBytes p.toNat (2 ^ 32)))
  | .nor a n => (let (bs, s) := s.norRead a.toNat n.toNat; s.emit (.bench bs))

/-- JTAG_ACCESS (R363): a one-bit BYPASS register for what is not granted. -/
def jtag (s : State) (op : JtagOp) : State :=
  if !s.runs then s
  else
    match op with
    | .shift b => (s.emit (.jtag (BitVec.ofNat 64 (Bytes.ofBool s.sec.bypass)))).modSec fun c => { c with bypass := b }
    | .meshRead a => if s.jtagGrants 1 then s.meshRead a.toNat else s
    | .meshWrite a v => if s.jtagGrants 1 then s.meshWrite a.toNat v else s
    | .pilotHalt p => if s.jtagGrants 0 then s.modPilot p.val fun q => { q with halted := true } else s
    | .pilotStep _ => s
    | .pilotInspect _ a => if s.jtagGrants 0 then s.benchRead a else s

/-! ## Configuration requests (R368, Table 7-1) -/

/-- A dword of configuration space with some of its bits fixed. -/
def withBits (d : BitVec 32) (mask value : Nat) : BitVec 32 := (d &&& ~~~(BitVec.ofNat 32 mask)) ||| BitVec.ofNat 32 value

/-- First dword of an extended capability: its identifier and the offset of the next. -/
def extHeader (d : BitVec 32) (id next : Nat) : BitVec 32 := withBits d 0xFFF0FFFF (id + next % 4096 * 2 ^ 20)

/-- Capabilities of the function (R279, Table 7-1), as the PCIe specification lays them out (PRESUMED, log 34): Power Management without D1
and D2, MSI-X of 64 vectors, PCI Express with FLIT mode, a payload of 512 bytes, function-level reset, 128 GT/s by 8 and 10-bit tags; then
AER, the serial number, DOE, and IDE with one link and one selective stream. The two lists end there, so MSI, SR-IOV, ATS, PRI, PASID and
resizable BARs are absent. None where no capability has the dword. -/
def capDword (s : State) (off : Nat) (d : BitVec 32) : Option (BitVec 32) :=
  if off = Config.pmCap then some (withBits d 0x0600FFFF (0x01 + Config.msixCap % 256 * 2 ^ 8))
  else if off = Config.pmCap + 4 then some (withBits d 0x3 (if s.bar.d3 then 3 else 0))
  else if off = Config.msixCap then
    some (withBits d 0xFFFFFFFF (0x11 + Config.expressCap % 256 * 2 ^ 8 +
      (63 + 2 ^ 14 * Bytes.ofBool s.bar.msixAll + 2 ^ 15 * Bytes.ofBool s.bar.msixOn) * 2 ^ 16))
  else if off = Config.msixCap + 4 then some 0x8000
  else if off = Config.msixCap + 8 then some 0x9000
  else if off = Config.expressCap then some (withBits d 0x80F0FFFF 0x80000010)
  else if off = Config.expressCap + 4 then some (withBits d 0x10000007 0x10000002)
  else if off = Config.expressCap + 12 then some (withBits d 0x3FF 0x087)
  else if off = Config.expressCap + 0x24 then some (withBits d 0x30000 0x30000)
  else if off = 0x100 then some (extHeader d 0x0001 Config.serialCap)
  else if off = Config.serialCap then some (extHeader d 0x0003 Config.doeCap)
  else if off = Config.serialCap + 4 then some (Config.serial.setWidth 32)
  else if off = Config.serialCap + 8 then some ((Config.serial >>> 32).setWidth 32)
  else if off = Config.doeCap then some (extHeader d 0x002E Config.ideCap)
  else if off = Config.ideCap then some (extHeader d 0x0030 0)
  else if off = Config.ideCap + 4 then some (withBits d 0xFF0003 0x3)
  else none

/-- A dword of configuration space (R279). What Table 7-1 gives stands where the PCIe specification places it (PRESUMED, log 34): identity
and class, a single function of header type 0, BAR0 of 64 KiB, 64-bit and not prefetchable, no other BAR, and the list of capabilities. The
rest is Config's. -/
def cfgRead (s : State) (off : Nat) : BitVec 32 :=
  let w := s.bar.cfg.get 0 off
  let d := Config.cfgDword off w
  if off = 0x000 then BitVec.ofNat 32 (Config.vendorId.toNat + 0x0C40 * 2 ^ 16)
  else if off = 0x004 then withBits d 0x100000 0x100000
  else if off = 0x008 then BitVec.ofNat 32 (Config.revision.toNat + 0x120000 * 2 ^ 8)
  else if off = 0x00C then withBits d 0xFF0000 0
  else if off = 0x010 then withBits w 0xFFFF 0x4
  else if off = 0x014 then w
  else if 0x018 ≤ off ∧ off < 0x028 then 0
  else if off = 0x034 then withBits d 0xFF (Config.pmCap % 256)
  else (s.capDword off d).getD d

/-- MSI-X Enable and Function Mask are written; vectors that become unmasked send their pending messages (R289). -/
def writeMsixControl (s : State) (v : BitVec 32) : State :=
  let s := s.modBar fun b => { b with msixOn := v.getLsbD 31, msixAll := v.getLsbD 30 }
  (List.range 64).foldl
    (fun s i =>
      if s.bar.msixOn && !s.bar.masked i && s.bar.msixPend.getLsbD i then
        (s.modBar fun b => { b with msixPend := b.msixPend &&& ~~~(1#64 <<< i) }).sendMsix (BitVec.ofNat 6 i)
      else s)
    s

/-- A configuration request: Request Retry Status until step 6 records the loop's lock, then served. -/
def configure (s : State) (r : ConfigReq) : State :=
  if !(s.power.rails && s.bar.linkUp) then s
  else if !s.bar.cfgServed then s.emit (.config false 0)
  else
    match r with
    | .read off => s.emit (.config true (s.cfgRead (off.toNat / 4 * 4)))
    | .write off v =>
      let o := off.toNat / 4 * 4
      let s := s.modBar fun b => { b with cfg := b.cfg.set 0 o v }
      let s := if o = Config.msixCap then s.writeMsixControl v
        else if o = Config.pmCap + 4 then
          (if v &&& 3 = 3 then s.modBar fun b => { b with d3 := true }
           else if v &&& 3 = 0 then s.modBar fun b => { b with d3 := false } else s)
        else s
      s.emit (.config true 0)
    | .power d3 => (s.modBar fun b => { b with d3 := d3 }).emit (.config true 0)

/-- DOE Discovery (R279, R409): the protocols of Table 7-1 under the PCI-SIG vendor identifier, index by index. -/
def doeDiscover (s : State) (index : Nat) : State :=
  if !(s.power.rails && s.bar.linkUp && s.bar.cfgServed) then s
  else
    let s := s.pulse 0x110
    if index < 3 then s.emit (.doe 0x0001 (BitVec.ofNat 8 index) (BitVec.ofNat 8 ((index + 1) % 3))) else s.emit (.doe 0xFFFF 0 0)

end State

/-! ## Meanings -/

/-- REGISTER_WRITE (R8). -/
def execRegisterWrite (r : RegTarget) (value : BitVec 64) (s : State) : Host.Outcome State Fault Refusal :=
  .next (s.registerWrite r value)

/-- JTAG_ACCESS (R363). -/
def execJtagAccess (op : JtagOp) (s : State) : Host.Outcome State Fault Refusal := .next (s.jtag op)

/-- CONFIGURATION_REQUEST (R368). -/
def execConfigurationRequest (r : ConfigReq) (s : State) : Host.Outcome State Fault Refusal := .next (s.configure r)

/-- DOE_DISCOVERY (R279). -/
def execDoeDiscovery (index : BitVec 8) (s : State) : Host.Outcome State Fault Refusal := .next (s.doeDiscover index.toNat)

end Sys2Proof.Machine
end

