-- ==== Sys2Proof/Machine/Dispatch.lean ====
section
/-!
DEFINITION. The dispatch of a command to its meaning.
-/
namespace Sys2Proof.Machine

/-- The effect of a command on everything but the queue. -/
def exec (i : Instr) (s : State) : Host.Outcome State Fault Refusal :=
  match i with
  | .operationFetch c x => Sys2Proof.Machine.execOperationFetch c x s
  | .nop c => Sys2Proof.Machine.execNop c s
  | .endOp c => Sys2Proof.Machine.execEndOp c s
  | .sync c => Sys2Proof.Machine.execSync c s
  | .jump c => Sys2Proof.Machine.execJump c s
  | .phase c => Sys2Proof.Machine.execPhase c s
  | .wait c => Sys2Proof.Machine.execWait c s
  | .post c => Sys2Proof.Machine.execPost c s
  | .lds c => Sys2Proof.Machine.execLds c s
  | .accld c => Sys2Proof.Machine.execAccld c s
  | .anch c => Sys2Proof.Machine.execAnch c s
  | .pass c => Sys2Proof.Machine.execPass c s
  | .drain c => Sys2Proof.Machine.execDrain c s
  | .quant c => Sys2Proof.Machine.execQuant c s
  | .move c => Sys2Proof.Machine.execMove c s
  | .ldsLastRow c x => Sys2Proof.Machine.execLdsLastRow c x s
  | .accldLastLine c x => Sys2Proof.Machine.execAccldLastLine c x s
  | .anchPlaced c x => Sys2Proof.Machine.execAnchPlaced c x s
  | .contributionLands c => Sys2Proof.Machine.execContributionLands c s
  | .drainCapture c => Sys2Proof.Machine.execDrainCapture c s
  | .drainStreamDone c => Sys2Proof.Machine.execDrainStreamDone c s
  | .quantDone c x => Sys2Proof.Machine.execQuantDone c x s
  | .moveVisible c n x => Sys2Proof.Machine.execMoveVisible c n x s
  | .meshRefusal c n => Sys2Proof.Machine.execMeshRefusal c n s
  | .levelBoundary c => Sys2Proof.Machine.execLevelBoundary c s
  | .stepGrant c x => Sys2Proof.Machine.execStepGrant c x s
  | .waitSatisfied c => Sys2Proof.Machine.execWaitSatisfied c s
  | .staggerRelease c => Sys2Proof.Machine.execStaggerRelease c s
  | .waitTimeout c => Sys2Proof.Machine.execWaitTimeout c s
  | .haltReq c => Sys2Proof.Machine.execHaltReq c s
  | .clear c => Sys2Proof.Machine.execClear c s
  | .start c => Sys2Proof.Machine.execStart c s
  | .coreBusyWrap c => Sys2Proof.Machine.execCoreBusyWrap c s
  | .spuSubmit m addr => Sys2Proof.Machine.execSpuSubmit m addr s
  | .scalePassExecute m x => Sys2Proof.Machine.execScalePassExecute m x s
  | .scalePassDone m => Sys2Proof.Machine.execScalePassDone m s
  | .stepSubmit t x => Sys2Proof.Machine.execStepSubmit t x s
  | .sealComplete job => Sys2Proof.Machine.execSealComplete job s
  | .go m => Sys2Proof.Machine.execGo m s
  | .abort m => Sys2Proof.Machine.execAbort m s
  | .sepSegment m x => Sys2Proof.Machine.execSepSegment m x s
  | .gradientPark m coll seg => Sys2Proof.Machine.execGradientPark m coll seg s
  | .stepCommit job => Sys2Proof.Machine.execStepCommit job s
  | .digestExchangeDone job peers => Sys2Proof.Machine.execDigestExchangeDone job peers s
  | .patrolScrub m r => Sys2Proof.Machine.execPatrolScrub m r s
  | .scrubOverdue m => Sys2Proof.Machine.execScrubOverdue m s
  | .parityRebuild oid unit rebuilt => Sys2Proof.Machine.execParityRebuild oid unit rebuilt s
  | .flashBackgroundWork f w => Sys2Proof.Machine.execFlashBackgroundWork f w s
  | .flashWriteResume f => Sys2Proof.Machine.execFlashWriteResume f s
  | .objGenerationCommit oid x => Sys2Proof.Machine.execObjGenerationCommit oid x s
  | .deferredTakesEffect oid x => Sys2Proof.Machine.execDeferredTakesEffect oid x s
  | .almanacPlace job => Sys2Proof.Machine.execAlmanacPlace job s
  | .almSlotStep j step => Sys2Proof.Machine.execAlmSlotStep j step s
  | .almanacLaunch id => Sys2Proof.Machine.execAlmanacLaunch id s
  | .almanacDelivery id x => Sys2Proof.Machine.execAlmanacDelivery id x s
  | .almCancelStep step => Sys2Proof.Machine.execAlmCancelStep step s
  | .cancelComplete => Sys2Proof.Machine.execCancelComplete s
  | .almUsedRead => Sys2Proof.Machine.execAlmUsedRead s
  | .sepParkPeakRead m => Sys2Proof.Machine.execSepParkPeakRead m s
  | .optCtrlEn e => Sys2Proof.Machine.execOptCtrlEn e s
  | .peerProbeSeen p => Sys2Proof.Machine.execPeerProbeSeen p s
  | .trainDone p usable => Sys2Proof.Machine.execTrainDone p usable s
  | .attestTimeout p => Sys2Proof.Machine.execAttestTimeout p s
  | .hello p m => Sys2Proof.Machine.execHello p m s
  | .certs p m => Sys2Proof.Machine.execCerts p m s
  | .evidence p m => Sys2Proof.Machine.execEvidence p m s
  | .keyx p m => Sys2Proof.Machine.execKeyx p m s
  | .finish p macOk => Sys2Proof.Machine.execFinish p macOk s
  | .lossOfLight p => Sys2Proof.Machine.execLossOfLight p s
  | .retrainTimeout p => Sys2Proof.Machine.execRetrainTimeout p s
  | .elsChange present closed works => Sys2Proof.Machine.execElsChange present closed works s
  | .ack p f => Sys2Proof.Machine.execAck p f s
  | .nak p f => Sys2Proof.Machine.execNak p f s
  | .credit p f => Sys2Proof.Machine.execCredit p f s
  | .keyUpdate p f => Sys2Proof.Machine.execKeyUpdate p f s
  | .openMsg p f => Sys2Proof.Machine.execOpenMsg p f s
  | .openAck p f => Sys2Proof.Machine.execOpenAck p f s
  | .stale p f => Sys2Proof.Machine.execStale p f s
  | .close p f => Sys2Proof.Machine.execClose p f s
  | .removed p f => Sys2Proof.Machine.execRemoved p f s
  | .qcredit p f => Sys2Proof.Machine.execQcredit p f s
  | .data p f => Sys2Proof.Machine.execData p f s
  | .postFrame p f => Sys2Proof.Machine.execPostFrame p f s
  | .coll p f => Sys2Proof.Machine.execColl p f s
  | .sealFrame p f => Sys2Proof.Machine.execSealFrame p f s
  | .mcast p f => Sys2Proof.Machine.execMcast p f s
  | .retryTimeout p => Sys2Proof.Machine.execRetryTimeout p s
  | .nakRepeat p => Sys2Proof.Machine.execNakRepeat p s
  | .ackTimer p => Sys2Proof.Machine.execAckTimer p s
  | .keyUpdateDue p => Sys2Proof.Machine.execKeyUpdateDue p s
  | .collective t x => Sys2Proof.Machine.execCollective t x s
  | .collectiveDone id => Sys2Proof.Machine.execCollectiveDone id s
  | .collTimeout id => Sys2Proof.Machine.execCollTimeout id s
  | .reshard t x => Sys2Proof.Machine.execReshard t x s
  | .reshardAbandon t x => Sys2Proof.Machine.execReshardAbandon t x s
  | .mcHoldExpire stream p => Sys2Proof.Machine.execMcHoldExpire stream p s
  | .mcastRejoin t => Sys2Proof.Machine.execMcastRejoin t s
  | .queueEntrySend qid => Sys2Proof.Machine.execQueueEntrySend qid s
  | .portTakeOut t => Sys2Proof.Machine.execPortTakeOut t s
  | .portRetrain t => Sys2Proof.Machine.execPortRetrain t s
  | .skimQuery t x => Sys2Proof.Machine.execSkimQuery t x s
  | .skmSubmit k addr => Sys2Proof.Machine.execSkmSubmit k addr s
  | .skimScanStart k => Sys2Proof.Machine.execSkimScanStart k s
  | .skimScanDone k x => Sys2Proof.Machine.execSkimScanDone k x s
  | .skimMergeDone query => Sys2Proof.Machine.execSkimMergeDone query s
  | .serveSubmit t x => Sys2Proof.Machine.execServeSubmit t x s
  | .serveOpStart g => Sys2Proof.Machine.execServeOpStart g s
  | .serveOpDone g => Sys2Proof.Machine.execServeOpDone g s
  | .deadlineOverdue g op => Sys2Proof.Machine.execDeadlineOverdue g op s
  | .groupCreate t => Sys2Proof.Machine.execGroupCreate t s
  | .groupDestroy t => Sys2Proof.Machine.execGroupDestroy t s
  | .cancel t => Sys2Proof.Machine.execCancel t s
  | .qCtrlEnable q => Sys2Proof.Machine.execQCtrlEnable q s
  | .qCtrlDisable q => Sys2Proof.Machine.execQCtrlDisable q s
  | .qSqTailDb q tail => Sys2Proof.Machine.execQSqTailDb q tail s
  | .qCqHeadDb q head => Sys2Proof.Machine.execQCqHeadDb q head s
  | .commandFetch q x => Sys2Proof.Machine.execCommandFetch q x s
  | .cqRecordPost q => Sys2Proof.Machine.execCqRecordPost q s
  | .imodTimer q => Sys2Proof.Machine.execImodTimer q s
  | .ideWaitTimeout q t => Sys2Proof.Machine.execIdeWaitTimeout q t s
  | .identify t x => Sys2Proof.Machine.execIdentify t x s
  | .telemetry t x => Sys2Proof.Machine.execTelemetry t x s
  | .logRead t x => Sys2Proof.Machine.execLogRead t x s
  | .logClear t p => Sys2Proof.Machine.execLogClear t p s
  | .headings t x => Sys2Proof.Machine.execHeadings t x s
  | .resetDevice t => Sys2Proof.Machine.execResetDevice t s
  | .objCreate t => Sys2Proof.Machine.execObjCreate t s
  | .objWrite t x => Sys2Proof.Machine.execObjWrite t x s
  | .objRead t x => Sys2Proof.Machine.execObjRead t x s
  | .objDelete t => Sys2Proof.Machine.execObjDelete t s
  | .objPromote t x => Sys2Proof.Machine.execObjPromote t x s
  | .objEvict t => Sys2Proof.Machine.execObjEvict t s
  | .objWithdraw t => Sys2Proof.Machine.execObjWithdraw t s
  | .jobLoad t x => Sys2Proof.Machine.execJobLoad t x s
  | .jobRegion t => Sys2Proof.Machine.execJobRegion t s
  | .jobStop t => Sys2Proof.Machine.execJobStop t s
  | .jobUnload t => Sys2Proof.Machine.execJobUnload t s
  | .fence t => Sys2Proof.Machine.execFence t s
  | .dma t x => Sys2Proof.Machine.execDma t x s
  | .fix t peers x => Sys2Proof.Machine.execFix t peers x s
  | .restore t x => Sys2Proof.Machine.execRestore t x s
  | .exportState t x => Sys2Proof.Machine.execExportState t x s
  | .claim t x => Sys2Proof.Machine.execClaim t x s
  | .transfer t x => Sys2Proof.Machine.execTransfer t x s
  | .release t x => Sys2Proof.Machine.execRelease t x s
  | .policy t x => Sys2Proof.Machine.execPolicy t x s
  | .debugUnlock t x => Sys2Proof.Machine.execDebugUnlock t x s
  | .debugLock t x => Sys2Proof.Machine.execDebugLock t x s
  | .getVersion ch => Sys2Proof.Machine.execGetVersion ch s
  | .getCapabilities ch => Sys2Proof.Machine.execGetCapabilities ch s
  | .negotiateAlgorithms ch offersSuite => Sys2Proof.Machine.execNegotiateAlgorithms ch offersSuite s
  | .getDigests ch => Sys2Proof.Machine.execGetDigests ch s
  | .getCertificate ch slot => Sys2Proof.Machine.execGetCertificate ch slot s
  | .challenge ch slot nonce => Sys2Proof.Machine.execChallenge ch slot nonce s
  | .getMeasurements ch index signed nonce => Sys2Proof.Machine.execGetMeasurements ch index signed nonce s
  | .keyExchange ch reqId => Sys2Proof.Machine.execKeyExchange ch reqId s
  | .spdmFinish ch reqId macOk => Sys2Proof.Machine.execSpdmFinish ch reqId macOk s
  | .heartbeat ch reqId => Sys2Proof.Machine.execHeartbeat ch reqId s
  | .spdmKeyUpdate ch reqId => Sys2Proof.Machine.execSpdmKeyUpdate ch reqId s
  | .endSession ch reqId => Sys2Proof.Machine.execEndSession ch reqId s
  | .vendorDefinedRequest ch reqId km => Sys2Proof.Machine.execVendorDefinedRequest ch reqId km s
  | .spdmUnsupportedRequest ch code => Sys2Proof.Machine.execSpdmUnsupportedRequest ch code s
  | .getState => Sys2Proof.Machine.execGetState s
  | .getPower => Sys2Proof.Machine.execGetPower s
  | .getLogbook start count => Sys2Proof.Machine.execGetLogbook start count s
  | .ownerBlock block => Sys2Proof.Machine.execOwnerBlock block s
  | .pldmFwUpdate slot img => Sys2Proof.Machine.execPldmFwUpdate slot img s
  | .startupAttempt step u r => Sys2Proof.Machine.execStartupAttempt step u r s
  | .startupWatchdog u firmwareStopped => Sys2Proof.Machine.execStartupWatchdog u firmwareStopped s
  | .watchdogHalf => Sys2Proof.Machine.execWatchdogHalf s
  | .pcieLinkChange up width rate => Sys2Proof.Machine.execPcieLinkChange up width rate s
  | .functionLevelReset => Sys2Proof.Machine.execFunctionLevelReset s
  | .deviceFatal code => Sys2Proof.Machine.execDeviceFatal code s
  | .p40vApplied millivolts => Sys2Proof.Machine.execP40vApplied millivolts s
  | .hotSwapTurnOff => Sys2Proof.Machine.execHotSwapTurnOff s
  | .undervoltageAlert => Sys2Proof.Machine.execUndervoltageAlert s
  | .undervoltageClear => Sys2Proof.Machine.execUndervoltageClear s
  | .powerFail => Sys2Proof.Machine.execPowerFail s
  | .wpAssert => Sys2Proof.Machine.execWpAssert s
  | .standbyRailOff => Sys2Proof.Machine.execStandbyRailOff s
  | .perstAssert => Sys2Proof.Machine.execPerstAssert s
  | .perstDeassert => Sys2Proof.Machine.execPerstDeassert s
  | .thermTrip => Sys2Proof.Machine.execThermTrip s
  | .pwrAlertAssert => Sys2Proof.Machine.execPwrAlertAssert s
  | .pwrAlertDeassert => Sys2Proof.Machine.execPwrAlertDeassert s
  | .alertRecovery => Sys2Proof.Machine.execAlertRecovery s
  | .helmSample r => Sys2Proof.Machine.execHelmSample r s
  | .helmDecision => Sys2Proof.Machine.execHelmDecision s
  | .helmWindow => Sys2Proof.Machine.execHelmWindow s
  | .thermalCheck t => Sys2Proof.Machine.execThermalCheck t s
  | .droop d => Sys2Proof.Machine.execDroop d s
  | .droopEnd d => Sys2Proof.Machine.execDroopEnd d s
  | .voltageSlewDone d => Sys2Proof.Machine.execVoltageSlewDone d s
  | .relockDone d => Sys2Proof.Machine.execRelockDone d s
  | .icClaim p => Sys2Proof.Machine.execIcClaim p s
  | .icComplete p source => Sys2Proof.Machine.execIcComplete p source s
  | .icSwi pilots => Sys2Proof.Machine.execIcSwi pilots s
  | .moderationExpire p => Sys2Proof.Machine.execModerationExpire p s
  | .waitForInterrupt p => Sys2Proof.Machine.execWaitForInterrupt p s
  | .pilotWake p => Sys2Proof.Machine.execPilotWake p s
  | .deviceTimeCompare k => Sys2Proof.Machine.execDeviceTimeCompare k s
  | .telemetrySample taken => Sys2Proof.Machine.execTelemetrySample taken s
  | .registerWrite r value => Sys2Proof.Machine.execRegisterWrite r value s
  | .remotePostDelivery n => Sys2Proof.Machine.execRemotePostDelivery n s
  | .retrainComplete p usable => Sys2Proof.Machine.execRetrainComplete p usable s
  | .refreshAndCalibration m channel => Sys2Proof.Machine.execRefreshAndCalibration m channel s
  | .wavelengthTuning e => Sys2Proof.Machine.execWavelengthTuning e s
  | .jtagAccess op => Sys2Proof.Machine.execJtagAccess op s
  | .configurationRequest r => Sys2Proof.Machine.execConfigurationRequest r s
  | .doeDiscovery index => Sys2Proof.Machine.execDoeDiscovery index s
  | .dynamicAddressAssignment i3c addr => Sys2Proof.Machine.execDynamicAddressAssignment i3c addr s
  | .trngHealthFailure => Sys2Proof.Machine.execTrngHealthFailure s
  | .fatalRecoveryReset => Sys2Proof.Machine.execFatalRecoveryReset s

end Sys2Proof.Machine
end

