-- ==== Sys2Proof/Machine/Tick.lean ====
section
/-!
DEFINITION. What a step does when no command waits: one period of 1/1.4 GHz passes. Device time and the clock domains of Table 11-1
advance: the mesh domain every second period, the control domain every fourth, and each compute die's arith domain at its operating
point (R388 to R390, R401).
-/
namespace Sys2Proof.Machine.State

/-! ## The arith domain of a die -/

/-- Arith frequency of a die, in MHz (Table 11-2, R390, R401): 350 from the fabric loop, halved in a droop response on its own
loop. -/
def arithMHz (d : ComputeDie) : Nat := if d.fabricClk then 350 else if d.droopOn then pointMHz d.point.toNat / 2 else pointMHz d.point.toNat

/-- Class of a semaphore (R190): a reserved code is charged as DEPENDENCY. -/
def semClass (g : CoreRegs) (sem : Nat) : Nat :=
  let q := Bytes.bits (g.classes.get 0 (sem / 16)).toNat (4 * (sem % 16)) 4
  if q ≤ 8 then q else 0

/-- The incomplete Almanac entry of the lowest SEQ that notifies a core's semaphore (R189), and whether it has launched. -/
def notifier (s : State) (c sem : Nat) : Option (AlmEntry × Bool) :=
  let hit (e : AlmEntry) : Bool := e.notify == 1 && decide (e.fullCore.toNat = c ∧ e.fullSem.toNat = sem)
  let table := (s.alm.table.filter fun p => hit p.e).map fun p => (p.e, p.launched)
  let outside := (s.jobs.flatMap (·.toPlace) ++ s.groups.flatMap (·.toPlace)).filter hit
  (table ++ outside.map fun e => (e, false)).foldl
    (fun b (p : AlmEntry × Bool) => match b with | some x => if p.1.seq < x.1.seq then some p else b | none => some p) none

/-- The causes that a launched entry may be charged to (Table 4-5): of its tier, or MESH once every read has left its source; which of
them holds the spec leaves to the memory system (R464). A read of a scratchpad has no cause but MESH, and FLASH_REBUILD needs a page
that is read by rebuild (R161). -/
def launchedCauses (s : State) (e : AlmEntry) : List Nat :=
  match s.tierOf e with
  | 0 => if (s.entrySlots e).any fun w => match w with | .dram _ => true | _ => false then [1, 4] else [4]
  | 1 =>
    let r := if e.isPromote then (0, match s.obj? e.src.toNat with | some o => o.len | none => 0) else (e.offset.toNat, e.len.toNat)
    if s.flashRebuilds e.src.toNat r.1 r.2 then [2, 3, 4] else [2, 4]
  | _ => [6, 4]

/-- The cause that an arith cycle of an unsatisfied WAIT is charged to (R189, R190). -/
def waitCause (s : State) (c sem : Nat) : Nat × State :=
  match s.notifier c sem with
  | some (e, true) =>
    let (n, s) := s.drawNat
    let cs := s.launchedCauses e
    (cs.getD (n % cs.length) 4, s)
  | some (_, false) => (7, s)
  | none => (semClass (s.core c).regs sem, s)

/-- The cause that this arith cycle of a core is charged to, if its issue is held (R189): an unsatisfied WAIT, or a MOVE that finds the
mesh queue full. -/
def stallCause (s : State) (c : Nat) : Option Nat × State :=
  let k := s.core c
  if k.regs.mode ≠ .run then (none, s)
  else
    match k.pipe.held, k.pipe.fetch with
    | some ⟨_, _, .wait _ sem count, _, none⟩, _ =>
      if (k.sem sem).toNat < count.toNat then
        let (q, s) := s.waitCause c sem.toNat
        (some q, s)
      else (none, s)
    | none, f :: _ =>
      match f.bad, decodeOp f.word with
      | none, .ok (.move o) => (if k.room (.move o) then none else some 4, s)
      | _, _ => (none, s)
    | _, _ => (none, s)

/-- One arith cycle of an operation held at issue: an unsatisfied WAIT waits on, a stagger hold runs down (R42, R49). -/
def heldCycle (k : Core) : Core :=
  match k.pipe.held with
  | some h =>
    match h.op, h.stagger with
    | _, some n => k.modPipe fun p => { p with held := some { h with stagger := some (n - 1) } }
    | .wait _ sem count, none =>
      if (k.sem sem).toNat < count.toNat then k.modPipe fun p => { p with held := some { h with waited := h.waited + 1 } } else k
    | _, none => k
  | none => k

/-- One arith cycle of the activity ramp (R39, R395): the credit rises by the level, which a lowered L_max takes down. -/
def rampCycle (top : Nat) (k : Core) : Core :=
  let ready := stepReady k
  k.modArr fun a =>
    let level := if a.replay.isSome then a.level else min a.level top
    { a with
      level := level
      credit := if level = 0 then 0 else min 15 (a.credit + min level top)
      idleFor := if ready then 0 else min 64 (a.idleFor + 1)
      cycle4 := min 4 (a.cycle4 + 1) }

/-- CORE_BUSY and the stall counter of this cycle (R42, R189, R424). -/
def countCycle (stall : Option Nat) (k : Core) : Core :=
  k.modRegs fun r =>
    let r := match stall with | some q => { r with stall := r.stall.set 0 q (r.stall.get 0 q + 1) } | none => r
    if r.mode = .run then
      (if r.busy = BitVec.allOnes 48 then { r with busy := 0, wrapped := true, wrapCnt := Word.satInc r.wrapCnt } else { r with busy := r.busy + 1 })
    else r

/-- A new arith cycle: no fault has arisen in it yet (R461). -/
def newCycle (k : Core) : Core := { k.modPipe fun p => { p with faultNow := false } with was := none }

/-- One arith cycle of a core; a cycle in RUN counts for its phase on its die (R398). -/
def coreCycle (s : State) (c : Nat) : State :=
  let (stall, s) := s.stallCause c
  let top := (s.die (c / 8)).lmax
  let s := if (s.core c).regs.mode = .run ∧ (s.core c).regs.busy = BitVec.allOnes 48 then s.occur (regKey 0 c 0x20) 15 else s
  let s := (s.modCore c fun k => countCycle stall (rampCycle top (heldCycle (unitCycle (newCycle k))))).moveCycle c
  let g := (s.core c).regs
  if g.mode = .run then
    s.modDie (c / 8) fun d => { d with runCycles := d.runCycles.set 0 g.phase.toNat (d.runCycles.get 0 g.phase.toNat + 1) }
  else s

/-- A new cycle of the clock domain whose W1C registers `mine` names: what hardware set before it may be cleared (R8). -/
def oldSets (s : State) (mine : Nat → Bool) : State := { s with fresh := s.fresh.filter fun p => !mine p.1 }

/-- A period of 1/1.4 GHz on a die: its arith domain advances when its own period is over. -/
def dieCycle (s : State) (d : Nat) : State :=
  let x := s.die d
  if !x.inService then s
  else
    let acc := x.clkAcc + arithMHz x
    if acc < 1400 then s.modDie d fun c => { c with clkAcc := acc }
    else
      let s := s.oldSets fun key => decide (key / 0x8000 = d ∨ key / 0x1000 = 0x100 + d)
      (List.range 8).foldl (fun s i => s.coreCycle (8 * d + i)) (s.modDie d fun c => { c with clkAcc := acc - 1400 })

/-! ## The mesh domain -/

/-- A job slot's clocks (R178, Table 12-8: they saturate). DESIGN CHOICE (log 97): those of a slot without a valid job stand still. -/
def slotCycle (x : AlmSlot) : AlmSlot :=
  if x.valid then { x with clk := Word.satInc x.clk, pclk := if x.pvalid then Word.satInc x.pclk else x.pclk } else x

/-- Peak credits in use of the queues within this module (R197): what P_CREDIT lacks of DEPTH (R249). -/
def queuePeaks (s : State) : State :=
  if s.fab.queues.isEmpty then s
  else s.modFab fun b => { b with queues := b.queues.map fun q =>
    let r := q.rec_
    if r.pNode = r.cNode then { q with peakUsed := max q.peakUsed (r.depth - ((s.core r.pCore.toNat).sem r.pCredit).toNat) } else q }

/-- One mesh cycle: step clocks, the gates that the Almanac takes (R181), queues in use (R197), producers refused parking room (R136), flash
writes that wait (R163). DESIGN CHOICE (log 2): the cycle of R8 for the Almanac's registers, ALM_STATUS among them, is a mesh cycle. -/
def meshCycle (s : State) : State :=
  let refused := [0, 1, 2, 3].filter s.parkRefused
  let s := s.oldSets fun key => decide (regKey 3 0 0 ≤ key ∧ key < barKey 0)
  let s := queuePeaks <| State.gatesNow { s with alm := { s.alm with slots := s.alm.slots.map slotCycle } }
  { s with
    seps := s.seps.mapIdx fun m u => if refused.contains m then { u with parkStall := u.parkStall + 1 } else u
    flashes := s.flashes.map fun f => if f.waiting then { f with wstall := f.wstall + 1 } else f }

/-! ## The control domain -/

/-- The end of a control cycle: the interrupt controller serves the claims that reached it (R413) and samples (R411), the log has moved its
input queue (R421), evictions of the cycle are settled (R168), and an ownership change whose wait is over is made (R345). -/
def controlCycle (s : State) : State :=
  let s := ((s.oldSets fun key => decide (barKey 0 ≤ key)).serveClaims).icEdge
  State.changesMove { s with evicts := [], log := { s.log with queued := 0 } }

/-! ## The tick -/

/-- One period of 1/1.4 GHz: device time runs while the standby rail is up (R384), the clock domains while the package rails are. -/
def tick (s : State) : State :=
  if !s.power.standby then s
  else
    let s := { s with devTime := s.devTime + 10, ticks := s.ticks + 1 }
    if !s.power.rails then s
    else
      let s := (List.range 22).foldl dieCycle s
      let s := if s.ticks % 2 = 0 then s.meshCycle else s
      if s.ticks % 4 = 0 then s.controlCycle else s

end Sys2Proof.Machine.State
end

