-- ==== Sys2Proof/Safety.lean ====
section
/-!
DEFINITION. The terms in which statements about the machine are written: what a command may change, when a core can issue an
operation, and the invariants.
-/
namespace Sys2Proof.Machine

/-- A step ends in a next state that satisfies `p`. -/
def StepsTo (s : State) (p : State → Prop) : Prop := ∃ t, step s = .next t ∧ p t

/-- A command ends in a next state that satisfies `p`. -/
def Completes (i : Instr) (s : State) (p : State → Prop) : Prop := ∃ t, exec i s = .next t ∧ p t

/-! ## Frames -/

/-- Nothing but core `c` differs between `s` and `t`. -/
def OnlyCore (c : Nat) (s t : State) : Prop := t = { s with cores := t.cores } ∧ ∀ d, d ≠ c → t.core d = s.core d

/-! ## The operation stream -/

/-- The operation at the head of a fetch buffer, if there is one, has met no fault and decodes (R19, R50). -/
def headGood : List Fetched → Bool
  | [] => true
  | f :: _ => f.bad.isNone && (match decodeOp f.word with | .ok _ => true | .error _ => false)

/-- Core `c` is in RUN with nothing held and no fault waiting, and the operation it would issue next is `op`, whose fetch met no
fault, at operation address `pc`; `rest` waits behind it in the fetch buffer. -/
def CoreAt (s : State) (c : Nat) (op : CoreOp) (pc : Nat) (rest : List Fetched) : Prop :=
  (s.core c).regs.mode = .run ∧ (s.core c).pipe.held = none ∧ (s.core c).pipe.faulting = none ∧
  ∃ f, (s.core c).pipe.fetch = f :: rest ∧ f.addr = pc ∧ f.bad = none ∧ decodeOp f.word = .ok op

/-- Core `c` would issue `op` next, its unit has room for it and the checks of R461 find nothing. -/
def CoreIssues (s : State) (c : Nat) (op : CoreOp) (pc : Nat) (rest : List Fetched) : Prop :=
  CoreAt s c op pc rest ∧ (s.core c).room op = true ∧ (s.core c).issueFault op = none

/-- A core whose next operation has issued: `rest` is left in the fetch buffer, and one more place in issue order is taken. -/
def Core.took (k : Core) (rest : List Fetched) : Core :=
  { k with pipe := { k.pipe with fetch := rest, issued := k.pipe.issued + 1 } }

/-- The sequencer operation of core `k` that is held at issue. -/
def Core.holds (k : Core) (h : Held) : Core := { k with pipe := { k.pipe with held := some h } }

/-- Nothing is held at core `k`'s issue. -/
def Core.holdsNone (k : Core) : Core := { k with pipe := { k.pipe with held := none } }

/-- No line of `ls` of core `k`'s scratchpad is poisoned (R19). -/
def Core.cleanLines (k : Core) (ls : List Nat) : Prop := ∀ l ∈ ls, k.scratch.poison.get false (64 * l) = false

/-- Every operation of core `c` that has issued has retired or finished its own work, and no POST of it is on its way (Table 1-4,
the interlock of POST, SYNC, END and PHASE). -/
def CoreQuiet (s : State) (c : Nat) : Prop := (s.core c).quiet = true ∧ s.postOut c = false

/-! ## Commands of the host -/

/-- The command that holds tag `t` is `f` of queue `q`, of code `opc`, and nothing keeps it from starting (R312). -/
def CommandAt (s : State) (t : Tag) (opc q : Nat) (f : Flight) : Prop :=
  s.flightOf t = some (q, f) ∧ f.opc = opc ∧ s.mayStart q f true = true

/-- `i`, the start of command `f` of queue `q`, completes it from state `v`, in which its effect stands: with this status, detail
and results, and its stream goes on (R311). -/
def AnswersFrom (i : Instr) (s : State) (q : Nat) (f : Flight) (v : State) (status : BitVec 8) (detail : BitVec 16)
    (r0 : BitVec 32) (r1 : BitVec 64) : Prop :=
  exec i s = .next ((v.finish q f status detail r0 r1).stream q)

/-- The record of a command that completes in state `v` (Table 7-6). -/
def recordOf (v : State) (f : Flight) (status : BitVec 8) (detail : BitVec 16) (r0 : BitVec 32) (r1 : BitVec 64) : Record :=
  { n := f.n, fence := f.opc == 0x25, cid := f.cid, status := status, detail := detail, tag := f.tag, r0 := r0, r1 := r1,
    time := v.now, irq := f.irq, held := false, fix := if f.opc == 0x2A then some f.job else none }

/-! ## Places in memory -/

/-- A place in DRAM, in a scratchpad or in host memory. -/
def Place.isMem : Place → Bool
  | .dram _ _ _ | .scratch _ _ | .window _ _ => true
  | .regs _ | .unmapped => false

/-- The address of a place within its memory: of the allocating view, of a scratchpad, of the host under these regions. -/
def Place.base (rs : Tbl Region) : Place → Nat
  | .dram m o _ => m * dieSpan + o
  | .scratch _ o => o
  | .window r o => (rs.get Region.absent r).hbase.toNat + o
  | .regs o => o
  | .unmapped => 0

/-- The cell `j` bytes after a place: its byte, and whether it reads poisoned. -/
def State.placeCell (s : State) (rs : Tbl Region) (p : Place) (j : Nat) : Cell :=
  let a := p.base rs
  match p with
  | .dram _ _ _ =>
    let g := (s.memDie (a / dieSpan)).keyGen
    (s.dram.byteAt (Config.dramByte g) (a + j), s.dram.markAt (Config.dramPoison g) (a + j))
  | .scratch c _ => ((s.core c).scratch.byteAt (fun _ => 0) (a + j), (s.core c).scratch.markAt (fun _ => false) (a + j))
  | .window _ _ => (s.host.byteAt Config.hostByte (a + j), false)
  | _ => (0, false)

/-! ## Frames of a link -/

/-- A frame of this type that passes every check of R213 but that of its numbers at port `p`, which is UP: no uncorrectable codeword,
CRC and tag good, the protection that the session has, no reserved bit set. -/
def FrameClean (s : State) (p : Nat) (type : BitVec 4) (f : Frame) : Prop :=
  (s.port p).mode = .up ∧ f.type = type ∧ f.fecBad = false ∧ f.crcOk = true ∧ f.tagOk = true ∧ f.rsv = false ∧
  f.enc = !(match (s.port p).session with | some k => k.integrity | none => false)

/-- A frame of this type that passes every check of R213. -/
def FrameGood (s : State) (p : Nat) (type : BitVec 4) (f : Frame) : Prop :=
  FrameClean s p type f ∧ State.numberOk (s.port p) f = true

/-- What every good frame brings before its own effect: the codewords that the FEC has corrected, its acknowledgement, and the pool
credits it returns (R213, R214, R217). -/
def creditsIn (s : State) (p : Nat) (f : Frame) : State :=
  if f.streamCredit then (s.countFec p f).takeAck p f.ack
  else ((s.countFec p f).takeAck p f.ack).takeCredit p f.pool.toNat f.cred.toNat

/-- The state once a good unsequenced frame is taken: the next must carry a higher FRNO (R211). -/
def unseqIn (s : State) (p : Nat) (f : Frame) : State :=
  (creditsIn s p f).modPort p fun x => { x with rxUnseq := f.frno.toNat - 2 ^ 63 + 1 }

/-- A good sequenced frame of this type for this node: `u` is the state once it is accepted and has left the receive buffer. -/
def FrameNext (s : State) (p : Nat) (type : BitVec 4) (f : Frame) (u : State) : Prop :=
  FrameGood s p type f ∧ f.dst = u.node ∧ u = ((creditsIn s p f).acceptSeq p f).owe p f.poolNo f.blocks

/-! ## Invariants -/

/-- A scratchpad's lists are in their canonical form: addresses strictly rising, and no entry equal to what an unlisted address
reads as, a byte zero and a clean unit. -/
def Core.memWf (k : Core) : Bool := k.scratch.bytes.wf 0 && k.scratch.poison.wf false

/-- Every memory of the part is in its canonical form: the lists of DRAM and of host memory, whose unlisted bytes have no one value,
with addresses strictly rising, the scratchpads as `Core.memWf` says, the object map with identifiers strictly rising. -/
def State.memWf (s : State) : Bool :=
  s.dram.bytes.rising && s.dram.poison.rising && s.host.bytes.rising && s.host.poison.rising && s.objs.rising &&
  s.cores.toList.all Core.memWf

/-- VAL_LOG is set on a compute die only while the owner policy carries VAL_LOG_ALLOW, or the debug scope carries SEXTANT_VALUES, bit 4
(R359). -/
def State.valLogOk (s : State) : Bool :=
  s.sec.policy.valLogAllow || (s.sec.mode == .debug && s.sec.scope.getLsbD 4) || s.dies.toList.all fun d => !d.sxt.valLog

end Sys2Proof.Machine
end

