-- ==== Sys2Proof/Certificates/Slice0/Obligations.lean ====
section
/-!
DEFINITION. The statements for the provers.
-/
open Sys2Proof Sys2Proof.Machine

/-! ## Chapter 1: the Churn core -/

/-- R20, R22, R46, R53: NOP has no effect beyond its issue, JUMP redirects fetch, and a WAIT whose semaphore holds COUNT
subtracts it; with BAR = 1 and a stagger group other than 0 it is then held for 64 arith cycles a group (R42); a WAIT whose
semaphore holds less is held. `settle` is what follows in the same moment (see `CoreSettles`), `react`
what the firmware does about it.
R20, R26: END, SYNC, PHASE and POST leave the fetch buffer and are held at issue until their interlock clears; when every
earlier operation has finished they execute in the same moment (`CoreSettles`). -/
def Obligations.SequencerIssues : Prop :=
  (
    ∀ (c : CoreId) (s : State) (pc : Nat) (rest : List Fetched),
      (CoreIssues s c.val .nop pc rest →
        ∃ u : State, exec (.nop c) s = .next (s.react (u.settle c.val)) ∧ OnlyCore c.val s u ∧
          u.core c.val = (s.core c.val).took rest) ∧
      (∀ t : BitVec 19, CoreIssues s c.val (.jump t) pc rest →
        ∃ u : State, exec (.jump c) s = .next (s.react (u.settle c.val)) ∧ OnlyCore c.val s u ∧
          u.core c.val =
            { s.core c.val with pipe := { ((s.core c.val).took []).pipe with fetchPc := t.toNat } }) ∧
      (∀ (bar : Bool) (sem : BitVec 6) (n : BitVec 16), CoreIssues s c.val (.wait bar sem n) pc rest →
        ∃ u : State, exec (.wait c) s = .next (s.react (u.settle c.val)) ∧ OnlyCore c.val s u ∧
          u.core c.val =
            if n.toNat ≤ ((s.core c.val).sem sem).toNat then
              let k := ((s.core c.val).took rest).setSem sem ((s.core c.val).sem sem - n)
              if bar = true ∧ (s.core c.val).regs.stag ≠ 0 then
                k.holds { seq := (s.core c.val).pipe.issued, pc := pc, op := .wait bar sem n, waited := 0,
                          stagger := some (64 * (s.core c.val).regs.stag.toNat) }
              else k
            else ((s.core c.val).took rest).holds
              { seq := (s.core c.val).pipe.issued, pc := pc, op := .wait bar sem n, waited := 0, stagger := none })) ∧
  (
    ∀ (c : CoreId) (s : State) (pc : Nat) (rest : List Fetched) (i : Instr) (op : CoreOp),
      (i = .endOp c ∧ op = .endOp ∨ i = .sync c ∧ op = .sync ∨ (∃ p, i = .phase c ∧ op = .phase p) ∨
        ∃ t m n, i = .post c ∧ op = .post t m n) →
      CoreIssues s c.val op pc rest →
      ∃ u : State, exec i s = .next (s.react (u.settle c.val)) ∧ OnlyCore c.val s u ∧
        u.core c.val = ((s.core c.val).took rest).holds
          { seq := (s.core c.val).pipe.issued, pc := pc, op := op, waited := 0, stagger := none })

/-- Table 1-4, R22, R44, R46, R48: a held operation whose interlock has cleared executes when the core settles: SYNC has no
effect, PHASE writes CORE_PHASE and Helm hears of a change (R400), a POST to this core (by 0xFF or its own number) adds to its semaphore, a POST to another core
starts on its way, and END, when no LDS asks it for a post (R22), enters IDLE, sets DONE, which no clear of the same cycle undoes
(R8), and counts it, with CORE_PHASE IDLE (R44, R57). An operation whose interlock has not cleared stays held and changes nothing.
R20: with nothing held at issue, no fault waiting and the next operation fit to issue, settling lets at most a PASS whose
interlocks have cleared begin: the registers, the scratchpad, the fetch buffer and every queue keep what they hold. -/
def Obligations.CoreSettles : Prop :=
  (
    ∀ (c : CoreId) (s : State) (h : Held),
      (s.core c.val).pipe.held = some h → h.stagger = none → (s.core c.val).pipe.faulting = none →
      (s.core c.val).regs.mode = .run →
      (CoreQuiet s c.val →
        (h.op = .sync → headGood (s.core c.val).pipe.fetch = true →
          s.settle c.val = s.modCore c.val fun k => k.holdsNone) ∧
        (∀ p, h.op = .phase p → headGood (s.core c.val).pipe.fetch = true →
          s.settle c.val = (s.notePhase c.val p).modCore c.val fun k =>
            { k.holdsNone with regs := { k.regs with phase := p } }) ∧
        (∀ t m n, h.op = .post t m n → (t = 0xFF ∨ t.toNat = c.val) → headGood (s.core c.val).pipe.fetch = true →
          ((s.core c.val).sem m).toNat + n.toNat ≤ 0xFFFF →
          s.settle c.val = s.modCore c.val fun k => k.holdsNone.setSem m (k.sem m + n)) ∧
        (∀ t m n, h.op = .post t m n → ¬(t = 0xFF ∨ t.toNat = c.val) → headGood (s.core c.val).pipe.fetch = true →
          s.settle c.val =
            { s.modCore c.val (fun k => k.holdsNone) with
              posts := s.posts ++ [{ target := t.toNat, sem := m, count := n.toNat, source := some (c.val, h.seq, h.pc),
                                     holds := true }] }) ∧
        (h.op = .endOp → (∀ u ∈ (s.core c.val).pipe.unretired, u.tile = none → u.post = none) →
          s.settle c.val = ((s.notePhase c.val 0).occur (regKey 0 c.val 0x20) 13).modCore c.val fun k =>
            { k with
              regs := { k.regs with mode := .idle, phase := 0, done := true, doneCnt := Word.satInc k.regs.doneCnt,
                                    pc := k.nextPc }
              pipe := { CorePipe.reset with lastLds := k.pipe.lastLds, anchSince := k.pipe.anchSince,
                                            issued := k.pipe.issued } })) ∧
      (∀ p : BitVec 3, s.notePhase c.val p =
        if (s.core c.val).regs.phase = p then s else s.modDie (c.val / 8) fun d => { d with phaseMoved := true }) ∧
      (¬CoreQuiet s c.val → s.settle c.val = s.modCore c.val State.beginPass)) ∧
  (
    ∀ (c : CoreId) (s : State),
      (s.core c.val).pipe.held = none → (s.core c.val).pipe.faulting = none → headGood (s.core c.val).pipe.fetch = true →
      OnlyCore c.val s (s.settle c.val) ∧
      let k := s.core c.val
      let t := (s.settle c.val).core c.val
      t.regs = k.regs ∧ t.scratch = k.scratch ∧ t.pipe = { k.pipe with arrayQ := t.pipe.arrayQ } ∧
      t.pipe.arrayQ.map (fun e => (e.seq, e.pc, e.tile, e.op)) = k.pipe.arrayQ.map (fun e => (e.seq, e.pc, e.tile, e.op)))

/-- R20 to R24, R33, R52: an operation of a unit that passes the checks of R461 enters the queue of its unit (Table 1-3) with the
next place in issue order: an LDS, kept as its bank's latest; an ACCLD, which opens a tile; an ANCH; a DRAIN, which ends the open
tile in stream order; a QUANT; a MOVE.
R12, R23, R24, R33: a PASS that passes the checks of R461 enters the array queue with the next place in issue order; with
CLR = 1 it opens a tile and consumes the ANCH that has issued, with CLR = 0 it continues the open tile; it enters that tile's log
last, after the latest LDS into the bank that it names where the log does not hold that one yet (R24). The registers, the scratchpad and the accumulators are unchanged, and so is everything outside the core but its die (whose
Sextant may sample the tile, R96). -/
def Obligations.UnitsTakeOperations : Prop :=
  (
    ∀ (c : CoreId) (s : State) (pc : Nat) (rest : List Fetched),
      let k := s.core c.val
      let seq := k.pipe.issued
      let p := (k.took rest).pipe
      (∀ o, CoreIssues s c.val (.lds o) pc rest →
        ∃ u : State, exec (.lds c) s = .next (s.react (u.settle c.val)) ∧ OnlyCore c.val s u ∧
          u.core c.val = { k with pipe := { p with
            loadQ := p.loadQ ++ [{ seq := seq, pc := pc, tile := 0, op := .lds o }]
            lastLds := p.lastLds.put (Bytes.ofBool o.bank) { seq := seq, pc := pc, tile := 0, op := o } } }) ∧
      (∀ o, CoreIssues s c.val (.accld o) pc rest →
        ∃ u : State, exec (.accld c) s = .next (s.react (u.settle c.val)) ∧ OnlyCore c.val s u ∧
          u.core c.val = { k with
            pipe := { p with loadQ := p.loadQ ++ [{ seq := seq, pc := pc, tile := k.arr.tileNext + 1, op := .accld o }] }
            arr := { k.arr with
              tileNext := k.arr.tileNext + 1
              tiles := k.arr.tiles ++ [State.newTile (k.arr.tileNext + 1) true
                [.accld { seq := seq, pc := pc, tile := k.arr.tileNext + 1, op := o }]] } }) ∧
      (∀ o, CoreIssues s c.val (.anch o) pc rest →
        ∃ u : State, exec (.anch c) s = .next (s.react (u.settle c.val)) ∧ OnlyCore c.val s u ∧
          u.core c.val = { k with pipe := { p with
            anchQ := some { seq := seq, pc := pc, tile := 0, op := o }, anchSince := true } }) ∧
      (∀ o, CoreIssues s c.val (.drain o) pc rest →
        ∃ (u : State) (t : Tile), exec (.drain c) s = .next (s.react (u.settle c.val)) ∧ OnlyCore c.val s u ∧ k.openTile = some t ∧
          u.core c.val = { k with
            pipe := { p with drainQ := p.drainQ ++ [{ seq := seq, pc := pc, tile := t.id, op := o }] }
            arr := { k.arr with tiles := k.arr.tiles.map fun x => if x.id == t.id then { x with drained := true } else x } }) ∧
      (∀ o, CoreIssues s c.val (.quant o) pc rest →
        ∃ u : State, exec (.quant c) s = .next (s.react (u.settle c.val)) ∧ OnlyCore c.val s u ∧
          u.core c.val = { k with pipe := { p with
            quantQ := p.quantQ ++ [{ seq := seq, pc := pc, tile := 0, op := o }] } }) ∧
      (∀ o, CoreIssues s c.val (.move o) pc rest →
        ∃ u : State, exec (.move c) s = .next (s.react (u.settle c.val)) ∧ OnlyCore c.val s u ∧
          u.core c.val = { k with pipe := { p with
            moveQ := p.moveQ ++ [{ seq := seq, pc := pc, op := o, moved := 0 }] } })) ∧
  (
    ∀ (c : CoreId) (s : State) (pc : Nat) (rest : List Fetched) (o : PassOp), CoreIssues s c.val (.pass o) pc rest →
      ∃ u : State, exec (.pass c) s = .next (s.react (u.settle c.val)) ∧ u = { s with cores := u.cores, dies := u.dies } ∧
        (∀ d, d ≠ c.val → u.core d = s.core d) ∧ (∀ d, d ≠ c.val / 8 → u.die d = s.die d) ∧
        let k := s.core c.val
        let v := u.core c.val
        let i := if o.clr then k.arr.tileNext + 1 else (match k.openTile with | some t => t.id | none => 0)
        let e : PassEntry :=
          { seq := k.pipe.issued, pc := pc, tile := i, op := o, begun := false, next := 0, sub := 0, sa := [], sb := [], redo := false }
        let lds := if o.mode = .outer then none else k.pipe.lastLds.find? (Bytes.ofBool o.bank)
        let old := if o.clr then [] else (match k.openTile with | some t => t.log | none => [])
        v.regs = k.regs ∧ v.scratch = k.scratch ∧ v.arr.acc = k.arr.acc ∧ v.pipe.fetch = rest ∧
        v.pipe.issued = k.pipe.issued + 1 ∧ v.pipe.anchSince = (if o.clr then false else k.pipe.anchSince) ∧
        v.pipe.arrayQ = k.pipe.arrayQ ++ [e] ∧
        (∃ w, v.openTile = some w ∧ w.id = i ∧ w.log = old ++
          (match lds with
           | some l => if (old.any fun x => match x with | .lds f => f.seq == l.seq | _ => false) then [] else [.lds l]
           | none => []) ++ [.pass e (lds.map fun l => l.op)]) ∧
        (o.clr = true → v.arr.tileNext = k.arr.tileNext + 1 ∧ v.arr.tiles.map Tile.id = k.arr.tiles.map Tile.id ++ [i]) ∧
        (o.clr = false → v.arr.tiles.map Tile.id = k.arr.tiles.map Tile.id ∧ k.openTile.isSome = true))

/-- R16, R19, R51: operation fetch reads two operations when its buffer of 16 has room for both. Each enters the buffer with its
address and its 16 bytes; one whose line is poisoned carries POISON_READ, one beyond 0x5_FFFF carries ADDR_RANGE, and neither
faults before it would issue.
R19, R50, R58: an operation whose fetch met a fault, or whose opcode or a field is illegal, faults the core when it would
issue: with nothing in progress, and no LDS that asks for a post at its retirement (R22), the core enters FAULT when it settles, with that cause and the operation's address in CORE_FAULT if
CORE_FAULT holds no earlier cause, FAULTED set and counted, and an empty fetch buffer.
R58, R461: two faults of a core. A fault that arises while an earlier one waits for the operations before it is recorded in its
place only when both arise in one arith cycle and its code is the lower, and the earlier place in issue order bounds what is discarded;
one that arises in the arith cycle in which the core has entered FAULT replaces CORE_FAULT's cause and address when its code is the lower.
The event of an operation that the first fault has taken from its unit in that same cycle still counts so: a MOVE that the mesh
refuses, here with an ANCH before it still at work. -/
def Obligations.FetchAndItsFaults : Prop :=
  (
    ∀ (c : CoreId) (x : Env) (s : State),
      let k := s.core c.val
      let a := k.pipe.fetchPc
      k.regs.mode = .run → k.pipe.faulting = none → k.pipe.fetch.length ≤ 14 → x.ecc = [] →
      ∃ (f g : Fetched) (u : State), exec (.operationFetch c x) s = .next (s.react (u.settle c.val)) ∧ OnlyCore c.val s u ∧
        u.core c.val = { k with pipe := { k.pipe with fetch := k.pipe.fetch ++ [f, g], fetchPc := a + 2 } } ∧
        f.addr = a ∧ g.addr = a + 1 ∧
        ∀ h, (h = f ∨ h = g) →
          (opAddrCount ≤ h.addr → h.bad = some .addrRange) ∧
          (h.addr < opAddrCount →
            h.word = BitVec.ofNat 128 (Bytes.toNat (cellBytes (k.readScratch (16 * h.addr) 16))) ∧
            h.bad = if k.scratch.poison.get false (64 * (h.addr / 4)) = true then some .poisonRead else none)) ∧
  (
    ∀ (c : CoreId) (s : State) (f : Fetched) (rest : List Fetched) (cz : CoreCause),
      let k := s.core c.val
      k.regs.mode = .run → k.pipe.held = none → k.pipe.faulting = none → k.pipe.fetch = f :: rest →
      (f.bad = some cz ∨ f.bad = none ∧ decodeOp f.word = .error cz) → CoreQuiet s c.val →
      (∀ u ∈ k.pipe.unretired, u.tile = none → u.post = none) →
      let t := (s.settle c.val).core c.val
      t.regs.mode = .fault ∧ t.regs.faulted = true ∧ t.regs.faultCnt = Word.satInc k.regs.faultCnt ∧ t.pipe.fetch = [] ∧
      t.regs.faultCause = (if k.regs.faultCause = 0 then BitVec.ofNat 8 cz.code else k.regs.faultCause) ∧
      t.regs.faultPc = (if k.regs.faultCause = 0 then BitVec.ofNat 19 f.addr else k.regs.faultPc) ∧
      t.regs.sems = k.regs.sems ∧ t.scratch = k.scratch) ∧
  (
    ∀ (c : CoreId) (s : State),
      let k := s.core c.val
      (∀ (b pz seq pc : Nat) (cz cause : CoreCause), k.regs.mode = .run → k.pipe.faulting = some (b, cz, pz) →
        ((s.markFault c.val seq cause pc).core c.val).pipe.faulting =
          if k.pipe.faultNow = true ∧ cause.code < cz.code then some (min b seq, cause, pc) else some (min b seq, cz, pz)) ∧
      (∀ (seq pc : Nat) (cause : CoreCause), k.regs.mode = .fault → k.pipe.faultNow = true →
        s.markFault c.val seq cause pc =
          if cause.code < k.regs.faultCause.toNat then
            s.modCore c.val fun k =>
              { k with regs := { k.regs with faultCause := BitVec.ofNat 8 cause.code, faultPc := BitVec.ofNat 19 pc } }
          else s) ∧
      (∀ (i : Fin 16) (p : CorePipe) (a : CoreArray) (e : MoveEntry) (d : Issued AnchOp) (b pz : Nat) (cz : CoreCause),
        k.was = some (p, a) → k.regs.mode = .run → k.pipe.faulting = some (b, cz, pz) → k.pipe.moveQ[i.val]? = none →
        p.faulting = none → p.moveQ[i.val]? = some e → p.anchQ = some d → d.seq < e.seq → s.moveAllowed c.val e.op = false →
        exec (.meshRefusal c i) s = .next (s.react (s.markFault c.val e.seq .meshError e.pc))))

/-- R16, R22, R28, R34, R35, R53, R78, R86: the work of the load and anchor units ends, where no narrow outer-product pass holds the
operand read port and the core has met no fault in this arith cycle (`SameCycleFaults` says what such a fault makes of an event). An LDS whose bank is quiescent leaves its bank holding the tile that its source lines held when it read them,
each at its own cycle; one that a replay issues again loads it once more, as it has read its lines again; an ACCLD that every earlier DRAIN allows loads the accumulators from its partial, at
the partial's anchor when no element overflows the window; both then wait for their tile's capture to retire. An ANCH puts its
anchor into the empty pending slot: the one that the operation gives, or, from a scan, the sum of the largest scale exponents of A
and B. -/
def Obligations.LoadAndAnchorUnitsFinish : Prop :=
  ∀ (c : CoreId) (x : Env) (s : State), x.ecc = [] → (s.core c.val).was = none →
    let k := s.core c.val
    let again := k.arr.replay.bind fun r => r.items.head?
    (∀ seq pc tile o rest, k.pipe.loadQ = { seq := seq, pc := pc, tile := tile, op := .lds o } :: rest →
      (∀ e, again ≠ some (.lds e)) → k.portHeld = false → k.ldsFree seq o.bank = true →
      k.cleanLines (unread k.pipe.loadBuf (ldsLines o)) →
      ∃ u : State, exec (.ldsLastRow c x) s = .next (s.react (u.settle c.val)) ∧ OnlyCore c.val s u ∧
        u.core c.val = { k with
          pipe := { k.pipe with
            loadQ := rest
            loadBuf := Tbl.empty
            unretired := k.pipe.unretired ++ [{ seq := seq, pc := pc, tile := if tile = 0 then none else some tile,
                                                bank := some o.bank, post := o.post }] }
          arr := { k.arr with banks := k.arr.banks.put (Bytes.ofBool o.bank) (loadBank k k.pipe.loadBuf seq o) } }) ∧
    (∀ e, again = some (.lds e) → k.cleanLines (unread (State.replayBuf k) (ldsLines e.op)) →
      ∃ u : State, exec (.ldsLastRow c x) s = .next (s.react (u.settle c.val)) ∧ OnlyCore c.val s u ∧
        u.core c.val = { k with arr := { k.arr with
          banks := k.arr.banks.put (Bytes.ofBool e.op.bank) (loadBank k (State.replayBuf k) e.seq e.op)
          replay := k.arr.replay.map fun r => { r with items := r.items.drop 1, buf := Tbl.empty } } }) ∧
    (∀ seq pc tile o rest t acc d nf, k.pipe.loadQ = { seq := seq, pc := pc, tile := tile, op := .accld o } :: rest →
      (∀ e, again ≠ some (.accld e)) → k.portHeld = false → k.accldFree seq = true →
      k.cleanLines (unread k.pipe.loadBuf (accldLines o)) → k.tile? tile = some t →
      let anchor := trailerAnchor (viewLine k k.pipe.loadBuf o.taddr)
      loadPartial k k.pipe.loadBuf o anchor = some (acc, d, nf) →
      ∃ u : State, exec (.accldLastLine c x) s = .next (s.react (u.settle c.val)) ∧ OnlyCore c.val s u ∧
        (u.core c.val).arr.acc = acc ∧ (u.core c.val).pipe.loadQ = rest ∧ (u.core c.val).scratch = k.scratch ∧
        (u.core c.val).regs = k.regs ∧
        (u.core c.val).pipe.unretired =
          (if k.pipe.unretired.any fun u => u.seq == seq then k.pipe.unretired
           else k.pipe.unretired ++ [{ seq := seq, pc := pc, tile := some tile, bank := none, post := o.post }]) ∧
        (u.core c.val).pipe.loadBuf = Tbl.empty ∧
        ∃ w, (u.core c.val).tile? tile = some w ∧ w.active = true ∧ w.anchor = anchor ∧ w.replays = t.replays ∧
          w.dropped = BitVec.ofNat 32 (min d 0xFFFFFFFF) ∧ w.nonfinite = nf) ∧
    (∀ e, k.pipe.anchQ = some e → k.arr.pend = none →
      k.cleanLines (unread k.pipe.anchBuf (State.anchLines e.op)) →
      ∃ u : State, exec (.anchPlaced c x) s = .next (s.react (u.settle c.val)) ∧ OnlyCore c.val s u ∧
        u.core c.val = { k with
          pipe := { k.pipe with anchQ := none, anchBuf := Tbl.empty }
          arr := { k.arr with pend := some (if e.op.scan then
            .scan ((State.maxScale k k.pipe.anchBuf e.op.saAddr e.op.saLines : Int) - 127 +
                   ((State.maxScale k k.pipe.anchBuf e.op.sbAddr e.op.sbLines : Int) - 127))
            else .imm e.op.anchor.toInt) } })

/-- R11, R40, R41: a grant of the activity ramp pays eight eighths. With no step ready it goes to a dummy step, which changes
nothing else. With the first cycle of step `n` of a begun pass ready it broadcasts that step's vectors, read from their lines as
they are now, into the pipeline, and counts a real step of the core's phase on its die.
R12, R72 to R76: the contributions of the oldest step in flight reach the accumulators when none overflows the window; the
registers, the scratchpad and the other steps in flight are unchanged. -/
def Obligations.StepsIssueAndLand : Prop :=
  (
    ∀ (c : CoreId) (x : Env) (s : State),
      let k := s.core c.val
      k.was = none → 8 ≤ k.arr.credit →
      (State.nextStep k = none →
        exec (.stepGrant c x) s =
          .next (s.react (s.modCore c.val fun k => { k with arr := { k.arr with credit := k.arr.credit - 8 } }))) ∧
      (∀ e rest, k.arr.replay = none → k.pipe.arrayQ = e :: rest → e.begun = true → e.sub = 0 → x.ecc = [] →
        k.cleanLines (stepLines e.op e.next ++ scalesOfA e ++ scalesOfB e) →
        ∃ (u : State) (v : StepVec), exec (.stepGrant c x) s = .next (s.react (u.settle c.val)) ∧
          u = { s with cores := u.cores, dies := u.dies } ∧ (∀ d, d ≠ c.val → u.core d = s.core d) ∧
          (u.core c.val).arr.credit = k.arr.credit - 8 ∧ (u.core c.val).arr.flying = k.arr.flying ++ [v] ∧
          (u.core c.val).arr.acc = k.arr.acc ∧ (u.core c.val).regs = k.regs ∧ (u.core c.val).scratch = k.scratch ∧
          v.tile = e.tile ∧ v.k = e.next ∧ v.mode = e.op.mode ∧ v.bank = e.op.bank ∧
          v.a = stepVec k e.op.fmtA e.op.aAddr e.next (readScales k e).sa ∧
          v.b = (if e.op.mode = .outer then stepVec k e.op.fmtB e.op.bAddr e.next (readScales k e).sb else []) ∧
          (u.die (c.val / 8)).realSteps.get 0 k.regs.phase.toNat = (s.die (c.val / 8)).realSteps.get 0 k.regs.phase.toNat + 1)) ∧
  (
    ∀ (c : CoreId) (s : State) (v : StepVec) (rest : List StepVec) (t : Tile) (acc : Tbl Acc) (d : Nat) (nf : Bool),
      let k := s.core c.val
      k.was = none → k.arr.flying = v :: rest → k.tile? v.tile = some t →
      landGroups t.anchor k.arr.acc (stepGroups v) = some (acc, d, nf) →
      ∃ u : State, exec (.contributionLands c) s = .next (s.react (u.settle c.val)) ∧
        u = { s with cores := u.cores, dies := u.dies } ∧ (∀ e, e ≠ c.val → u.core e = s.core e) ∧
        (u.core c.val).regs = k.regs ∧ (u.core c.val).scratch = k.scratch ∧ (u.core c.val).pipe = k.pipe ∧
        (u.core c.val).arr.acc = acc ∧ (u.core c.val).arr.flying = rest ∧ (u.core c.val).arr.banks = k.arr.banks)

/-- R12, Table 1-1: a step in outer-product mode that overflows no window adds to every accumulator (i, j) exactly the one product
a[i]·b[j], whatever the other accumulators take. -/
def Obligations.OuterStepAddsOneProductEach : Prop :=
  ∀ (v : StepVec) (anchor : Int) (acc acc' : Tbl Acc) (d : Nat) (nf : Bool),
    v.mode = .outer → acc.rising = true → landGroups anchor acc (stepGroups v) = some (acc', d, nf) →
    ∀ i j, i < 64 → j < 64 →
      ∃ n, (acc.get Acc.zero (64 * i + j)).addGroup anchor [Val.mul (vecAt v.a i) (vecAt v.b j)] =
        some (acc'.get Acc.zero (64 * i + j), n)

/-- R23, R26, R29, R32: when its interlock clears, a DRAIN captures: the shadows take the accumulators, with the trailer of Table 1-7,
and its stream has all its lines to write; the tile closes, TILE_SEQ rises by one, and the tile's operations retire in issue order with
their posts. An ACCLD that has not written its last line holds no capture back: it stops loading and retires with its tile, and the
shadows take free values. (The tile is one that no Sextant follows.)
R16, R27, R30 to R32, R87: the drain stream and a QUANT write what they have still to write, of the data lines, the scale lines of
an 8-bit form and, for a drain, the trailer line (`drainOut`, `quantOut`), a QUANT while no narrow outer-product pass holds the operand
read port; the operation then retires with its post (`SemaphoresAndRamp`). -/
def Obligations.DrainsAndConversions : Prop :=
  (
    ∀ (c : CoreId) (s : State) (d : Issued DrainOp) (rest : List (Issued DrainOp)) (t : Tile),
      let k := s.core c.val
      k.was = none → k.pipe.drainQ = d :: rest → k.tile? d.tile = some t → k.captureFree d = true → s.probeOf c.val t.id = none →
      (t.active = true → (∀ e ∈ k.pipe.loadQ, ∀ o, e.op = .accld o → e.tile ≠ t.id) →
        ∃ (u : State) (mine : List Unretired), exec (.drainCapture c) s = .next (s.react ((u.retireAll c.val mine).settle c.val)) ∧
          OnlyCore c.val s u ∧
          mine.Perm (k.pipe.unretired.filter fun u => u.tile == some t.id) ∧
          mine.Pairwise (fun a b => a.seq ≤ b.seq) ∧
          let sh : Shadow := { acc := k.arr.acc, anchor := t.anchor, trailer := trailer t d.op.dir (k.arr.tileSeq + 1), entry := d,
                               left := [] }
          u.core c.val = { k with
            pipe := { k.pipe with drainQ := rest, unretired := k.pipe.unretired.filter fun u => u.tile != some t.id }
            arr := { k.arr with
              tileSeq := k.arr.tileSeq + 1
              tiles := k.arr.tiles.filter fun u => u.id != t.id
              shadow := some { sh with left := drainOut sh } } }) ∧
      (t.active = false →
        ∃ (u : State) (mine : List Unretired), exec (.drainCapture c) s = .next (s.react ((u.retireAll c.val mine).settle c.val)) ∧
          u = { s with cores := u.cores, free := u.free } ∧ (∀ e, e ≠ c.val → u.core e = s.core e) ∧
          (∀ e ∈ k.pipe.loadQ, ∀ o, e.op = .accld o → e.tile = t.id → ∃ r ∈ mine, r.seq = e.seq ∧ r.post = o.post) ∧
          (∀ e ∈ (u.core c.val).pipe.loadQ, ∀ o, e.op = .accld o → e.tile ≠ t.id) ∧
          (u.core c.val).pipe.drainQ = rest ∧ (u.core c.val).arr.tileSeq = k.arr.tileSeq + 1 ∧
          (u.core c.val).arr.tiles = k.arr.tiles.filter (fun u => u.id != t.id) ∧
          ∃ n, s.free < n ∧ (u.core c.val).arr.shadow.map Shadow.acc = some (State.freeAccs n))) ∧
  (
    ∀ (c : CoreId) (x : Env) (s : State),
      let k := s.core c.val
      k.was = none →
      (∀ sh, k.arr.shadow = some sh →
        ∃ u : State, exec (.drainStreamDone c) s =
            .next (s.react ((u.retirePost c.val sh.entry.seq sh.entry.pc sh.entry.op.post).settle c.val)) ∧
          OnlyCore c.val s u ∧ (u.core c.val).regs = k.regs ∧ (u.core c.val).pipe = k.pipe ∧
          (u.core c.val).arr = { k.arr with shadow := none } ∧
          (u.core c.val).scratch = (putLines k sh.left).scratch) ∧
      (∀ e rest, k.pipe.quantQ = e :: rest → x.ecc = [] → k.portHeld = false →
        k.cleanLines (unread k.pipe.quantBuf (State.quantIn e.op)) →
        ∃ u : State, exec (.quantDone c x) s = .next (s.react ((u.retirePost c.val e.seq e.pc e.op.post).settle c.val)) ∧
          OnlyCore c.val s u ∧ (u.core c.val).regs = k.regs ∧ (u.core c.val).arr = k.arr ∧
          (u.core c.val).pipe = { k.pipe with quantQ := rest, quantBuf := Tbl.empty, quantOut := none } ∧
          (u.core c.val).scratch = (putLines k (k.pipe.quantOut.getD (quantOut k k.pipe.quantBuf e.op))).scratch))

/-- R22, R46, R47: a post on retire adds 1 to its semaphore. One that finds 0xFFFF leaves it at 0xFFFF and faults the core that
issued it with SEM_OVF at the operation's address. An operation that a fault has discarded makes no post (R58), nor one that asks for
none. A post to a core, of a POST or of a MOVE with a remote post (R48), to 0xFF or this core adds its count here, with the same fault; to
another core it starts on its way.
R46 to R48: a remote post arrives: it leaves the mesh and adds its count to the target's semaphore, which stays at 0xFFFF when
the sum would pass it, and the core that issued the post, when it is in RUN, then faults with SEM_OVF at the posting operation.
R42, R46, R49: what ends a WAIT that is held. Its semaphore reaches COUNT: COUNT is subtracted, and the stagger hold follows
with BAR = 1. The stagger hold runs out: the stream goes on. It waits 2^CORE_WDOG.EXP arith cycles, with 1 to 15 as 16 and above
47 as 47, and its semaphore still holds less: the core faults with WAIT_TIMEOUT at its address.
R37, R39: at a level boundary, counted from the cycle in which the level leaves 0, the activity level rises by one when a step
is ready, up to the limit that Helm sets, and falls by one when none has been ready for 64 cycles; during a replay it is held. Only
the ramp of the core changes. -/
def Obligations.SemaphoresAndRamp : Prop :=
  (
    ∀ (c : CoreId) (s : State) (seq pc : Nat) (sem : BitVec 6),
      let k := s.core c.val
      (k.pipe.faulting = none → (k.sem sem).toNat < 0xFFFF →
        s.retirePost c.val seq pc (some sem) = s.modCore c.val fun k => k.setSem sem (k.sem sem + 1)) ∧
      (k.pipe.faulting = none → k.sem sem = 0xFFFF → k.regs.mode = .run →
        ((s.retirePost c.val seq pc (some sem)).core c.val).sem sem = 0xFFFF ∧
        ((s.retirePost c.val seq pc (some sem)).core c.val).pipe.faulting = some (seq, .semOvf, pc)) ∧
      (∀ b cz p, k.pipe.faulting = some (b, cz, p) → b ≤ seq → s.retirePost c.val seq pc (some sem) = s) ∧
      s.retirePost c.val seq pc none = s ∧
      (∀ (t : BitVec 8) (n : Nat) (h : Bool),
        (t = 0xFF ∨ t.toNat = c.val → (k.sem sem).toNat + n ≤ 0xFFFF →
          s.corePost c.val seq pc t sem n h = s.modCore c.val fun k => k.setSem sem (BitVec.ofNat 16 ((k.sem sem).toNat + n))) ∧
        (t = 0xFF ∨ t.toNat = c.val → 0xFFFF < (k.sem sem).toNat + n → k.regs.mode = .run → k.pipe.faulting = none →
          ((s.corePost c.val seq pc t sem n h).core c.val).sem sem = 0xFFFF ∧
          ((s.corePost c.val seq pc t sem n h).core c.val).pipe.faulting = some (seq, .semOvf, pc)) ∧
        (¬(t = 0xFF ∨ t.toNat = c.val) →
          s.corePost c.val seq pc t sem n h =
            { s with posts := s.posts ++ [{ target := t.toNat, sem := sem, count := n, source := some (c.val, seq, pc),
                                            holds := h }] }))) ∧
  (
    ∀ (i : Nat) (s : State) (p : RemotePost) (c : CoreId) (seq pc : Nat),
      s.posts[i]? = some p → p.target < 176 → p.source = some (c.val, seq, pc) →
      let v := ((s.core p.target).sem p.sem).toNat + p.count
      ∃ u : State, exec (.remotePostDelivery i) s = .next (s.react (u.settle c.val)) ∧ u.posts = s.posts.eraseIdx i ∧
        (v ≤ 0xFFFF → u = { s.modCore p.target (fun k => k.setSem p.sem (BitVec.ofNat 16 v)) with posts := s.posts.eraseIdx i }) ∧
        (0xFFFF < v → ((u.core p.target).sem p.sem) = 0xFFFF) ∧
        (0xFFFF < v → (s.core c.val).regs.mode = .run → (s.core c.val).pipe.faulting = none →
          (u.core c.val).pipe.faulting = some (seq, .semOvf, pc))) ∧
  (
    ∀ (c : CoreId) (s : State) (seq pc waited : Nat) (bar : Bool) (sem : BitVec 6) (n : BitVec 16),
      let k := s.core c.val
      (k.pipe.held = some { seq := seq, pc := pc, op := .wait bar sem n, waited := waited, stagger := none } →
        n.toNat ≤ (k.sem sem).toNat →
        ∃ u : State, exec (.waitSatisfied c) s = .next (s.react (u.settle c.val)) ∧ OnlyCore c.val s u ∧
          u.core c.val =
            if bar = true ∧ k.regs.stag ≠ 0 then
              (k.setSem sem (k.sem sem - n)).holds { seq := seq, pc := pc, op := .wait bar sem n, waited := 0,
                                                     stagger := some (64 * k.regs.stag.toNat) }
            else (k.setSem sem (k.sem sem - n)).holdsNone) ∧
      (k.pipe.held = some { seq := seq, pc := pc, op := .wait bar sem n, waited := waited, stagger := some 0 } →
        exec (.staggerRelease c) s = .next (s.react ((s.modCore c.val fun k => k.holdsNone).settle c.val))) ∧
      (k.pipe.held = some { seq := seq, pc := pc, op := .wait bar sem n, waited := waited, stagger := none } →
        k.was = none → k.regs.mode = .run → k.pipe.faulting = none → k.regs.wdog ≠ 0 → (k.sem sem).toNat < n.toNat →
        2 ^ max 16 (min k.regs.wdog.toNat 47) ≤ waited →
        ∃ u : State, exec (.waitTimeout c) s = .next (s.react (u.settle c.val)) ∧
          (u.core c.val).pipe.faulting = some (seq, .waitTimeout, pc) ∧ (u.core c.val).regs.sems = k.regs.sems)) ∧
  (
    ∀ (c : CoreId) (s : State),
      let a := (s.core c.val).arr
      let level := if State.stepReady (s.core c.val) then min (a.level + 1) (s.die (c.val / 8)).lmax
        else if 64 ≤ a.idleFor then a.level - 1 else a.level
      exec (.levelBoundary c) s = .next
        (if a.replay.isSome = true ∨ (a.level ≠ 0 ∧ a.cycle4 < 4) then s
         else s.modCore c.val fun k =>
          { k with arr := { k.arr with level := level, cycle4 := 0, credit := if level = 0 then 0 else k.arr.credit } }))

/-- R19, R48, R55, R112, R147, R148, R153, R170: a MOVE that the mesh permits, once it has its slots, becomes visible at its
destination: what it had still to move (all of it, where no cycle of the mesh unit has moved a piece yet) is there as its source held it.
In DRAM and in a scratchpad each unit of 64 bytes that takes a poisoned byte is poisoned, each that it covers whole with clean ones is
clean, and every other mark, every other byte and every other memory is as it was; to host memory a unit with poison is not written. It
leaves its queue, and its posts follow, the remote one and then its own (`PostOnRetire`); without posts there is none. One that brings
poisoned data in for the passes of a step sets the step's verdict. One that the mesh refuses faults the core with MESH_ERROR at its
address. (Of a core that has met no fault in this arith cycle.) -/
def Obligations.MovesCopyOrAreRefused : Prop :=
  ∀ (c : CoreId) (i : Fin 16) (s : State) (e : MoveEntry),
    let k := s.core c.val
    let x : Env := { host := [], hostErr := none, ecc := [] }
    let rs := s.regionsOf (s.workOfCore c.val)
    let n := e.op.len - e.moved
    let src := s.placeOf (State.moveFrom c.val e.op + e.moved)
    let dst := s.placeOf (State.moveTo c.val e.op + e.moved)
    let poisoned := (List.range n).any fun j => (s.placeCell rs src j).2
    k.was = none → k.pipe.moveQ[i.val]? = some e →
    (s.moveAllowed c.val e.op = true → src.isMem = true → dst.isMem = true → s.memWf = true →
      s.slotsFree (s.moveSlots e.op) = true →
      ∃ u v : State,
        v = ((match e.op.remote with
          | some (t, sem) => u.corePost c.val e.seq e.pc t sem 1 false
          | none => u).retirePost c.val e.seq e.pc e.op.post).settle c.val ∧
        exec (.moveVisible c i x) s = .next (s.react
          (if e.op.inbound && poisoned then
             match s.jobOfDie (c.val / 8) with
             | some j => (match State.passesRun j with | some r => v.setVerdict j.id r.n 0x04 | none => v)
             | none => v
           else v)) ∧
        u = { s with cores := u.cores, dram := u.dram, mems := u.mems, host := u.host, out := u.out } ∧
        (∀ d, u.core d = { s.core d with
          scratch := (u.core d).scratch
          pipe := if d = c.val then { k.pipe with moveQ := k.pipe.moveQ.filter fun m => m.seq != e.seq } else (s.core d).pipe }) ∧
        (∀ j, j < n → (u.placeCell rs dst j).1 = match dst with
          | .window _ _ =>
            if ∃ l, l < n ∧ (dst.base rs + l) / 64 = (dst.base rs + j) / 64 ∧ (s.placeCell rs src l).2 = true then (s.placeCell rs dst j).1
            else (s.placeCell rs src j).1
          | _ => (s.placeCell rs src j).1) ∧
        (∀ j, j < n → (u.placeCell rs dst j).2 = match dst with
          | .window _ _ => false
          | _ =>
            if ∃ l, l < n ∧ (dst.base rs + l) / 64 = (dst.base rs + j) / 64 ∧ (s.placeCell rs src l).2 = true then true
            else if dst.base rs ≤ (dst.base rs + j) / 64 * 64 ∧ (dst.base rs + j) / 64 * 64 + 64 ≤ dst.base rs + n then false
            else (s.placeCell rs dst j).2) ∧
        (∀ a, ¬((∃ m o w, dst = .dram m o w) ∧ dst.base rs ≤ a ∧ a < dst.base rs + n) → u.dram.bytes.find? a = s.dram.bytes.find? a) ∧
        (∀ a, ¬((∃ m o w, dst = .dram m o w) ∧ dst.base rs < a + 64 ∧ a < dst.base rs + n) →
          u.dram.poison.find? a = s.dram.poison.find? a) ∧
        (∀ a, ¬((∃ r o, dst = .window r o) ∧ dst.base rs ≤ a ∧ a < dst.base rs + n) → u.host.bytes.find? a = s.host.bytes.find? a) ∧
        (∀ d a, ¬((∃ o, dst = .scratch d o) ∧ dst.base rs ≤ a ∧ a < dst.base rs + n) →
          (u.core d).scratch.byteAt (fun _ => 0) a = (s.core d).scratch.byteAt (fun _ => 0) a) ∧
        (∀ d a, ¬((∃ o, dst = .scratch d o) ∧ dst.base rs / 64 ≤ a / 64 ∧ a < (dst.base rs + n + 63) / 64 * 64) →
          (u.core d).scratch.markAt (fun _ => false) a = (s.core d).scratch.markAt (fun _ => false) a)) ∧
    (s.moveAllowed c.val e.op = false → k.regs.mode = .run → k.pipe.faulting = none →
      ∃ u : State, exec (.meshRefusal c i) s = .next (s.react (u.settle c.val)) ∧
        (u.core c.val).pipe.faulting = some (e.seq, .meshError, e.pc) ∧ (u.core c.val).pipe.fetch = [] ∧
        (u.core c.val).pipe.held = none ∧ (u.core c.val).arr.tiles = [])

/-- Table 1-20, R57, R58: HALT_REQ in RUN stops issue at the next operation boundary, abandoning what is held at issue, any open
tile and whatever has been fetched, and the core will fault with HALTED at the first operation not issued; CLEAR in IDLE or FAULT
empties every queue, invalidates the banks, the pending anchor and the tiles, ends a sample of one of them (Table 2-13) and resets
CORE_FAULT, in RUN it is ignored; START in
IDLE begins fetching at CORE_START_PC in RUN, with the tile count of the run at 0, and is ignored otherwise. CORE_BUSY counts past
its largest value: it wraps, and WRAPPED is set, which no clear of the same cycle undoes (R8), and counted.
R113, R276, R324: what follows an event is the firmware's only when a core's STATE has changed, and the consumer engines' only
when a pipeline queue is loaded, and that of a RESHARD only while one waits (R240): otherwise nothing does. -/
def Obligations.CoreControlActs : Prop :=
  (
    ∀ (c : CoreId) (s : State),
      let k := s.core c.val
      (k.regs.mode = .run → k.pipe.faulting = none →
        ∃ u : State, exec (.haltReq c) s = .next (s.react (u.settle c.val)) ∧
          (u.core c.val).pipe.faulting = some ((s.boundary c.val).1, .halted, (s.boundary c.val).2) ∧
          (u.core c.val).pipe.fetch = [] ∧ (u.core c.val).pipe.held = none ∧ (u.core c.val).arr.tiles = [] ∧
          (u.core c.val).regs.sems = k.regs.sems) ∧
      (k.regs.mode ≠ .run → exec (.haltReq c) s = .next (s.react s)) ∧
      exec (.clear c) s = .next (s.react
        (if k.regs.mode = .run then s
         else ((s.notePhase c.val 0).dropProbe c.val).modCore c.val fun k =>
          { k with
            regs := { k.regs with mode := .idle, phase := 0, faultCause := 0, faultPc := 0 }
            pipe := { CorePipe.reset with issued := k.pipe.issued }
            arr := { k.arr with banks := Tbl.empty, shadow := none, pend := none, tiles := [], flying := [], replay := none } })) ∧
      exec (.start c) s = .next (s.react
        (if k.regs.mode = .idle then s.modCore c.val fun k =>
          { k with
            regs := { k.regs with mode := .run, pc := k.regs.startPc.toNat }
            pipe := { k.pipe with fetch := [], fetchPc := k.regs.startPc.toNat }
            arr := { k.arr with tileSeq := 0 } }
         else s)) ∧
      (k.regs.mode = .run → k.regs.busy = BitVec.allOnes 48 →
        exec (.coreBusyWrap c) s = .next ((s.occur (regKey 0 c.val 0x20) 15).modCore c.val fun k =>
          { k with regs := { k.regs with busy := 0, wrapped := true, wrapCnt := Word.satInc k.regs.wrapCnt } }))) ∧
  (
    ∀ s u : State, (∀ c : CoreId, (u.core c.val).regs.mode = (s.core c.val).regs.mode) → u.fab.queues = [] → u.fab.reshard = none →
      s.react u = u)

/-! ## Chapter 2: formats, accumulation, the scale-pass unit -/

/-- R69, R70 (Tables 2-1, 2-2, 2-4): every format reads back what it stores: converting the value of a code gives the code, and
every NaN gives the canonical one. -/
def Obligations.FormatsRoundTrip : Prop :=
  ∀ (f : NumFmt) (code : Nat), code < 2 ^ (8 * f.bytes) →
    f.encode (f.decode code) = if f.decode code = .nan then f.nanCode else code

/-- R69: rounding to nearest: no finite code of the format lies nearer to a finite value within the format's range than the code
that the conversion gives. Distances are compared as integers at an exponent that all three values can be written at. -/
def Obligations.ConversionIsNearest : Prop :=
  ∀ (f : NumFmt) (neg : Bool) (m : Nat) (e : Int) (code n1 n2 : Nat) (neg1 neg2 : Bool) (e1 e2 lo : Int),
    Val.magLe (.num neg m e) (f.decode f.maxCode) = true →
    f.decode (f.encode (.num neg m e)) = .num neg1 n1 e1 → f.decode code = .num neg2 n2 e2 →
    lo ≤ e → lo ≤ e1 → lo ≤ e2 →
    (Val.intAt neg1 n1 e1 lo - Val.intAt neg m e lo).natAbs ≤ (Val.intAt neg2 n2 e2 lo - Val.intAt neg m e lo).natAbs

/-- R74, R75, R89: a reduction is exact, whatever the order and the grouping of its products: when two groups of products have been
added at one anchor without an overflow, adding all of them in one group, in any order, gives the same accumulator, and drops the same
number of products in all.
R71, Table 2-7: a wide partial carries its accumulator exactly: its code, read at the anchor of its trailer, is the accumulator's
value, for every finite W of at most 2^63 - 2 in magnitude and for each special state. -/
def Obligations.ReductionIsExact : Prop :=
  (
    ∀ (a a1 a2 : Acc) (anchor : Int) (ps qs rs : List Val) (d1 d2 : Nat),
      List.Perm (ps ++ qs) rs → a.addGroup anchor ps = some (a1, d1) → a1.addGroup anchor qs = some (a2, d2) →
      a.addGroup anchor rs = some (a2, d1 + d2)) ∧
  (
    ∀ (a : Acc) (anchor : Int), -Acc.wMax ≤ a.w → a.w ≤ Acc.wMax → Acc.wideVal a.wideCode anchor = a.value anchor)

/-- R65, R68: SPU_SUBMIT appends a descriptor's address to the unit's queue of eight and changes nothing else; a ninth is rejected
with code 5: REJECT sets, SPU_REJECT_CNT counts, SPU_LAST_REJECT tells, and the unit's interrupt source pulses.
R63, R65, R66, R68, R172: once a read slot of its DRAM is free, an enabled unit that is not running takes the first descriptor of its queue. One that Table 2-3's checks pass
reads its source, stores a scale for each block of 32 elements, then every element converted once under its block's scale, and is
the running descriptor, its blocks counted; a block with a poisoned source byte has its scale and elements poisoned and counted, and
the first makes POISON set and voids the current step of the job whose map holds the descriptor.
R68, R466 (SPU_LAST_REJECT.CODE): a descriptor that fails a check is rejected and leaves the queue: code 1 for an address that its
work's map or the device map does not reach, 2 for one that is misaligned, 3 for a reserved field, 4 for a count of blocks that its
layout does not allow, in this order; the unit tells it as for a full queue, and the work that owns the descriptor fails with DETAIL
0x0300 + code.
R67, R68, R172: without a free read slot of its DRAM a unit takes no descriptor; when every output of the running descriptor is visible it completes: DONE sets, SPU_DONE_CNT counts, the unit's
interrupt source pulses, and its post goes out unless PCORE is 0xFF. -/
def Obligations.ScalePassUnit : Prop :=
  (
    ∀ (m : MemId) (a : Addr) (s : State),
      ((s.spu m.val).queue.length < 8 →
        exec (.spuSubmit m a) s = .next (s.modSpu m.val fun u => { u with queue := u.queue ++ [a] })) ∧
      (8 ≤ (s.spu m.val).queue.length →
        exec (.spuSubmit m a) s =
          .next (((s.modSpu m.val fun u =>
            { u with reject := true, rejectCnt := Word.satInc u.rejectCnt, lastCode := 5, lastAddr := a }).occur
            (regKey 4 m.val 8) 17).pulse (0x0E0 + m.val)))) ∧
  (
    ∀ (m : MemId) (x : Env) (s s1 s2 s3 s4 s5 : State) (a : Addr) (rest : List Addr) (cs src again : List Cell) (d : SpuDesc)
      (work : BitVec 16),
      s.slotsFree [.dram m.val] = true →
      (s.spu m.val).en = true → (s.spu m.val).running = none → (s.spu m.val).queue = a :: rest →
      s1 = (s.modSpu m.val fun u => { u with queue := rest }) → work = s1.workAt a.toNat →
      s1.reachDesc work a.toNat = true →
      (s1.withEnv x).load x (s1.regionsOf work) a.toNat 32 = (cs, s2) →
      spuDescOf a.toNat (cellBytes cs) = (d, true) → s2.spuCheck work d true = 0 →
      s2.load x (s2.regionsOf work) d.src (32 * d.blocks * d.elemBytes) = (src, s3) →
      s4 = s3.store (s3.regionsOf work) d.sdst (State.spuScales d src) →
      s4.load { x with ecc := [] } (s4.regionsOf work) d.src (32 * d.blocks * d.elemBytes) = (again, s5) →
      ∃ u v : State,
        u = ((s5.store (s5.regionsOf work) d.dst (State.spuElements d (State.spuScales d src) again)).modSpu m.val fun u =>
          { u with running := some d, blocks := Word.satAdd u.blocks d.blocks
                   poison := u.poison || (State.spuScales d src).any Prod.snd
                   poisonCnt := Word.satAdd u.poisonCnt ((State.spuScales d src).filter Prod.snd).length }) ∧
        exec (.scalePassExecute m x) s = .next (s.react v) ∧
        ((State.spuScales d src).any Prod.snd = false → v = u) ∧
        ((State.spuScales d src).any Prod.snd = true → ∀ (j : Job) (r : StepRun),
          u.job? work = some j → State.currentStep j = some r → v = (u.occur (regKey 4 m.val 8) 18).setVerdict work r.n 0x04)) ∧
  (
    ∀ (m : MemId) (x : Env) (s s1 s2 : State) (a : Addr) (rest : List Addr) (cs : List Cell) (d : SpuDesc) (ok : Bool)
      (work : BitVec 16),
      s.slotsFree [.dram m.val] = true →
      (s.spu m.val).en = true → (s.spu m.val).running = none → (s.spu m.val).queue = a :: rest →
      s1 = (s.modSpu m.val fun u => { u with queue := rest }) → work = s1.workAt a.toNat →
      (s1.reachDesc work a.toNat = true →
        (s1.withEnv x).load x (s1.regionsOf work) a.toNat 32 = (cs, s2) → spuDescOf a.toNat (cellBytes cs) = (d, ok) →
        let reached := s2.reach work d.src (32 * d.blocks * d.elemBytes) false ∧ s2.reach work d.dst (32 * d.blocks) true ∧
          s2.reach work d.sdst d.blocks true
        let aligned := d.src % 64 = 0 ∧ d.dst % 64 = 0 ∧ d.sdst % 64 = 0 ∧ a.toNat % 32 = 0
        let clean := ok = true ∧ (d.pcore = 0xFF ∨ d.pcore.toNat < 176)
        let code : Nat := if 0 < d.blocks ∧ ¬ reached then 1 else if ¬ aligned then 2 else if ¬ clean then 3
          else if d.blocks = 0 ∨ (d.vecLay = true ∧ d.blocks % 64 ≠ 0) then 4 else 0
        code ≠ 0 →
        ∃ v : State,
          v = ((s2.modSpu m.val fun u =>
            { u with reject := true, rejectCnt := Word.satInc u.rejectCnt, lastCode := BitVec.ofNat 8 code
                     lastAddr := a }).occur (regKey 4 m.val 8) 17).pulse (0x0E0 + m.val) ∧
          exec (.scalePassExecute m x) s = .next (s.react (if work = 0xFFFF then v else v.failWork work none (0x0300 + code)))) ∧
      (s1.reachDesc work a.toNat = false →
        ∃ v : State,
          v = ((s1.modSpu m.val fun u =>
            { u with reject := true, rejectCnt := Word.satInc u.rejectCnt, lastCode := 1, lastAddr := a }).occur
            (regKey 4 m.val 8) 17).pulse (0x0E0 + m.val) ∧
          exec (.scalePassExecute m x) s = .next (s.react (if work = 0xFFFF then v else v.failWork work none 0x0301)))) ∧
  (
    ∀ (m : MemId) (s : State) (d : SpuDesc), (s.spu m.val).running = some d →
      (∀ (w : State) (x : Env), w.slotsFree [.dram m.val] = false → exec (.scalePassExecute m x) w = .next (w.react w)) ∧
      ∃ v : State,
        v = ((s.modSpu m.val fun u => { u with running := none, done := true, doneCnt := Word.satInc u.doneCnt }).occur
          (regKey 4 m.val 8) 16).pulse (0x0E0 + m.val) ∧
        exec (.scalePassDone m) s = .next (s.react (if d.pcore = 0xFF then v else v.unitPost d.pcore.toNat d.psem 1)))

/-! ## Chapter 3: the training step -/

/-- R106, R107, R109, R296, R300: STEP_SUBMIT with legal arguments on a job of its own queue waits, changing nothing, until the job's
next step may begin (Table 3-3), and then the step begins with the number that follows the job's latest step, completed or in flight;
arguments out of range are refused. A job without a step in flight numbers its next step one above its last completed one. Beginning:
the step joins the job's steps in flight, its schedule waits to be placed, the job slot and the step parameter lines take its number,
its gradient collectives open, the step gate opens if it may, and the cores start.
R109, R110, Table 3-4: the step gate of a job's oldest step opens once: the run is marked gated under the loss scale that the
training state holds; LS_EXP, PREV_VOID and zeros go into bytes 8 to 63 of the step parameter line of the core, and one is posted to
its gate semaphore. Here for a job of one core that takes part.
R114, R115, R118, R235: the seal of a step completes when this member's verdict is latched and every replica's record has come:
the verdict is the OR of theirs, END_OF_STEP runs with it, and a set verdict ends the step at once. A voided step completes VOIDED with
its cause (REMOTE where the module has none of its own), is the last completed step, and the version that the next step reads is the
copy that was newest; a clear one lets the Separators be loaded. Until then nothing happens. -/
def Obligations.TrainingStepRuns : Prop :=
  (
    ∀ (t : Tag) (x : Env) (s : State) (q : Nat) (f : Flight) (j : Job),
      CommandAt s t 0x24 q f → f.started = false → s.job? f.job = some j → j.queue.val = q → j.stopped = false →
      (s.stepMayBegin j = false → exec (.stepSubmit t x) s = .next s) ∧
      (s.stepMayBegin j = true → x.hostErr = none →
        ∃ v : State, v = s.markStarted q f ∧
        let answer (w : State) := exec (.stepSubmit t x) s = .next (s.react (w.stream q))
        (4096 < f.arg 12 2 → answer (v.refuse q f Status.invalidField 12)) ∧
        (f.arg 12 2 ≤ 4096 → f.arg 16 8 % 64 ≠ 0 → answer (v.refuse q f Status.invalidField 16)) ∧
        (f.arg 12 2 ≤ 4096 → f.arg 16 8 % 64 = 0 → 4096 < f.arg 24 4 → answer (v.refuse q f Status.invalidField 24)) ∧
        (f.arg 12 2 ≤ 4096 → f.arg 16 8 % 64 = 0 → f.arg 24 4 ≤ 4096 → answer ((v.withEnv x).stepBegin q f j))) ∧
      State.stepNumber { j with steps := [] } = j.train.step + 1 ∧
      (∀ w : State, ∃ r : StepRun,
        r.n = State.stepNumber j ∧ r.tag = f.tag ∧ r.queue.val = q % 8 ∧ r.lr.toNat = f.arg 8 4 % 2 ^ 32 ∧
        r.micro = (if f.arg 12 2 = 0 then j.params.micro else BitVec.ofNat 16 (f.arg 12 2)) ∧ r.stage = .passes ∧ r.cause = none ∧
        r.final = none ∧
        w.stepBegin q f j =
          (j.streams.foldl (fun s c => s.coreStart c.core)
            ((((((w.modJob j.id fun j =>
              { j with steps := j.steps ++ [r], submitted := true, clearing := false
                       toPlace := j.toPlace ++ j.schedule.map fun e => { e with step := r.n } }).writeSlotStep j.slot.val
              r.n).writeStepLines j r.n).openGrads j r.n).openGate j.id))).earlySeals j.id)) ∧
  (
    ∀ (s : State) (job : BitVec 16) (j : Job) (r : StepRun) (rest : List StepRun) (c : CoreStream),
      s.job? job = some j → j.steps = r :: rest → r.gated = false → j.stopped = false → j.streams = [c] →
      s.openGate job =
        ((s.modRun job r.n fun r => { r with gated := true, lsExp := j.train.lsExp }).modCore c.core fun k =>
          k.writeScratch (64 * c.stepLine + 8)
            (cleanCells ([Bytes.byte j.train.lsExp.toNat, if j.train.consec = 0 then 0 else 1] ++ Bytes.zeros 54))).unitPost
          c.core (j.params.gateSem.setWidth 6) 1) ∧
  (
    ∀ (s : State) (job : BitVec 16) (j : Job) (r : StepRun) (recs : List SealRec),
      s.job? job = some j → j.steps.find? (fun r => r.final.isNone) = some r →
      recs = (ranked j.replicas).filterMap (fun n => (r.seals.find? fun p => p.1 == n).map (·.2)) →
      ∃ u : State, exec (.sealComplete job) s = .next (s.react (u.passesDone job)) ∧
        (r.latched = false ∨ recs.length ≠ (ranked j.replicas).length → u = s) ∧
        (r.latched = true → recs.length = (ranked j.replicas).length →
          ∃ v : State,
            v = (s.modRun job r.n fun r =>
              { r with final := some (recs.any fun q => q.verdict), stage := .update
                       lsq := BitVec.ofNat 64 (State.sealSum (recs.map fun q => q.lsq.toNat))
                       gsq := BitVec.ofNat 64 (State.sealSum (recs.map fun q => q.gsq.toNat)) }).applyEnd job r.n
              (recs.any fun q => q.verdict) ∧
            (recs.any (fun q => q.verdict) = false → u = v.sepPrepareAll) ∧
            (recs.any (fun q => q.verdict) = true →
              u = (if r.tornDown then v else v.cancelEntries job (some r.n)).closeVoided job r.n)) ∧
        (∀ (w : State) (k : Job) (q : StepRun), w.run? job r.n = some (k, q) →
          w.closeVoided job r.n =
            (((w.abortStep job r.n).discardUpdate job r.n).modJob job fun j =>
              { j with older := j.newest
                       train := { j.train with step := r.n, version := State.nextVersion j.train.rule r.n } }).closeStep
              job q Status.voided (q.cause.getD 0x02).toNat (q.cause.getD 0x02)))

/-- R118: END_OF_STEP. A set verdict counts a skipped step and a skipped step in a row (up to 0xFFFF), lowers the exponent by one but
not below E_MIN, starts the applied steps in a row anew, and logs LOSS_SCALE_STALLED when the skipped steps in a row equal STALL_LIMIT.
A clear verdict counts an applied update, ends the run of skipped steps, and after GROWTH applied steps in a row (never when GROWTH is 0)
raises the exponent by one but not above E_MAX and counts anew. -/
def Obligations.LossScale : Prop :=
  ∀ (p : Params) (t : TrainState),
    (∃ u : TrainState,
      (State.endOfStep p t true).1 = u ∧ u = { t with skipped := u.skipped, consec := u.consec, lsExp := u.lsExp, clean := u.clean } ∧
      u.skipped = t.skipped + 1 ∧ u.consec.toNat = min (t.consec.toNat + 1) 0xFFFF ∧
      u.lsExp.toInt = max (t.lsExp.toInt - 1) p.eMin.toInt ∧ u.clean = 0 ∧
      ((State.endOfStep p t true).2 = true ↔ u.consec = p.stallLim)) ∧
    (∃ u : TrainState,
      (State.endOfStep p t false).1 = u ∧ u = { t with t := u.t, consec := u.consec, lsExp := u.lsExp, clean := u.clean } ∧
      (State.endOfStep p t false).2 = false ∧ u.t = t.t + 1 ∧ u.consec = 0 ∧
      (p.growth ≠ 0 ∧ t.clean + 1 = p.growth → u.lsExp.toInt = min (t.lsExp.toInt + 1) p.eMax.toInt ∧ u.clean = 0) ∧
      (¬ (p.growth ≠ 0 ∧ t.clean + 1 = p.growth) → u.lsExp = t.lsExp ∧ u.clean = t.clean + 1))

/-- R120, R121, R131: GO executes the list of a Separator in IDLE and is ignored otherwise; the list of a shard waits until the shard may
start. With a first descriptor that its checks pass,
of DRAM-tier state and not factored, the Separator runs it from its first segment, the digest reset if FIRST is set.
Table 3-11, R131: ABORT stops a running Separator at its next segment boundary and a waiting one at once, in IDLE without DONE;
in IDLE it does nothing. Nothing but that Separator's place changes.
R121, R123, R131, R172: a running Separator applies the segment that it has come to, once a read slot of its DRAM is free. Where more of the descriptor is left, the next
segment follows, or IDLE if ABORT was asked for; after the last segment of the last descriptor of the list (not factored, DRAM tier)
the descriptor commits (its digest is written if LAST, its post goes out unless PCORE is 0xFF), DONE sets and counts, and the
Separator is IDLE. A descriptor of flash-tier state whose segment or gradient is missing waits.
R135, R136, R137: a collective engine parks the reduced gradient of the next segment of a flash-tier descriptor of this die in a
free segment of its job's parking area: it joins the parked gradients, and PARK_PEAK keeps the largest number. With no free segment the
output is withheld, and the counter of refused cycles runs; when the area also holds no segment that the Separator can apply next, the
step's local verdict is set with cause PARK_ORDER and the Separator aborted. The collectives of the step up to this one have then begun
(R113). While an engine that handles elements of the collective is stopped nothing moves (R226). -/
def Obligations.SeparatorRuns : Prop :=
  (
    ∀ (m : MemId) (s s1 s2 : State) (cs : List Cell) (d : UpdDesc),
      ((s.sep m.val).mode ≠ .idle → exec (.go m) s = .next (s.react s)) ∧
      (∀ j sh, s.sepShard m.val = some (j, sh) → s.shardReady j sh = false → exec (.go m) s = .next (s.react s)) ∧
      ((s.sep m.val).mode = .idle → (∀ j sh, s.sepShard m.val = some (j, sh) → s.shardReady j sh = true) →
        0 < (s.sep m.val).listLen.toNat →
        s1 = (s.modSep m.val fun u => { u with mode := .run, descIndex := 0, segIndex := 0, abortReq := false, cur := none }) →
        s1.mappedRange Tbl.empty (s.sep m.val).list.toNat 128 false = true →
        s1.load State.noEnv Tbl.empty (s.sep m.val).list.toNat 128 = (cs, s2) → anyPoison cs = false →
        updDescOf (cellBytes cs) = d → s2.descBad m.val d = false → d.flash = false → d.opt ≠ some .fact →
        exec (.go m) s =
          .next (s.react (s2.modSep m.val fun u =>
            { u with cur := some d, fact := none, segIndex := 0, digest := if d.first then 0 else u.digest })))) ∧
  (
    ∀ (m : MemId) (s : State),
      exec (.abort m) s = .next (s.modSep m.val fun u =>
        match u.mode with
        | .idle => u
        | .wait => { u with mode := .idle, abortReq := false, cur := none, fact := none }
        | .run => { u with abortReq := true })) ∧
  (
    ∀ (m : MemId) (x : Env) (s v : State) (d : UpdDesc) (n : Nat),
      (s.sep m.val).mode ≠ .idle → (s.sep m.val).cur = some d → (s.sep m.val).segIndex = n →
      (s.slotsFree [.dram m.val] = false → exec (.sepSegment m x) s = .next (s.react s)) ∧
      (s.slotsFree [.dram m.val] = true → d.flash = false → d.opt ≠ some .fact → (s.withEnv x).applySeg x m.val d n = (false, v) →
        ((v.sep m.val).abortReq = true →
          ∃ w : State, w = (v.modSep m.val fun u => { u with mode := .idle, abortReq := false, cur := none, fact := none }) ∧
            exec (.sepSegment m x) s = .next (s.react (w.sepFollow m.val (s.sepOwner m.val) false))) ∧
        ((v.sep m.val).abortReq = false → (v.sep m.val).segIndex + 1 < d.segments →
          exec (.sepSegment m x) s =
            .next (s.react (v.modSep m.val fun u => { u with segIndex := u.segIndex + 1, mode := .run }))) ∧
        ((v.sep m.val).abortReq = false → d.segments ≤ (v.sep m.val).segIndex + 1 → (v.sep m.val).fact = none →
          (v.sep m.val).listLen.toNat = (v.sep m.val).descIndex + 1 →
          ∃ w : State,
            w = ((v.commitDesc d (v.sep m.val).digest).modSep m.val fun u =>
              { u with descIndex := u.descIndex + 1, mode := .idle, done := true, doneCnt := Word.satInc u.doneCnt
                       cur := none, fact := none }).occur (regKey 3 m.val 8) 5 ∧
            exec (.sepSegment m x) s = .next (s.react (w.sepFollow m.val (s.sepOwner m.val) false)))) ∧
      (s.slotsFree [.dram m.val] = true → d.flash = true → (s.withEnv x).segReady m.val d n = false → (s.sep m.val).abortReq = false → x.host = [] →
        exec (.sepSegment m x) s = .next (s.react (s.modSep m.val fun u => { u with mode := .wait })))) ∧
  (
    ∀ (m : MemId) (id seg : Nat) (s b v : State) (c0 c c' : Coll) (d : UpdDesc) (j : Job),
      s.coll? id = some c0 →
      (s.stoppedFor c0 = true → exec (.gradientPark m id seg) s = .next s) ∧
      (s.stoppedFor c0 = false → s.startGrads id = b → b.coll? id = some c → c.grad = some d → b.job? c.job = some j → d.flash = true →
        (∃ sh ∈ j.shards, sh.die = m ∧ d ∈ sh.descs) → c.discard = false → seg = c.parkedSegs → seg < d.segments →
        c.whole b.node = true →
        (b.gradColls c.job c.step).head?.map (·.id) = some id → b.gradReduced id = v → v.coll? id = some c' → c'.discard = false →
        ((v.parkedOf m.val c'.job).length < (j.params.park.getD m.val 0).toNat →
          exec (.gradientPark m id seg) s =
            .next (s.react ((v.modSep m.val fun u =>
              { u with parked := u.parked ++ [{ job := c'.job, step := c'.step, pbase := d.pbase + BitVec.ofNat 64 (seg * segParams)
                                                grads := (c'.reduced.drop (seg * segParams)).take (d.segLen seg) }]
                       parkWait := false
                       parkPeak := BitVec.ofNat 32 (max u.parkPeak.toNat (u.parked.length + 1)) }).modColl id fun c =>
              { c with parkedSegs := seg + 1, progress := v.ns }))) ∧
        ((j.params.park.getD m.val 0).toNat ≤ (v.parkedOf m.val c'.job).length →
          ∃ w : State, w = (v.modSep m.val fun u => { u with parkWait := true }) ∧
          (w.parkDrains m.val j = true → exec (.gradientPark m id seg) s = .next (s.react w)) ∧
          (w.parkDrains m.val j = false →
            exec (.gradientPark m id seg) s =
              .next (s.react (((w.setVerdict c'.job c'.step 0x05).sepAbort m.val).modSep m.val fun u =>
                { u with parkWait := false }))))))

/-- R124 to R126, R128, Table 3-8: one element of an adaptive-moment descriptor: every operation rounded to N32 in the order written,
the moments rounded to S16 as they are stored, the master rounded stochastically from w - delta with the generator word of its
parameter index and step (R130), and the running average kept only on the updates that EMA_INTERVAL names. -/
def Obligations.AdaptiveMomentUpdate : Prop :=
  ∀ (u : Sep) (d : UpdDesc) (b : Option FactBuf) (k : Nat) (x : Elem),
    d.opt = some .am →
    let q (v : Val) : Nat := NumFmt.n32.encode v
    let g' := q ((NumFmt.h16.decode x.g).scale (-u.unscale.toInt))
    let gh := N32.mul g' u.gscale.toNat
    let m := N32.add (N32.mul u.beta1.toNat (N32.widen x.m1)) (N32.mul (N32.sub N32.one u.beta1.toNat) gh)
    let v := N32.add (N32.mul u.beta2.toNat (N32.widen x.v2)) (N32.mul (N32.sub N32.one u.beta2.toNat) (N32.mul gh gh))
    let dd := N32.div (N32.mul m u.bc1.toNat) (N32.add (N32.sqrt (N32.mul v u.bc2.toNat)) d.eps.toNat)
    let eta := N32.mul u.lr.toNat d.lrScale.toNat
    let delta := N32.mul eta (N32.add dd (N32.mul d.decay.toNat (q (NumFmt.m40.decode x.w))))
    let word := mix64 (mix64 (u.seed.toNat ^^^ mix64 u.step.toNat) ^^^ ((d.pbase.toNat + k) % 2 ^ 64))
    let w' := srM40 (Val.add (NumFmt.m40.decode x.w) (NumFmt.n32.decode delta).negate) word
    let a' := if d.emaEn = true ∧ u.t.toNat % d.emaInt.toNat = 0 then
        N32.narrow (N32.add (N32.mul d.emaDecay.toNat (N32.widen x.ema))
          (N32.mul (N32.sub N32.one d.emaDecay.toNat) (q (NumFmt.m40.decode w'))))
      else x.ema
    (updateElem (stepConsts u d) d b k x).1 = { w := w', m1 := N32.narrow m, v2 := N32.narrow v, ema := a', g := x.g }

/-- R129: stochastic rounding of a master. For an exact x = w - delta that is not zero and not beyond the range of M40, with ulp = 2^q
the M40 unit in the last place at |x|: a multiple of ulp is stored as it is; otherwise, with lo the truncation of |x| to a multiple of
ulp and f its remainder in 2^-32 parts of ulp rounded to nearest even, the stored value has magnitude lo + ulp when the low 32 bits of
the generator word are below f, and lo otherwise, with the sign of x. -/
def Obligations.StochasticRounding : Prop :=
  ∀ (neg : Bool) (m : Nat) (e : Int) (w : Nat),
    0 < m → Val.magLe (.num neg m e) (NumFmt.m40.decode NumFmt.m40.maxCode) = true →
    let q : Int := max (Val.log2 (.num neg m e)) (-126) - 31
    (q ≤ e → Val.same (NumFmt.m40.decode (srM40 (.num neg m e) w)) (.num neg m e) = true) ∧
    (e < q →
      let k := (q - e).toNat
      let f := NumFmt.roundShift (m % 2 ^ k * 2 ^ 32) k
      Val.same (NumFmt.m40.decode (srM40 (.num neg m e) w))
        (.num neg (if w % 2 ^ 32 < f then m / 2 ^ k + 1 else m / 2 ^ k) q) = true)

/-- R128 ("and nothing else"): applying a segment of a DRAM-tier descriptor that its checks pass changes no byte of DRAM outside the
segment's masters, moments, running average and forward copy with its scales, and nothing of the state but DRAM, the Separator of its
own die, the mark of a status bit that it sets in this cycle (R8), and the counters of the memory dies that its accesses pass. -/
def Obligations.SeparatorWritesOnlyItsOutputs : Prop :=
  ∀ (s v : State) (m : MemId) (d : UpdDesc) (k : Nat),
    s.memWf = true → s.descBad m.val d = false → d.flash = false → k < d.segments → s.applySeg State.noEnv m.val d k = (false, v) →
    v = { s with dram := v.dram, seps := v.seps, mems := v.mems, fresh := v.fresh } ∧
    (∀ i : Nat, i ≠ m.val → v.sep i = s.sep i) ∧
    (∀ a : Nat,
      (∀ r ∈ State.segArrays d,
        a < State.allocView r.1 + r.2 * (k * segParams) ∨ State.allocView r.1 + r.2 * (k * segParams + d.segLen k) ≤ a) →
      (d.f8En = true →
        (a < State.allocView d.f8dst + k * segParams ∨ State.allocView d.f8dst + k * segParams + d.segLen k ≤ a) ∧
        (a < State.allocView d.f8sdst + k * segParams / 32 ∨ State.allocView d.f8sdst + k * segParams / 32 + d.segLen k / 32 ≤ a)) →
      v.dram.bytes.find? a = s.dram.bytes.find? a)

/-- R123, R132, R138, R140: a step commits when every output is in place, and not before. Its commit makes the next generation of each
object that it wrote current, applies the digests of its shards, makes the written forward-copy slot the newest under the two-version
rules, and sets STEP and VERSION. When a digest exchange is due and the job has other replicas, this module's digests leave for them and the step waits for theirs, once no RESHARD waits (R240); otherwise it
completes and the Separators are loaded for what comes next.
R140, R141: the digest exchange of a step completes once the digests of every other replica have come, each once and for that
step; they are compared, the step completes, and the next is prepared. A shard on which all agree is left as it is; on a mismatch an
event record is written, and with a strict majority the shard is repaired from the majority's replica of the lowest node, else it is
marked DIVERGED. -/
def Obligations.StepEnds : Prop :=
  (
    ∀ (s : State) (job : BitVec 16) (j : Job) (r : StepRun) (rest : List StepRun),
      s.job? job = some j → j.steps = r :: rest →
      (s.commitReady j r = false → exec (.stepCommit job) s = .next (s.react s)) ∧
      (s.commitReady j r = true →
        (r.n.toNat % max 1 j.params.digestInt.toNat = 0 ∧ 1 < j.replicas.length → s.fab.reshard.isSome = true →
          exec (.stepCommit job) s = .next (s.react s)) ∧
        (r.n.toNat % max 1 j.params.digestInt.toNat = 0 ∧ 1 < j.replicas.length → s.fab.reshard = none →
          exec (.stepCommit job) s =
            .next (s.react (((s.commitStep job r.n).modRun job r.n fun r => { r with stage := .exchange }).sendDigests job r.n))) ∧
        (¬ (r.n.toNat % max 1 j.params.digestInt.toNat = 0 ∧ 1 < j.replicas.length) →
          exec (.stepCommit job) s =
            .next (s.react ((((s.commitStep job r.n).closeApplied job r.n).passesDone job).sepPrepareAll)))) ∧
      ((∀ sh ∈ j.shards, ∀ d ∈ sh.descs, d.flash = false) →
        s.commitStep job r.n = (s.commitObjs job).modJob job fun j =>
        { j with shards := j.shards.map fun sh => { sh with digest := sh.newDigest, finished := false }
                 older := j.newest
                 newest := if j.params.rule = 0 then j.newest else !j.newest
                 train := { j.train with step := r.n, version := State.nextVersion j.train.rule r.n } })) ∧
  (
    ∀ (s : State) (job : BitVec 16) (peers : List PeerDigests) (j : Job) (r : StepRun) (rest : List StepRun),
      s.job? job = some j → j.steps = r :: rest → r.stage = .exchange →
      (s.peersCover j peers = true → (∀ p ∈ peers, p.step = r.n) →
        exec (.digestExchangeDone job peers) s =
          .next (s.react ((((s.compareDigests job r.n peers).closeApplied job r.n).passesDone job).sepPrepareAll))) ∧
      (∀ (me : BitVec 12) (sh : Shard) (others : List (BitVec 12 × BitVec 64)),
        ((∀ p ∈ others, p.2 = sh.digest) → s.compareShard job r.n me sh others = s) ∧
        (¬ (∀ p ∈ others, p.2 = sh.digest) →
          let all := ((me, sh.digest) :: others).foldr State.insertNode []
          ∃ v : State, (∃ payload, v = s.fwEvent 0x0021 true job.toNat payload) ∧
            ((∀ p ∈ all, 2 * (all.filter fun q => q.2 == p.2).length ≤ all.length) →
              s.compareShard job r.n me sh others =
                v.modShard job sh.num fun sh => { sh with diverged := true, repair := none }) ∧
            ((∃ p ∈ all, all.length < 2 * (all.filter fun q => q.2 == p.2).length) →
              ∃ p ∈ all, all.length < 2 * (all.filter fun q => q.2 == p.2).length ∧
                (∀ q ∈ all, q.2 = p.2 → p.1.toNat ≤ q.1.toNat) ∧
                s.compareShard job r.n me sh others =
                  v.modShard job sh.num fun sh => { sh with repair := some p.1, diverged := false }))))

/-! ## Chapter 4: memory tiers and the Almanac -/

/-- R152, R153, R462: what a write to DRAM changes, byte by byte and unit by unit: each byte of the range reads as written and every
other byte as before; a 64-byte unit that takes a poisoned byte is poisoned, one that the write covers whole with clean bytes is clean,
and any other keeps its mark. Nothing but DRAM changes, and its lists keep their canonical form.
R14, R19: the same of a core's scratchpad, in which a byte that nothing has written since start-up reads as zero. -/
def Obligations.MemoryReadsBack : Prop :=
  (
    ∀ (s : State) (a : Nat) (cs : List Cell), s.memWf = true →
      s.dramWrite a cs = { s with dram := (s.dramWrite a cs).dram } ∧
      (∀ (d : Nat → Byte) (b : Nat),
        (s.dramWrite a cs).dram.byteAt d b =
          if a ≤ b ∧ b < a + cs.length then (cs.getD (b - a) (0, false)).1 else s.dram.byteAt d b) ∧
      (∀ u : Nat, u % 64 = 0 →
        (s.dramWrite a cs).dram.markAt (Config.dramPoison (s.memDie (a / dieSpan)).keyGen) u =
          if ∃ i, i < cs.length ∧ (a + i) / 64 * 64 = u ∧ (cs.getD i (0, false)).2 = true then true
          else if a ≤ u ∧ u + 64 ≤ a + cs.length then false
          else s.dram.markAt (Config.dramPoison (s.memDie (a / dieSpan)).keyGen) u) ∧
      (s.dramWrite a cs).memWf = true) ∧
  (
    ∀ (k : Core) (a : Nat) (cs : List Cell), k.memWf = true →
      (k.writeScratch a cs).memWf = true ∧
      k.writeScratch a cs = { k with scratch := (k.writeScratch a cs).scratch } ∧
      (∀ b : Nat, (k.writeScratch a cs).readScratch b 1 =
        [(if a ≤ b ∧ b < a + cs.length then (cs.getD (b - a) (0, false)).1 else k.scratch.byteAt (fun _ => 0) b,
          if ∃ i, i < cs.length ∧ (a + i) / 64 = b / 64 ∧ (cs.getD i (0, false)).2 = true then true
          else if a ≤ b / 64 * 64 ∧ b / 64 * 64 + 64 ≤ a + cs.length then false
          else k.scratch.markAt (fun _ => false) b)]))

/-- R154, R155, R193: each patrol-scrub read of a memory die in service moves SCRUB_POS on by one 64-byte unit, or begins the next pass
when the die's end is reached; a corrected error counts under its channel; an uncorrectable one poisons the unit, sets MEM_STATUS.UE,
MEM_UE_ADDR and its counter, pulses the die's interrupt source, poisons and drops a resident copy that holds the unit, and makes a DRAM-home
object that holds it POISONED, every byte of it. Refresh and calibration change nothing.
R155: a pass that has not ended 24 h after it began, and at every further 24 h, sets OVERDUE, counts, pulses the die's source and
writes an event record for the host with the hours of the pass and the bytes left.
R158, R160, R163, R189, R192, R437: a rebuild of a page of a stripe unit of a readable flash-home object reads the other pages of its
stripe, which page it is being open, and the launched entries that read the unit have met it. One that succeeds is counted on its die,
unit mod 4, and relocates the stripe where a program may begin; one that fails makes the object POISONED: its copy is dropped, the
die's POISON sets and counts, an event record tells the host, and the promotions that waited complete POISONED.
R163, R164, R437, R448: where a program or an erase may begin, collection returns erased blocks, up to the die's blocks; wear levelling and use only raise the two wear figures; a
block that is due is refreshed: erased blocks are taken, the refresh counts, and the block's reads count anew; with none due nothing
happens. While WP_N is asserted, the flash rails are off or a power-fail sequence runs, nothing of this begins. A write that waits on a die
below FLOOR proceeds when the die has its free blocks again, and not before. -/
def Obligations.MemoryAndFlashDies : Prop :=
  (
    ∀ (m : MemId) (s : State), (s.memDie m.val).capacity ≠ 0 →
      exec (.patrolScrub m .clean) s = .next (s.scrubNext m.val) ∧
      (∀ ch : Fin 4, exec (.patrolScrub m (.corrected ch)) s =
        .next ((s.modMem m.val fun d =>
          { d with ceCnt := d.ceCnt.set 0 ch.val (Word.satInc (d.ceCnt.get 0 ch.val)) }).scrubNext m.val)) ∧
      (∃ unit : Nat, unit = (m.val * dieSpan + (s.memDie m.val).scrubPos.toNat) / 64 * 64 ∧
        ∃ u : State, exec (.patrolScrub m .uncorrectable) s = .next (u.scrubNext m.val) ∧
          ((s.memDie m.val).scrubPos.toNat < dieSpan →
            u.dram.poison.find? unit = some true ∧
            (∃ copies, u.memDie m.val =
              { s.memDie m.val with ue := true, ueAddr := BitVec.ofNat 48 unit, ueCnt := Word.satInc (s.memDie m.val).ueCnt
                                    copies := copies }) ∧
            (u.src (0x0E4 + m.val)).pulse = (s.src (0x0E4 + m.val)).pulse + 1) ∧
          (∀ (oid : Nat) (o : Obj), s.obj? oid = some o →
            u.obj? oid = some (if o.copyHolds unit = true then o.dropCopy
              else if o.homeHolds unit = true ∧ o.mode ≠ .writing then
                { o with mode := .poisoned, resident := none, refs := if o.mode = .promoting then o.refs - 1 else o.refs }
              else o) ∧
            ((o.copyHolds unit = true ∨ o.homeHolds unit = true ∧ o.mode ≠ .writing) →
              ∀ i : Nat, i < o.len →
                u.dram.markAt (fun _ => false) ((if o.copyHolds unit = true then o.resident.getD 0 else o.addr) + i) = true)) ∧
          u = { s with dram := u.dram, mems := u.mems, objs := u.objs, ic := u.ic, fresh := u.fresh }) ∧
      s.scrubNext m.val = (s.modMem m.val fun d =>
        if d.scrubPos.toNat + 64 < d.capacity then { d with scrubPos := d.scrubPos + 64 }
        else { d with scrubPos := 0, scrubStart := s.now, overdueHrs := 0 }) ∧
      ∀ ch : Fin 4, exec (.refreshAndCalibration m ch) s = .next s) ∧
  (
    ∀ (m : MemId) (s : State), (s.memDie m.val).capacity ≠ 0 →
      (s.scrubHours m.val < (s.memDie m.val).overdueHrs + 24 → exec (.scrubOverdue m) s = .next s) ∧
      ((s.memDie m.val).overdueHrs + 24 ≤ s.scrubHours m.val →
        exec (.scrubOverdue m) s =
          .next ((((s.modMem m.val fun d =>
            { d with overdue := true, ovdCnt := Word.satInc d.ovdCnt, overdueHrs := d.overdueHrs + 24 }).occur
              (regKey 5 m.val 0) 1).pulse (0x0E4 + m.val)).event 0x0070 0x02 m.val true 0xFF 0xFFFF
            (Bytes.ofNat 8 (s.scrubHours m.val) ++
              Bytes.ofNat 8 ((s.memDie m.val).capacity - (s.memDie m.val).scrubPos.toNat))))) ∧
  (
    ∀ (oid : BitVec 32) (unit : Nat) (s : State) (o : Obj),
      s.objs.find? oid.toNat = some o → o.home = .flash → o.committed = true → o.mode ≠ .poisoned → o.mode ≠ .writing →
      unit * unitBytes < o.len →
      ∃ (k : Nat) (r a : State), k < 7 ∧
        r = (({ s with free := s.free + 1 } : State).modFlash (unit % 4) fun d => d.readOthers (unitKey oid.toNat unit) k).modAlm
          (fun b => { b with table := b.table.map fun p => if State.unitRead oid.toNat unit p then { p with rebuilding := true } else p }) ∧
        a = (r.modFlash (unit % 4) fun d => { d with rebuildCnt := Word.satInc d.rebuildCnt }) ∧
        (s.mayProgram = true → exec (.parityRebuild oid unit true) s = .next ((a.takeBlocks (unit % 4)).moveUnit oid.toNat unit)) ∧
        (s.mayProgram = false → exec (.parityRebuild oid unit true) s = .next a) ∧
        (∃ u v : State,
          u = (r.blameEntry oid.toNat unit).poisonObject oid.toNat o (o.bad.set false (unit * unitBytes) true) ∧
          (u.obj? oid.toNat).map (fun p => (p.mode, p.resident, p.promoteTags)) = some (.poisoned, none, []) ∧
          v = ((u.modFlash (unit % 4) fun d => { d with poison := true, poisonCnt := Word.satInc d.poisonCnt }).occur
              (regKey 6 (unit % 4) 0) 9).event 0x0033 0x03
            (unit % 4) true 0xFF 0xFFFF (Bytes.ofNat 4 oid.toNat ++ Bytes.zeros 4 ++ Bytes.ofNat 8 (unit * unitBytes)) ∧
          exec (.parityRebuild oid unit false) s =
            .next (o.promoteTags.foldl (fun s t => s.finishTag (some t) Status.poisoned 0 0 0) v))) ∧
  (
    ∀ (f : FlashId) (s : State),
      (∀ w : FlashWork, s.power.flashRail = false ∨ s.power.wpN = true ∨ s.power.failing = true →
        exec (.flashBackgroundWork f w) s = .next s) ∧
      (∀ w : FlashWork, s.mayProgram = true → w ≠ .refresh → ∃ g : FlashDie → FlashDie, exec (.flashBackgroundWork f w) s = .next (s.modFlash f.val g) ∧
        ∀ d : FlashDie,
          match w with
          | .collect n => g d = { d with freeBlocks := BitVec.ofNat 32 (min d.blocks (d.freeBlocks.toNat + n.toNat)) }
          | .wearLevel hi used =>
            ∃ a b, g d = { d with wearMax := a, wearUsed := b } ∧ a.toNat = max d.wearMax.toNat hi.toNat ∧
              b.toNat = max d.wearUsed.toNat used.toNat
          | .refresh => True) ∧
      ((s.flash f.val).refreshDue = none → exec (.flashBackgroundWork f .refresh) s = .next s) ∧
      (∀ b, s.mayProgram = true → (s.flash f.val).refreshDue = some b →
        exec (.flashBackgroundWork f .refresh) s = .next ((s.takeBlocks f.val).modFlash f.val fun d => d.refresh f.val) ∧
        ((s.flash f.val).refresh f.val).refreshCnt = Word.satInc (s.flash f.val).refreshCnt ∧
        ∀ k, k / 8 = b → ((s.flash f.val).refresh f.val).reads.get 0 k = 0) ∧
      exec (.flashWriteResume f) s =
        .next (if (s.flash f.val).freeBlocks.toNat * 1000 < (s.flash f.val).floor.toNat * (s.flash f.val).blocks then s
          else s.modFlash f.val fun d => { d with waiting := false }))

/-- R157, R167, R298: OBJ_CREATE makes an object of the identifier asked for, or of the lowest free one, in state WRITING with no
reference, and answers its identifier; an identifier in use is refused. A DRAM home must be aligned and lie in one die's DRAM outside
the device area, a flash home must fit the usable flash, a host home must end within 64 bits.
R157, R166, R168, R192, R298, R315, R361: OBJ_WRITE, in bounds and, of an object in flash, within the usable flash, on an object that
holds no reference and no write begins the write (it completes at its commit), with the bytes that host memory holds; otherwise it is
deferred, answers DEFERRED, and waits behind what was deferred before. A write of the whole of a POISONED object begins and makes it
WRITING; one of a part is refused, as is one of a part of a sealed object. The references are those that the object counts and those of
commands that wait. OBJ_DELETE and OBJ_EVICT take effect at once, or are deferred while references are held; OBJ_WITHDRAW withdraws a
pending eviction and tells whether it did. An eviction is kept until the control cycle ends, for a promotion of that cycle.
R148, R166, R168, R172, R192, R298, R361: OBJ_READ of a range of a readable object writes its bytes to host memory and answers OK, or
POISONED with the offset of the first poisoned 64-byte unit; while the object is WRITING, or its first read finds no slot, it waits, with
a reference on the object. OBJ_PROMOTE waits so as well; it is refused on a POISONED object; otherwise it withdraws a pending eviction,
begins the promotion of an object in HOME at the address asked for, answers the address of a RESIDENT one, and joins those that wait for a
PROMOTING one; one that an eviction of the same control cycle has just left answers the address that it had, and such an eviction, handled
after it, leaves pending nothing that was not pending before. -/
def Obligations.ObjectCommands : Prop :=
  (
    ∀ (t : Tag) (s v : State) (q : Nat) (f : Flight) (home : Home) (oid : Nat),
      CommandAt s t 0x10 q f → v = s.markStarted q f → f.arg 8 4 ≠ 0xFFFFFFFF → State.homeOf (f.arg 12 1) = some home →
      oid = (if f.arg 8 4 = 0 then v.freeOid else f.arg 8 4) → 0 < f.arg 16 8 →
      (home = .flash → f.arg 24 8 = 0) → (home = .host → f.arg 24 8 + f.arg 16 8 ≤ 2 ^ 64) →
      ((v.obj? oid).isSome = true → exec (.objCreate t) s = .next ((v.refuse q f Status.inUse 8).stream q)) ∧
      (v.obj? oid = none →
        (home = .dram → f.arg 24 8 % 64 = 0 ∧ f.arg 24 8 < 0x40000000000 ∧ v.oneDram (f.arg 24 8) (f.arg 16 8) = true ∧
          v.inArea (f.arg 24 8) (f.arg 16 8) = false) →
        (home = .flash → v.flashUsed + Word.roundUp (f.arg 16 8) unitBytes ≤ v.flashUsable) →
        (Obj.new home (f.arg 16 8) (f.arg 24 8)).mode = .writing ∧ (Obj.new home (f.arg 16 8) (f.arg 24 8)).refs = 0 ∧
        AnswersFrom (.objCreate t) s q f
          { v with objs := v.objs.put oid (Obj.new home (f.arg 16 8) (f.arg 24 8)) }
          Status.ok 0 (BitVec.ofNat 32 oid) 0)) ∧
  (
    ∀ (t : Tag) (x : Env) (s v w : State) (q : Nat) (f : Flight) (o : Obj) (oid : Nat),
      v = s.markStarted q f → w = v.withEnv x → oid = f.arg 8 4 →
      (CommandAt s t 0x11 q f → x.hostErr = none → w.obj? oid = some o → f.arg 16 8 % 64 = 0 → 0 < f.arg 24 8 →
        f.arg 32 8 % 64 = 0 → (o.home ≠ .flash → f.arg 16 8 + f.arg 24 8 ≤ o.created) →
        (Bytes.bit (f.arg 12 1) 0 = false → o.mode = .poisoned → exec (.objWrite t x) s = .next ((w.refuse q f Status.poisoned 0).stream q)) ∧
        (Bytes.bit (f.arg 12 1) 0 = false → o.mode ≠ .poisoned → w.sealedObj oid o = true →
          exec (.objWrite t x) s = .next ((w.refuse q f Status.notPermitted 0x09).stream q)) ∧
        ((o.mode = .poisoned ∨ w.sealedObj oid o = true → Bytes.bit (f.arg 12 1) 0 = true) →
        (o.home = .flash → f.arg 16 8 + f.arg 24 8 ≤ w.flashUsable ∧
          w.flashUsed + Word.roundUp (if Bytes.bit (f.arg 12 1) 0 = true then f.arg 16 8 + f.arg 24 8 else f.arg 24 8) unitBytes ≤
            w.flashUsable) →
        ∃ wr : PendingWrite,
          wr = { whole := Bytes.bit (f.arg 12 1) 0, offset := f.arg 16 8, len := f.arg 24 8, haddr := BitVec.ofNat 64 (f.arg 32 8),
                 bytes := w.hostBytes (f.arg 32 8) (f.arg 24 8), began := false, tag := some (Fin.ofNat 8 q, f.tag) } ∧
          (o.mode = .poisoned → exec (.objWrite t x) s =
            .next (((w.modObj oid fun o => { o with mode := .writing }).beginWrite oid wr).stream q)) ∧
          (o.mode ≠ .poisoned → w.refsOf oid o = 0 → o.writes = [] → exec (.objWrite t x) s = .next ((w.beginWrite oid wr).stream q)) ∧
          (o.mode ≠ .poisoned → w.refsOf oid o ≠ 0 ∨ o.writes ≠ [] →
            AnswersFrom (.objWrite t x) s q f
              (w.modObj oid fun o => { o with writes := o.writes ++ [{ wr with bytes := [], tag := none }] }) Status.deferred 0 0 0))) ∧
      (v.obj? oid = some o →
        (CommandAt s t 0x13 q f →
          (v.refsOf oid o = 0 → o.writes = [] → AnswersFrom (.objDelete t) s q f (v.freeObj oid) Status.ok 0 0 0) ∧
          (v.refsOf oid o ≠ 0 ∨ o.writes ≠ [] →
            AnswersFrom (.objDelete t) s q f (v.modObj oid fun o => { o with delPend := true }) Status.deferred 0 0 0)) ∧
        (CommandAt s t 0x15 q f → ∀ e : Evict,
          e = { oid := oid, was := if o.mode = .resident ∧ v.refsOf oid o = 0 then o.resident else none, queue := Fin.ofNat 8 q, n := f.n,
                pend := o.evictPend } →
          let n := v.refsOf oid o
          let v : State := { v with evicts := e :: v.evicts }
          (o.mode = .promoting ∨ (o.mode = .resident ∧ n ≠ 0) →
            AnswersFrom (.objEvict t) s q f (v.modObj oid fun o => { o with evictPend := true }) Status.deferred 0 0 0) ∧
          (o.mode = .resident → n = 0 → AnswersFrom (.objEvict t) s q f (v.dropCopy oid) Status.ok 0 0 0) ∧
          (o.mode ≠ .resident → o.mode ≠ .promoting → AnswersFrom (.objEvict t) s q f v Status.ok 0 0 0)) ∧
        (CommandAt s t 0x16 q f →
          AnswersFrom (.objWithdraw t) s q f (v.withdraw oid) Status.ok 0 (if o.evictPend then 1 else 0) 0 ∧
          v.withdraw oid = if o.evictPend = true then
              (v.modObj oid fun o => { o with evictPend := false }).fwEvent 0x0031 true 0xFFFF (Bytes.ofNat 4 oid)
            else v)) ∧
      (v.obj? oid = none →
        (CommandAt s t 0x13 q f → exec (.objDelete t) s = .next ((v.refuse q f Status.notFound 8).stream q)) ∧
        (CommandAt s t 0x15 q f → exec (.objEvict t) s = .next ((v.refuse q f Status.notFound 8).stream q)) ∧
        (CommandAt s t 0x16 q f → exec (.objWithdraw t) s = .next ((v.refuse q f Status.notFound 8).stream q)))) ∧
  (
    ∀ (t : Tag) (x : Env) (s w : State) (q : Nat) (f : Flight) (o : Obj) (oid : Nat),
      w = (s.markStarted q f).withEnv x → oid = f.arg 8 4 → w.obj? oid = some o → x.hostErr = none → f.started = false →
      w.sealedObj oid o = false →
      (CommandAt s t 0x12 q f → f.arg 12 1 = 0 → f.arg 16 8 % 64 = 0 → f.arg 16 8 + f.arg 24 8 ≤ o.len → f.arg 32 8 % 64 = 0 →
        let slots := w.slotsFree (w.objSlots oid o (f.arg 16 8) (f.arg 24 8))
        (o.mode = .writing ∨ slots = false → exec (.objRead t x) s = .next ((w.holdObjs q f [oid]).stream q)) ∧
        (o.mode ≠ .writing → slots = true → ∀ (cs : List Cell) (u : State), w.objCells x oid o (f.arg 16 8) (f.arg 24 8) = (cs, u) →
          (anyPoison cs = false → AnswersFrom (.objRead t x) s q f (u.hostWrite (f.arg 32 8) cs) Status.ok 0 0 0) ∧
          (∀ i : Nat, (cs.getD i (0, false)).2 = true → (∀ j : Nat, j < i → (cs.getD j (0, false)).2 = false) →
            AnswersFrom (.objRead t x) s q f (u.hostWrite (f.arg 32 8) cs) Status.poisoned 0 0
              (BitVec.ofNat 64 (max (f.arg 16 8) ((f.arg 16 8 + i) / 64 * 64)))))) ∧
      (CommandAt s t 0x14 q f → o.promoteTags.contains (Fin.ofNat 8 q, f.tag) = false →
        let slots := w.slotsFree (w.objSlots oid o 0 o.len)
        let p := (w.holdObjs q f []).promoteReaches oid
        (o.mode = .poisoned → exec (.objPromote t x) s = .next ((w.refuse q f Status.poisoned 0).stream q)) ∧
        (o.mode = .writing ∨ o.mode = .home ∧ slots = false → exec (.objPromote t x) s = .next ((w.holdObjs q f [oid]).stream q)) ∧
        (o.mode = .resident → AnswersFrom (.objPromote t x) s q f p Status.ok 0 0 (BitVec.ofNat 64 (o.resident.getD 0))) ∧
        (o.mode = .promoting → exec (.objPromote t x) s =
          .next ((p.modObj oid fun o => { o with promoteTags := o.promoteTags ++ [(Fin.ofNat 8 q, f.tag)] }).stream q)) ∧
        (∀ e r, o.mode = .home → slots = true → w.evictOf oid = some e → e.was = some r →
          AnswersFrom (.objPromote t x) s q f p Status.ok 0 0 (BitVec.ofNat 64 r)) ∧
        (o.mode = .home → slots = true → w.evictOf oid = none → f.arg 16 6 ≠ 0 → w.oneDram (f.arg 16 6) o.len = true →
          exec (.objPromote t x) s = .next ((p.modObj oid fun o =>
            { o with mode := .promoting, resident := some (State.allocView (f.arg 16 6)), refs := o.refs + 1
                     promoteTags := [(Fin.ofNat 8 q, f.tag)] }).stream q)) ∧
        (w.evictOf oid = none → p = (w.holdObjs q f []).withdraw oid) ∧
        (∀ e, w.evictOf oid = some e → e.pend = false → p = w.holdObjs q f [])))

/-- R159, R162, R166, R167, R169, R298: the oldest write of an object in progress commits: its bytes reach the home, of a flash home by
the units that both copies of the translation tables then name, the generation counts on,
a WRITING object, or a POISONED one that is written whole (R192), is in HOME, the write's reference is released, the length is what R298 says, and the command completes OK (or, for a
deferred one, an event record tells). Here for an object with no resident copy; a flash write that a die holds back does not commit.
R168, R315: what was deferred takes effect once no reference is held, one thing at a time: a pending eviction first, then the
oldest deferred write (its bytes read from the host now), then a pending delete; while a reference is held nothing does. (A promotion
that has outlived its command and its entry completes first.) -/
def Obligations.ObjectsCommitAndDefer : Prop :=
  (
    ∀ (oid : BitVec 32) (x : Env) (s : State) (o : Obj) (w : PendingWrite) (rest : List PendingWrite),
      (s.withEnv x).obj? oid.toNat = some o → o.writes.filter (fun w => w.began) = w :: rest → o.mode ≠ .resident →
      (o.home = .flash → (s.withEnv x).flashReady w.offset w.len = false → exec (.objGenerationCommit oid x) s = .next (s.withEnv x)) ∧
      ((o.home = .flash → (s.withEnv x).flashReady w.offset w.len = true) →
        ∃ u : State,
          (let a := (s.withEnv x).applyWrite o w
           let b := if o.home ≠ .flash then a
             else if w.whole then (a.unmapUnits oid.toNat).mapUnits oid.toNat (unitsOf 0 (w.offset + w.len))
             else a.mapUnits oid.toNat (unitsOf w.offset w.len)
           u = b.modObj oid.toNat (fun p =>
            { p with
              writes := rest ++ o.writes.filter (fun v => !v.began)
              data := if o.home = .flash then State.putData (if w.whole then Tbl.empty else o.data) w.offset w.bytes else p.data
              bad := if w.whole then Tbl.empty else p.bad
              len := if w.whole then w.offset + w.len else max o.len (w.offset + w.len)
              gen := p.gen + 1
              mode := if p.mode = .writing ∨ (p.mode = .poisoned ∧ w.whole = true) then .home else p.mode
              committed := true
              refs := p.refs - 1 })) ∧
          (∀ g, w.tag = some g → exec (.objGenerationCommit oid x) s = .next (u.finishTag (some g) Status.ok 0 0 0)) ∧
          (w.tag = none → exec (.objGenerationCommit oid x) s =
            .next (u.fwEvent 0x0032 true 0xFFFF (Bytes.ofNat 4 oid.toNat ++ Bytes.zeros 4 ++ Bytes.ofNat 8 (o.gen + 1)))))) ∧
  (
    ∀ (oid : BitVec 32) (x : Env) (s : State) (o : Obj), s.obj? oid.toNat = some o →
      (s.orphaned oid.toNat o = true →
        exec (.deferredTakesEffect oid x) s = .next (s.finishPromotion x oid.toNat true).2) ∧
      (s.orphaned oid.toNat o = false →
      (s.refsOf oid.toNat o ≠ 0 → exec (.deferredTakesEffect oid x) s = .next s) ∧
      (s.refsOf oid.toNat o = 0 → o.evictPend = true → exec (.deferredTakesEffect oid x) s =
        .next (((s.dropCopy oid.toNat).modObj oid.toNat fun o => { o with evictPend := false }).fwEvent 0x0030 true 0xFFFF
          (Bytes.ofNat 4 oid.toNat))) ∧
      (∀ (w : PendingWrite) (rest : List PendingWrite), s.refsOf oid.toNat o = 0 → o.evictPend = false →
        o.writes.filter (fun w => !w.began) = w :: rest → x.hostErr = none →
        ∃ u : State,
          u = (s.modObj oid.toNat fun o => { o with writes := o.writes.filter (fun v => v.began) ++ rest }).withEnv x ∧
          exec (.deferredTakesEffect oid x) s =
            .next (u.beginWrite oid.toNat { w with bytes := u.hostBytes w.haddr.toNat w.len })) ∧
      (s.refsOf oid.toNat o = 0 → o.evictPend = false → o.writes.filter (fun w => !w.began) = [] → o.delPend = true →
        exec (.deferredTakesEffect oid x) s = .next (s.freeObj oid.toNat))))

/-- R175, R177, R178, R183: the firmware places the next entry of a job or group that waits, when the table of 4,096 has room: its
versioned source is resolved; an entry that names a FREE object, or that breaks a rule of R177, fails its step; any other takes the next
identifier, PEAK follows, and when its launch time has passed it counts as TLATE. An entry of a step later than its slot's waits, and one
of a step or a job that no slot holds is passed over. The
last clause is for an entry that names no object.
R178: a write to ALM_SLOT_STEP moves the step and its clock into the slot's previous step, takes the new step at clock 0, and lets
stale entries retire; while a previous step is held it is ignored. R186, R187: ALM_CANCEL_STEP cancels every entry of ALM_CANCEL_JOB's
job of that step (of every step for all ones): those that have not launched leave the table, those that have are marked, and the others
stay; the cancellation completes when no entry is marked. R8: reading ALM_USED and SEP_PARK_PEAK gives the peak and makes it the current
value.
R180, R181, R182, R185, R327: entries whose time has come take their gates, until none is left that could take one. An entry that may
then launch, before which no other ready entry comes in launch time, SEQ and job slot, launches; one that may not changes nothing
further. A launched fetch brings its source's cells to its destination: its full semaphore is posted 1 where it asks for that, it
retires, past its deadline LATE sets and counts, and poisoned data sets POISON and its counter and voids its job's step. One of a WRITING
object waits. -/
def Obligations.AlmanacWorks : Prop :=
  (
    ∀ (work : BitVec 16) (s : State),
      (4096 ≤ s.alm.table.length → exec (.almanacPlace work) s = .next s) ∧
      (∀ (e0 e : AlmEntry) (rest : List AlmEntry) (v : State), s.alm.table.length < 4096 → s.waitingEntries work = e0 :: rest →
        v = s.setWaiting work rest → e = v.resolveEntry e0 →
        (s.earlyEntry e0 = true → exec (.almanacPlace work) s = .next s) ∧
        (s.earlyEntry e0 = false → v.staleEntry e0 = true → exec (.almanacPlace work) s = .next v) ∧
        (s.earlyEntry e0 = false → v.staleEntry e0 = false →
        let free := (e.fromObj = true ∧ v.obj? e.src.toNat = none) ∨ (e.isBack = true ∧ v.obj? e.dst.toNat = none)
        let fits := v.entryFits (v.mapOf work).1 (v.objectsOf work) (v.mapOf work).2 e
        (free → exec (.almanacPlace work) s = .next (v.failWork work (some e.step) 0x0402)) ∧
        (¬ free → fits = false → exec (.almanacPlace work) s = .next (v.failWork work (some e.step) 0x0401)) ∧
        (¬ free → fits = true → exec (.almanacPlace work) s = .next (v.putEntryInTable e)))) ∧
      (∀ (e : AlmEntry) (j : Nat), s.slotOf e.job = some j →
        s.earlyEntry e = decide ((s.almSlot j).step.toNat < e.step.toNat) ∧
        (s.staleEntry e = true ↔ e.step.toNat < (s.almSlot j).step.toNat ∧
          ¬ ((s.almSlot j).pvalid = true ∧ (s.almSlot j).pstep.toNat ≤ e.step.toNat))) ∧
      (∀ e : AlmEntry, s.slotOf e.job = none → s.earlyEntry e = false ∧ s.staleEntry e = true) ∧
      (∀ (u : State) (e : AlmEntry), e.fromObj = false → e.isBack = false →
        ∃ late : Bool, (late = true ↔ ∃ c, u.stepClock e.job e.step = some c ∧ u.launchTime e < c) ∧
          u.putEntryInTable e = (if late then u.occur (regKey 7 0 8) 2 else u).modAlm fun a =>
            { a with
              table := a.table ++ [{ id := a.nextId, e := e, gated := e.gate == 0, launched := false, cancelled := false, tlate := late,
                                     rebuildFailed := false }]
              nextId := a.nextId + 1
              tlate := a.tlate || late
              tlateCnt := if late then Word.satInc a.tlateCnt else a.tlateCnt
              peak := BitVec.ofNat 13 (max a.peak.toNat (a.table.length + 1)) })) ∧
  (
    ∀ (s : State) (j : Fin 8) (step : BitVec 64) (m : MemId),
      ((s.almSlot j.val).pvalid = true → exec (.almSlotStep j step) s = .next (s.react s)) ∧
      ((s.almSlot j.val).pvalid = false →
        exec (.almSlotStep j step) s =
          .next (s.react (((s.modSlot j.val fun x =>
            { x with pvalid := true, pstep := x.step.setWidth 63, pclk := x.clk, step := step, clk := 0 }).pruneSlot
              j.val).sweepEntries))) ∧
      ((s.alm.table.map (·.id)).Nodup →
        ∃ u : State, exec (.almCancelStep step) s = .next (s.react u) ∧ u.alm.cancelling = true ∧
          (∀ p ∈ u.alm.table, p.e.job = s.alm.cancelJob → (step = 0xFFFFFFFFFFFFFFFF ∨ p.e.step = step) →
            p.launched = true ∧ p.cancelled = true) ∧
          (∀ p ∈ s.alm.table, p.launched = true ∨ p.e.job ≠ s.alm.cancelJob ∨ (step ≠ 0xFFFFFFFFFFFFFFFF ∧ p.e.step ≠ step) →
            ∃ c, { p with cancelled := c } ∈ u.alm.table)) ∧
      (s.alm.cancelling = false → exec .cancelComplete s = .next s) ∧
      (s.alm.cancelling = true → (s.alm.table.map (·.id)).Nodup →
        ∃ u : State, exec .cancelComplete s = .next (s.react u) ∧ u.alm.cancelling = false ∧
          ∀ p : Placed, p ∈ u.alm.table ↔ p ∈ s.alm.table ∧ p.cancelled = false) ∧
      exec .almUsedRead s =
        .next { s with out := s.out ++ [.value (BitVec.ofNat 64 (s.alm.table.length + s.alm.peak.toNat * 65536))]
                       alm := { s.alm with peak := BitVec.ofNat 13 s.alm.table.length } } ∧
      exec (.sepParkPeakRead m) s =
        .next (({ s with out := s.out ++ [.value ((s.sep m.val).parkPeak.setWidth 64)] } : State).modSep m.val fun u =>
          { u with parkPeak := BitVec.ofNat 32 u.parked.length })) ∧
  (
    ∀ (id : Nat) (x : Env) (s g u v : State) (p : Placed) (cs : List Cell),
      s.gatesNow.gateNext = none ∧
      (g = s.gatesNow → g.alm.table.find? (fun p => p.id == id) = some p →
        (g.canLaunch p = false → exec (.almanacLaunch id) s = .next (s.react g)) ∧
        (g.canLaunch p = true → (∀ q ∈ g.alm.table, g.canLaunch q = true → State.keyLt (g.launchKey q) (g.launchKey p) = false) →
          p.e.isPromote = false → p.e.isBack = false →
          exec (.almanacLaunch id) s =
            .next (s.react (g.modAlm fun a =>
              { a with launched := Word.satInc a.launched
                       table := a.table.map fun q => if q.id == id then { q with launched := true } else q })))) ∧
      (s.alm.table.find? (fun p => p.id == id && p.launched && !p.cancelled) = some p →
        s.entryRefused p.e = none →
        (s.objectReady p.e = false → exec (.almanacDelivery id x) s = .next (s.react s)) ∧
        (s.objectReady p.e = true → p.e.isBack = false → p.e.isPromote = false → p.e.dlReport = false → p.e.notify ≠ 2 →
          (s.withEnv x).entryCells x p.e = (cs, u) → u.store (u.regionsOf p.e.job) p.e.dst.toNat cs = v →
          ∃ n r w : State,
            n = (if p.e.notify = 1 then v.unitPost p.e.fullCore.toNat p.e.fullSem 1 else v) ∧ r = n.retireEntry p ∧
            ((∃ c, s.stepClock p.e.job p.e.step = some c ∧ p.e.deadline.toNat < c) →
              w = (r.modAlm fun a => { a with late := true, lateCnt := Word.satInc a.lateCnt }).occur (regKey 7 0 8) 1) ∧
            (¬ (∃ c, s.stepClock p.e.job p.e.step = some c ∧ p.e.deadline.toNat < c) → w = r) ∧
            (anyPoison cs = false → exec (.almanacDelivery id x) s = .next (s.react w)) ∧
            (anyPoison cs = true →
              exec (.almanacDelivery id x) s =
                .next (s.react (((w.modAlm fun a => { a with poison := true, poisonCnt := Word.satInc a.poisonCnt }).occur
                  (regKey 7 0 8) 3).setVerdict p.e.job p.e.step (if p.rebuildFailed then 0x03 else 0x04)))))))

/-! ## Chapter 5: the optical fabric and collectives -/

/-- R221, R222: routing is complete and shortest: between any two valid nodes a frame takes, in each dimension, the shorter way
round its ring, and reaches its destination after the sum of those distances. -/
def Obligations.RoutesAreShortest : Prop :=
  ∀ (dim : BitVec 16) (me dst src : BitVec 12), dimOk dim = true → nodeOk dim me = true → nodeOk dim dst = true →
    (walk dim dst src 16 me).length =
      (([0, 1, 2, 3].map fun d =>
        let delta := (coord dst d + ringSize dim d - coord me d) % ringSize dim d
        min delta (ringSize dim d - delta)).sum) ∧
    ((walk dim dst src 16 me).getLastD me = dst) ∧ (∀ n ∈ walk dim dst src 16 me, nodeOk dim n = true)

/-- R200 to R204, R206, R209, R221 (Table 5-2): enabling an engine of a module that runs puts its OFF ports into DARK, or OUT as UNUSED where
its dimension has one node; a probe seen in DARK starts TRAIN; a training brings the port to its handshake at the width its usable lanes allow, with full
credits and frame numbers from 0, or its third failed attempt takes it OUT; loss of light sends an UP port to RETRAIN and one that trains
or attests to DARK; 100 ms in RETRAIN lead to DARK with what fails with the port, and 150 ms in ATTEST end the handshake; wavelength
tuning runs while it is enabled. A port with nothing waiting that goes OUT loses its session, its keys and its retry buffer.
R205 to R208, R219, R358 (Tables 5-2, 5-3): the handshake of a port in ATTEST goes through HELLO, CERTS, EVIDENCE, KEYX and FINISH in
this order: each good message of the peer enters the transcript, takes the next place and is answered by this module's own next message;
the wrong neighbour fails the handshake with cause MISWIRED, a peer of another protection mode or one that the link policy does not accept
(as it was when the handshake began, R357) with cause POLICY, a failed signature, chain or MAC with cause ATTEST_FAIL; FINISH brings the port UP
under the keys that the handshake derived, unacknowledged frames of a link that ran it again sent once more and counted. A message leaves in
CTRL frames of its operation with a zero tag.
R200, R201, R209, R211: when the external source comes, goes or fails, the module's own view of it follows (closed only while the
module closes its side of the loop); an UP port whose light it was or becomes retrains, one that still trains or attests trains again on
the light that it has now (or, where its handshake runs again, retrains with what it holds), and every other port keeps its state. A completed retraining brings the port UP again with its session, sending
again what is unacknowledged, or back to its handshake when the session must be renewed. -/
def Obligations.PortsComeUp : Prop :=
  (
    ∀ (e : EngineId) (p : PortId) (usable : BitVec 4) (s : State),
      (s.runs = false → exec (.optCtrlEn e) s = .next s) ∧
      (s.runs = true → ∃ u : State, exec (.optCtrlEn e) s = .next u ∧ (u.engine e.val).en = true ∧
        ∀ q : PortId, (s.port q.val).mode = .off → q.val / 2 = e.val →
          (ringSize s.dim e.val = 1 → (u.port q.val).mode = .out ∧ (u.port q.val).cause = 0x6) ∧
          (ringSize s.dim e.val ≠ 1 → (u.port q.val).mode = .dark)) ∧
      ((s.port p.val).mode = .dark → exec (.peerProbeSeen p) s = .next (s.modPort p.val fun x =>
        { x with mode := .train, since := s.ns, trainFails := 0, extSrc := s.portLight p.val, wasExt := x.wasExt || x.extSrc })) ∧
      ((s.port p.val).mode = .train →
        ((State.widthOf usable).2 ≠ 0 → ∃ u : State, exec (.trainDone p usable) s = .next (u.attestBegins p.val) ∧
          u = s.modPort p.val (fun _ => u.port p.val) ∧
          let x := u.port p.val
          x.lanes = (State.widthOf usable).1 ∧ x.width = (State.widthOf usable).2 ∧ x.trainFails = 0 ∧ x.txFrno = 0 ∧ x.rxFrno = 0 ∧
          x.retry = [] ∧ x.waitTx = (s.port p.val).waitTx ∧ [0, 1, 2, 3].map (x.credits.get 0) = [16384, 16384, 1024, 1024]) ∧
        ((State.widthOf usable).2 = 0 → (s.port p.val).trainFails < 2 → exec (.trainDone p usable) s =
          .next (s.modPort p.val fun x => { x with trainFails := x.trainFails + 1, since := s.ns })) ∧
        ((State.widthOf usable).2 = 0 → 2 ≤ (s.port p.val).trainFails → exec (.trainDone p usable) s =
          .next (s.portOut p.val (if (s.port p.val).wasExt = true ∧ (s.port p.val).extSrc = false then 0x5 else 0x1)))) ∧
      (((State.widthOf usable).2 = 3 ↔ usable = 0xF) ∧ ((State.widthOf usable).2 = 0 ↔ usable = 0) ∧
        (State.widthOf usable).1 &&& usable = (State.widthOf usable).1) ∧
      ((s.port p.val).mode = .up → exec (.lossOfLight p) s = .next (s.portRetrain p.val false)) ∧
      ((s.port p.val).mode = .train ∨ (s.port p.val).mode = .attest →
        ((s.port p.val).rehandshake = true →
          exec (.lossOfLight p) s = .next (s.react ((s.portDark p.val).portLost p.val))) ∧
        ((s.port p.val).rehandshake = false →
          exec (.lossOfLight p) s = .next (s.clearPort p.val fun x => { x with mode := .dark, since := s.ns }))) ∧
      ((s.port p.val).mode = .retrain → (s.port p.val).since + 100000000 ≤ s.ns →
        exec (.retrainTimeout p) s = .next (s.react ((s.portDark p.val).portLost p.val))) ∧
      ((s.port p.val).mode = .attest → (s.port p.val).since + 150000000 ≤ s.ns →
        exec (.attestTimeout p) s = .next (s.react (s.shakeFails p.val 0x3))) ∧
      ((s.engine e.val).en = true → exec (.wavelengthTuning e) s = .next (s.modEngine e.val fun x => { x with tuned := s.ns })) ∧
      ((s.port p.val).waitTx = [] → s.portOut p.val 0x3 = s.modPort p.val fun x =>
        { x with mode := .out, cause := 0x3, session := none, rehandshake := false, shake := Shake.reset, retry := [], waitTx := []
                 lanes := 0, width := 0 })) ∧
  (
    ∀ (p : PortId) (h : HelloMsg) (ev : EvidenceMsg) (m : ShakeMsg) (op : BitVec 8) (msg : List Byte) (s : State) (pol : Policy),
      ((s.port p.val).mode = .attest →
      ((s.port p.val).handshake = 0 →
        ∃ u : State, u = (s.modPort p.val fun x => { x with peer := h.node, peerNonce := h.nonce }) ∧
          exec (.hello p h) s = .next (if h.node ≠ neighbour s.dim s.node p.val then u.react (u.shakeFails p.val 0x2)
            else if h.integrity ≠ (s.port p.val).shake.policy.integrity then u.react (u.shakeFails p.val 0x4)
            else (u.shakeTakes p.val (State.helloBytes h)).sendCerts p.val)) ∧
      ((s.port p.val).handshake = 1 →
        exec (.certs p m) s =
          .next (if m.ok then (s.shakeTakes p.val m.body).sendEvidence p.val else s.react (s.shakeFails p.val 0x3))) ∧
      ((s.port p.val).handshake = 2 →
        exec (.evidence p ev) s =
          .next (if ev.sigOk = false then s.react (s.shakeFails p.val 0x3)
            else if peerAccepted s.sec (s.port p.val).shake.policy ev then (s.shakeTakes p.val ev.body).sendKeyx p.val
            else s.react (s.shakeFails p.val 0x4))) ∧
      ((s.port p.val).handshake = 3 →
        exec (.keyx p m) s =
          .next (if m.ok then (s.shakeTakes p.val m.body).sendFinish p.val else s.react (s.shakeFails p.val 0x3))) ∧
      ((s.port p.val).handshake = 4 →
        exec (.finish p false) s = .next (s.react (s.shakeFails p.val 0x3)) ∧
        ∃ u : State, exec (.finish p true) s = .next (s.react (u.pumpAll p.val)) ∧
          let x := u.port p.val
          x.mode = .up ∧ x.txFrno = (s.port p.val).txFrno ∧ x.rxFrno = (s.port p.val).rxFrno ∧ x.shake = Shake.reset ∧
          x.retry.map Held2.frno = (s.port p.val).retry.map Held2.frno ∧
          (∀ k : Session, (s.port p.val).shake.keys = some k →
            x.session = some
              { k with integrity := (s.port p.val).shake.policy.integrity, keySince := s.ns, keyFrames := (s.port p.val).retry.length }) ∧
          x.retryCnt = Word.satAdd (s.port p.val).retryCnt (s.port p.val).retry.length ∧
          u.out = s.out ++ x.retry.map fun h => Out.frame p h.frame (h.frame.wire x.session))) ∧
      (s.sec.mode = .unowned → (peerAccepted s.sec pol ev = true ↔ ev.sec = 0)) ∧
      (s.sec.mode ≠ .unowned → (peerAccepted s.sec pol ev = true ↔
        pol.minPeerSvn.toNat ≤ ev.svn.toNat ∧ (ev.sec = 1 ∨ (ev.sec = 2 ∧ pol.debugPeers = true)) ∧
        (pol.anyOwner = true ∨ ev.ownerDigest = if pol.peerOwner = 0 then Config.sha384 s.sec.ownerKey else pol.peerOwner))) ∧
      ((s.attestBegins p.val).port p.val).shake.policy = s.sec.policy ∧
      (∃ fs : List Frame, (s.sendShake p.val op msg).out = s.out ++ fs.map (fun f => Out.frame p f (f.wire none)) ∧ fs ≠ [] ∧
        (∀ f ∈ fs, f.type = 3 ∧ f.op = op ∧ f.dst = neighbour s.dim s.node p.val ∧ f.payload.length ≤ 512 ∧
          (f.wire none).length = 48 + f.payload.length) ∧
        ((s.sendShake p.val op msg).port p.val).shake.sent = (s.port p.val).shake.sent ++ [msg])) ∧
  (
    ∀ (s : State) (present closed works : Bool) (p : PortId) (usable : BitVec 4),
      (∃ u v : State, u = (s.modFab fun f =>
          { f with elsPresent := present, elsClosed := closed && f.loop, elsWorks := works }) ∧
        exec (.elsChange present closed works) s = .next v ∧
        ∀ q : PortId, let x := s.port q.val
          v.port q.val =
            if x.extSrc = u.portLight q.val then x
            else if x.mode = .up then (s.portRetrain q.val false).port q.val
            else if x.mode = .train ∨ x.mode = .attest then
              if x.rehandshake = true then (s.portRetrain q.val true).port q.val else
              { x with mode := .train, since := s.ns, handshake := 0, shake := Shake.reset, extSrc := u.portLight q.val
                       wasExt := x.wasExt || x.extSrc }
            else x) ∧
      ((s.port p.val).mode = .retrain → (State.widthOf usable).2 ≠ 0 →
        ∃ u : State, u = (s.modPort p.val fun x =>
          { x with lanes := (State.widthOf usable).1, width := (State.widthOf usable).2, extSrc := s.portLight p.val }) ∧
        ((s.port p.val).rehandshake = true ∨ (s.port p.val).session = none →
          exec (.retrainComplete p usable) s = .next (u.attestBegins p.val)) ∧
        ((s.port p.val).rehandshake = false → (s.port p.val).session ≠ none →
          ∃ v : State, v = (u.modPort p.val fun x => { x with mode := .up, noProgress := 0 }).resend p.val ∧
            exec (.retrainComplete p usable) s = .next (u.react (v.pumpAll p.val)))))

/-- R211 to R218, R222, R239, R241, R242, R245, R250: what each frame does that passes its checks at an UP port. ACK acknowledges and
returns credits; NAK also sends every unacknowledged frame again; a CREDIT for a stream reaches the stream. A sequenced frame must be the
next of the port's order, else it opens a gap and nothing of it counts: then it is accepted, its credits are owed back and an
acknowledgement is sent when enough wait, and it takes effect at its destination: of another epoch it is discarded and counted STALE. One
for another node goes on. A frame that fails FEC or CRC opens a gap; a failed tag is counted; the codewords that the FEC corrects, and a
frame that it cannot correct, are counted.
R208, R214, R216, R217, R218: the timers of an UP port: OPT_RETRY.TIMEOUT without progress sends every unacknowledged frame again, byte
for byte, and LIMIT times without progress retrain the port; a gap is repeated after 10 µs by another NAK; accepted frames are acknowledged
within a microsecond, and (the model's choice, log 89) what is owed for each pool goes back then; after 2^40 frames or 24 h under one key
the sender takes the next key, changes its phase and says so by KEY_UPDATE. -/
def Obligations.LinksCarryFrames : Prop :=
  (
    ∀ (p : PortId) (f : Frame) (s u : State),
      (FrameGood s p.val 0 f → exec (.ack p f) s = .next (s.react (unseqIn s p.val f))) ∧
      (FrameGood s p.val 1 f → exec (.nak p f) s = .next (s.react ((unseqIn s p.val f).resend p.val))) ∧
      (FrameGood s p.val 2 f → f.streamCredit = false → exec (.credit p f) s = .next (s.react (unseqIn s p.val f))) ∧
      (FrameGood s p.val 2 f → f.streamCredit = true → u = unseqIn s p.val f → f.dst = u.node →
        (f.epoch = u.epoch → exec (.credit p f) s = .next (s.react (u.streamCreditIn f))) ∧
        (f.epoch ≠ u.epoch → exec (.credit p f) s = .next (s.react (u.staleDrop p.val)))) ∧
      (FrameNext s p.val 3 f u →
        exec (.keyUpdate p f) s = .next (s.react u) ∧
        (f.op = 0x07 → exec (.openMsg p f) s = .next (s.react (u.openAsked p f)) ∧
          (f.epoch = u.epoch → u.openAsked p f = u.sendCtrl f.src 0x08 0 f.epoch)) ∧
        (f.op = 0x08 → exec (.openAck p f) s = .next (s.react (u.openAnswered p.val f))) ∧
        (f.op = 0x09 → f.epoch ≠ u.epoch → exec (.stale p f) s = .next (s.react (u.staleDrop p.val))) ∧
        (f.op = 0x09 → f.epoch = u.epoch →
          exec (.stale p f) s = .next (s.react ((u.abandonEpoch fun g => g.contains f.src).reshardNow))) ∧
        (f.op = 0x0A → f.epoch = u.epoch → exec (.close p f) s =
          .next (s.react (u.modFab fun b => { b with opened := b.opened.filter fun n => n != f.src }))) ∧
        (f.op = 0x0A → f.epoch ≠ u.epoch → exec (.close p f) s = .next (s.react (u.staleDrop p.val))) ∧
        (f.op = 0x0B → f.epoch = u.epoch → exec (.removed p f) s = .next (s.react (u.mcRemoved f))) ∧
        (f.op = 0x0C → f.epoch = u.epoch → ∀ w : State,
          w = (u.modPipe f.stream fun q =>
            if q.rec_.pNode = u.node ∧ q.rec_.cNode = f.src then { q with credits := q.credits + 1, progress := u.ns } else q) →
          exec (.qcredit p f) s = .next (s.react
            (if w.fab.queues.any (fun q => q.rec_.qid == f.stream && q.ready) then w.sendEntry f.stream else w))) ∧
        (f.op = 0x0C → f.epoch ≠ u.epoch → exec (.qcredit p f) s = .next (s.react (u.staleDrop p.val)))) ∧
      (FrameNext s p.val 4 f u → f.epoch = u.epoch → exec (.data p f) s = .next (s.react (u.entryArrives f))) ∧
      (FrameGood s p.val 4 f → f.dst ≠ s.node →
        exec (.data p f) s = .next (s.react (((creditsIn s p.val f).acceptSeq p.val f).route (some p.val) f))) ∧
      (FrameNext s p.val 5 f u → f.epoch = u.epoch → Bytes.field f.payload 0 1 < 176 → exec (.postFrame p f) s =
        .next (s.react (u.unitPost (Bytes.field f.payload 0 1) (BitVec.ofNat 6 (Bytes.field f.payload 1 1))
          (Bytes.field f.payload 2 2)))) ∧
      (FrameNext s p.val 6 f u → f.epoch = u.epoch → exec (.coll p f) s = .next (s.react (u.collIn f))) ∧
      (FrameNext s p.val 6 f u → f.epoch ≠ u.epoch → f.epoch ∈ u.fab.abandoned →
        exec (.coll p f) s = .next (s.react ((u.staleDrop p.val).sendCtrl f.src 0x09 f.stream f.epoch))) ∧
      (FrameNext s p.val 7 f u → f.epoch = u.epoch → exec (.sealFrame p f) s = .next (s.react (u.sealArrives p.val f))) ∧
      (FrameNext s p.val 8 f u → f.epoch = u.epoch → exec (.mcast p f) s = .next (s.react (u.mcArrives f))) ∧
      (FrameNext s p.val 8 f u → f.epoch ≠ u.epoch → exec (.mcast p f) s = .next (s.react ((u.modEngine (p.val / 2) fun e =>
        { e with stale := true, staleCnt := Word.satInc e.staleCnt }).occur (regKey 8 (p.val / 2) 8) 4))) ∧
      (FrameClean s p.val 8 f → f.frno.toNat ≠ (s.port p.val).rxFrno →
        exec (.mcast p f) s = .next (s.react ((s.countFec p.val f).badFrame p.val))) ∧
      ((s.port p.val).mode = .up → f.type = 8 → f.fecBad = true ∨ f.crcOk = false →
        exec (.mcast p f) s = .next (s.react ((s.countFec p.val f).badFrame p.val))) ∧
      ((s.port p.val).mode = .up → f.type = 8 → f.fecBad = false → f.crcOk = true → f.tagOk = false →
        exec (.mcast p f) s = .next (s.react ((s.countFec p.val f).tagFail p.val))) ∧
      (∀ t : State, t = s.countFec p.val f → (t.port p.val).fecCorr = (s.port p.val).fecCorr + BitVec.ofNat 64 f.fecFixed ∧
        (t.port p.val).fecUnc = (if f.fecBad = true then Word.satInc (s.port p.val).fecUnc else (s.port p.val).fecUnc) ∧
        (t.port p.val).retry = (s.port p.val).retry ∧ t.out = s.out)) ∧
  (
    ∀ (p : PortId) (s : State), (s.port p.val).mode = .up →
      ((s.port p.val).retry ≠ [] → (s.port p.val).progressAt + 1000 * (s.engine (p.val / 2)).timeoutUs.toNat ≤ s.ns →
        exec (.retryTimeout p) s = .next (s.resend p.val) ∧
        ∃ v : State, v.out = s.out ++ (s.port p.val).retry.map (fun h => Out.frame (Fin.ofNat 8 p.val) h.frame h.wire) ∧
          (v.port p.val).noProgress = (s.port p.val).noProgress + 1 ∧ (v.port p.val).retry = (s.port p.val).retry ∧
          s.resend p.val = if (s.engine (p.val / 2)).limit.toNat ≤ (s.port p.val).noProgress + 1 then v.portRetrain p.val false else v) ∧
      ((s.port p.val).gap = true → (s.port p.val).gapSince + 10000 ≤ s.ns →
        exec (.nakRepeat p) s = .next ((s.modPort p.val fun x => { x with gapSince := s.ns }).sendNak p.val)) ∧
      (0 < (s.port p.val).sinceAck →
        exec (.ackTimer p) s = .next ([0, 1, 2, 3].foldl (fun s i => s.creditOut p.val i) (s.sendAck p.val))) ∧
      (∀ i : Fin 4, (s.port p.val).owed.rising = true → (s.port p.val).owed.get 0 i.val ≠ 0 → (s.port p.val).owed.get 0 i.val ≤ 16383 →
        ((s.creditOut p.val i.val).port p.val).owed.get 0 i.val = 0 ∧
        ∃ (f : Frame) (w : List Byte), (s.creditOut p.val i.val).out = s.out ++ [Out.frame p f w] ∧ f.type = 2 ∧
          f.cred.toNat = (s.port p.val).owed.get 0 i.val ∧ f.pool.toNat = i.val) ∧
      (∀ k : Session, (s.port p.val).session = some k →
        2 ^ 40 ≤ k.keyFrames ∨ k.keySince + 86400000000000 ≤ s.ns →
        ∃ v : State, v = (s.modPort p.val fun x =>
          { x with keyphase := !k.txPhase
                   session := some { k with txKey := nextKey k.txKey, txKeys := k.txKeys + 1, txPhase := !k.txPhase, keyFrames := 0
                                            keySince := s.ns } }) ∧
          exec (.keyUpdateDue p) s =
            .next (v.react (v.transmit p.val
              { blankFrame 3 true 0x06 with dst := (v.port p.val).peer, src := s.node, epoch := s.epoch } none))))

/-- R227 to R229, R240, R241: COLLECTIVE on a job, whose operands its checks pass, opens
the collective under the current epoch and contributes this member's input; none starts while a RESHARD waits. RESHARD takes the layout
that host memory holds, and takes effect when the epoch has no collective left; with ABANDON it voids every unsealed step with cause
RESHARD_ABANDON, completes the epoch's host collectives VOIDED with that DETAIL, marks the epoch abandoned and takes effect at once, answering
the new epoch. A layout that takes effect gives its job the groups and the replica group that it lists.
R226, R228, R238, R248: a collective of the host first reads what its running engines have not read yet and reduces what every
contribution has come to; it completes once it is whole here and none of its engines is stopped, a BROADCAST's root not before its last frame
has left: its output is written and its command completes OK, or POISONED where a contribution was poisoned. While such an engine is stopped,
or something is missing, it goes on.
One that has made no progress for OPT_COLL_TIMEOUT of an engine that handles elements of it times out: each such engine sets TIMEOUT and
counts, and it fails FABRIC_LOST with DETAIL 0xFF, the bytes it was to write undefined (R314).
R245 to R247, R250: multicast and pipeline queues. OPT_MC_HOLD after a stream stopped for want of credit, it goes on without the
branches of that port that have none, which lag; MCAST_REJOIN lets a removed receiver's branch take the stream again from its head, and
answers the head. The producer engine takes its core's post of the next entry, waits while no queue credit is left, and then takes one and
sends the entry's bytes in DATA frames, the last one marked.
R203, R209 (Table 7-8, PORT): ACTION 0 takes a port OUT with cause HOST, and what fails with it fails; ACTION 1 retrains an UP port;
the answer is PORT_STATE. A port beyond 7 is refused, and so is one that carries a collective in flight. -/
def Obligations.CollectivesRun : Prop :=
  (
    ∀ (t : Tag) (x : Env) (s v : State) (q : Nat) (f : Flight) (j : Job),
      v = s.markStarted q f → s.job? f.job = some j → j.stopped = false →
      (s.fab.reshard.isSome = true → exec (.collective t x) s = .next s) ∧
      (CommandAt s t 0x27 q f → s.fab.reshard = none →
        ∀ (op : CollOp) (group : List (BitVec 12)) (ifmt ofmt : ElFmt) (cap : Nat) (c : Coll),
        State.collOpOf (f.arg 8 1) = some op → j.groups.find? (f.arg 9 1) = some group →
        elFmtOf (f.arg 10 1 % 8) = some ifmt → elFmtOf (f.arg 10 1 / 16 % 8) = some ofmt →
        s.node ∈ group → (if Sys2Proof.Machine.reduces op then ifmt.reducible = true ∧ ofmt.reducible = true else ifmt = ofmt) →
        (op = .broadcast ∨ op = .multicast → f.arg 12 2 < group.length) →
        cap = (if f.arg 40 4 = 0 then 256 else f.arg 40 4) → (op = .multicast → 16 ≤ cap ∧ cap ≤ 4096) →
        c = { id := 0, job := j.id, op := op, group := group, epoch := s.epoch, ifmt := ifmt, ofmt := ofmt, root := f.arg 12 2,
              stream := BitVec.ofNat 16 (f.arg 14 2), n := f.arg 16 8, src := f.arg 24 6, dst := f.arg 32 6, grad := none, step := 0,
              contribs := [], arrivals := [], results := Tbl.empty, summed := false, gsq := 0, verdict := s.jobVerdict j.id,
              discard := false, reduced := [], parkedSegs := 0,
              throughput := j.params.throughput != 0, progress := s.ns, tag := some (Fin.ofNat 8 q, f.tag), poisoned := false,
              contributed := op == .multicast } →
        (0 < (State.collSpans c (c.rank s.node)).1 → s.permitted j.id c.src (State.collSpans c (c.rank s.node)).1 false = true) →
        (0 < (State.collSpans c (c.rank s.node)).2 → s.permitted j.id c.dst (State.collSpans c (c.rank s.node)).2 true = true) →
        ∃ w : State, w = (v.withEnv x).openColl c ∧
          (op = .multicast → exec (.collective t x) s = .next ((w.openStream c (cap * 0x100000) (State.bufBytes ifmt c.n) none).stream q)) ∧
          (op ≠ .multicast → exec (.collective t x) s = .next ((w.takeShare x v.fab.collNext).stream q))) ∧
      (∀ (id : Nat) (c : Coll) (es : List Nat) (y : State) (cells : List (Nat × List Cell)), v.coll? id = some c →
        es = (v.running c).filter (fun e => !c.read.contains e) → es ≠ [] → v.readInput x c es = (cells, y) →
        v.takeShare x id = y.contribute id (Bytes.zeros 16) es cells) ∧
      (CommandAt s t 0x29 q f → x.hostErr = none → s.fixOpen j = false → f.arg 16 8 % 64 = 0 →
        ∀ (w : State) (b : List Byte), w = (v.withEnv x).withEnv x → b = w.hostBytes (f.arg 16 8) (f.arg 24 4) →
        (Bytes.bit (f.arg 8 1) 0 = false → s.fab.reshard = none →
          (w.layoutFits b = false → exec (.reshard t x) s = .next (s.react ((w.refuse q f Status.imageInvalid 0x09FF).stream q))) ∧
          (w.layoutFits b = true → exec (.reshard t x) s =
            .next (s.react (((w.modFab fun a => { a with reshard := some (Fin.ofNat 8 q, f.tag, b) }).reshardNow).stream q)))) ∧
        (Bytes.bit (f.arg 8 1) 0 = true → w.layoutFits b = true →
          ∃ a z y : State,
            a = (w.jobs.foldl (fun s j =>
              (j.steps.filter fun r => r.final.isNone).foldl (fun s r => s.voidNow j.id r.n 0x06)
                ((j.steps.filter fun r => r.stage == .exchange).foldl (fun s r => s.closeApplied j.id r.n) s)) w) ∧
            z = (a.jobs.filter fun j => j.repairs.isNone).foldl (fun s j => s.loseFix j.id 0xFF) a ∧
            y = ((((z.fab.colls.foldl (fun s c =>
                if s.repairs c = true then s.loseFix c.job 0xFF
                else if c.grad.isNone = true then ((s.endStream c).endColl c).finishTag c.tag Status.voided 0x06 0 0 else s) z).modFab fun b =>
              { b with abandoned := b.abandoned.filter (fun e => e != w.epoch) ++ [w.epoch] }).loadLayout f.job b).enterEpoch
                (w.epoch + 1)).unusedPorts ∧ y.epoch = w.epoch + 1 ∧
            exec (.reshardAbandon t x) s =
              .next (s.react (((y.finishOk q f ((w.epoch + 1).setWidth 32) 0).reshardNow).stream q)))) ∧
      (∀ b : List Byte, (v.loadLayout f.job b).job? f.job = some { j with
        groups := (Config.layoutGroups b).foldl (fun t g => t.put g.1 (ranked g.2)) Tbl.empty
        replicas := if ranked (Config.layoutReplicas b) = [] then j.replicas else ranked (Config.layoutReplicas b) }) ∧
      (∀ (z : State) (r : QueueId) (g : Tag) (b : List Byte), z.fab.reshard = some (r, g, b) →
        (z.epochBusy = true → z.reshardNow = z) ∧
        (z.epochBusy = false → ∀ (i : Nat) (h : Flight), z.flightOf g = some (i, h) → z.reshardNow =
          ((((z.modFab fun a => { a with reshard := none }).loadLayout h.job b).enterEpoch (z.epoch + 1)).unusedPorts).finishTag
            (some (r, g)) Status.ok 0 ((z.epoch + 1).setWidth 32) 0))) ∧
  (
    ∀ (id : Nat) (s b v : State) (c d : Coll), s.coll? id = some c → c.grad = none → c.op ≠ .multicast →
      (s.stoppedFor c = true → exec (.collectiveDone id) s = .next (s.react ((s.takeShare State.noEnv id).sumSlice id))) ∧
      (s.stoppedFor c = false → b = (s.takeShare State.noEnv id).sumSlice id → b.coll? id = some d → exec (.collectiveDone id) s =
        .next (s.react (if d.whole b.node = true ∧ (d.op = .broadcast → b.collQueued d = false) then
            (((b.writeOutput d).dropColl id).finishTag d.tag (if d.poisoned then Status.poisoned else Status.ok) 0 0 0).reshardNow
          else b))) ∧
      ((∀ e ∈ s.running c, c.read.contains e = true) → s.takeShare State.noEnv id = s) ∧
      (c.summed = true ∨ Sys2Proof.Machine.reduces c.op = false ∨
          (∀ e ∈ s.running c, c.done.contains e = true ∨ c.shareIn s.node e = false) → s.sumSlice id = s) ∧
      (∀ late : List Nat, late = (enginesOf c.n).filter (fun e =>
          decide (c.progress + 1000000 * (s.engine e).collTimeout.toNat ≤ s.ns)) →
        (c.contributed = true ∨ c.read ≠ [] → late ≠ [] →
          v = late.foldl (fun s e => (s.modEngine e fun x =>
            { x with timeout := true, timeoutCnt := Word.satInc x.timeoutCnt }).occur (regKey 8 e 8) 7) s →
          exec (.collTimeout id) s = .next (s.react
            (((((v.spoilOutput c 0).endStream c).endColl c).finishTag c.tag Status.fabricLost 0xFF 0 0).reshardNow))) ∧
        ((c.contributed = false ∧ c.read = []) ∨ late = [] → exec (.collTimeout id) s = .next (s.react s)))) ∧
  (
    ∀ (s : State) (t : Tag) (q : Nat) (f : Flight),
      (∀ (st : BitVec 16) (p : PortId) (k : McStream) (at_ : Nat), s.stream? st = some k → k.holdFrom = some at_ →
        (s.ns < at_ + 1000 * (s.engine (p.val / 2)).mcHold.toNat → exec (.mcHoldExpire st p) s = .next s) ∧
        (at_ + 1000 * (s.engine (p.val / 2)).mcHold.toNat ≤ s.ns → exec (.mcHoldExpire st p) s =
          .next ((s.modStream st fun k =>
            { k with
              branches := k.branches.map fun b =>
                if b.port = p.val ∧ b.gone = false ∧ b.lagging = false ∧
                  b.credits < State.blocksOf (min 512 ((s.stream? st).elim 0 fun k => k.avail - k.head))
                then { b with lagging := true } else b }).mcPump st))) ∧
      (∀ (j : Job) (k : McStream) (b : McBranch), CommandAt s t 0x28 q f → s.job? f.job = some j → j.stopped = false →
        s.stream? (BitVec.ofNat 16 (f.arg 8 2)) = some k →
        k.branches.find? (fun b => b.gone && b.nodes.contains (BitVec.ofNat 12 (f.arg 10 2)) && decide (f.arg 10 2 < 4096)) = some b →
        ∃ v : State, v = ((s.markStarted q f).modStream k.stream fun k =>
            { k with branches := k.branches.map fun c =>
                if c.nodes = b.nodes then { c with gone := false, lagging := false, pos := k.head } else c }) ∧
          AnswersFrom (.mcastRejoin t) s q f v Status.ok 0 0 (BitVec.ofNat 64 k.head)) ∧
      (∀ (qid : BitVec 16) (z : PipeQ), s.fab.queues.find? (fun z => z.rec_.qid == qid) = some z →
        (z.rec_.pNode ≠ s.node ∨ z.rec_.cNode = s.node ∨ z.lost = true ∨
            (z.ready = false ∧ (s.core z.rec_.pCore.toNat).sem z.rec_.pReady = 0) →
          exec (.queueEntrySend qid) s = .next (s.react s)) ∧
        (z.rec_.pNode = s.node → z.rec_.cNode ≠ s.node → z.lost = false →
          z.ready = true ∨ (s.core z.rec_.pCore.toNat).sem z.rec_.pReady ≠ 0 →
          ∃ y : State, y = (if z.ready = true then s else
              s.modCore z.rec_.pCore.toNat fun k => k.setSem z.rec_.pReady (k.sem z.rec_.pReady - 1)) ∧
            (z.credits = 0 → exec (.queueEntrySend qid) s = .next (s.react (y.modPipe qid fun w => { w with ready := true }))) ∧
            (z.credits ≠ 0 → ∃ (cs : List Cell) (u : State), y.load State.noEnv (y.regionsOf z.job)
                (z.rec_.pBase + z.sent % max 1 z.rec_.outDepth * z.rec_.entry) z.rec_.entry = (cs, u) ∧
              exec (.queueEntrySend qid) s = .next (s.react
                ((List.range (Bytes.chunks 512 cs).length).foldl
                  (fun u i => u.sendFrame { blankFrame 4 (decide (z.rec_.entry ≤ 256)) 0 with
                    dst := z.rec_.cNode, stream := qid, offset := BitVec.ofNat 48 (z.sent % max 1 z.rec_.depth * z.rec_.entry + 512 * i)
                    poison := anyPoison ((Bytes.chunks 512 cs).getD i []), last := i + 1 == (Bytes.chunks 512 cs).length
                    payload := cellBytes ((Bytes.chunks 512 cs).getD i []) })
                  (u.modPipe qid fun w => { w with
                    ready := false, credits := w.credits - 1, sent := w.sent + 1, progress := u.ns
                    peakUsed := max w.peakUsed (z.rec_.depth - (w.credits - 1)) }))))))) ∧
  (
    ∀ (t : Tag) (s v : State) (q : Nat) (f : Flight) (p : Nat),
      CommandAt s t 0x06 q f → v = s.markStarted q f → p = f.arg 8 1 →
      (f.arg 9 1 = 0 → p < 8 → v.carriesColl p = false →
        ∃ w : State, w = (v.portOut p 0x8).portLost p ∧
          exec (.portTakeOut t) s = .next (s.react ((w.finishOk q f (BitVec.ofNat 32 (State.portState (w.port p))) 0).stream q))) ∧
      (f.arg 9 1 = 1 → p < 8 → v.carriesColl p = false →
        ∃ w : State, w = (if (v.port p).mode = .up then v.portRetrain p false else v) ∧
          exec (.portRetrain t) s = .next (s.react ((w.finishOk q f (BitVec.ofNat 32 (State.portState (w.port p))) 0).stream q))) ∧
      (f.arg 9 1 = 0 → 8 ≤ p → exec (.portTakeOut t) s = .next (s.react ((v.refuse q f Status.invalidField 8).stream q))) ∧
      (f.arg 9 1 = 0 → p < 8 → v.carriesColl p = true →
        exec (.portTakeOut t) s = .next (s.react ((v.refuse q f Status.inUse 8).stream q))))

/-! ## Chapter 6: the Skimmers and serving -/

/-- R261: the candidates that a query keeps are its best K, in order, whatever the order in which they are found: with no NaN among
the scores and no position named twice, the list depends only on which candidates there are, holds as many as there are up to K, and
every candidate left out comes after every one that is kept (by score, then vector identifier, segment and position). -/
def Obligations.BestCandidatesAreKept : Prop :=
  ∀ (d : QueryDesc) (cs ds : List Cand), List.Perm cs ds → (∀ c ∈ cs, NumFmt.n32.decode c.score.toNat ≠ .nan) →
    (cs.map fun c => (c.seg, c.pos)).Nodup →
    topCands d cs = topCands d ds ∧ (topCands d cs).length = min d.k cs.length ∧ (∀ e ∈ topCands d cs, e ∈ cs) ∧
    List.Pairwise (fun a b => candBefore d a b = true) (topCands d cs) ∧
    (∀ c ∈ cs, c ∉ topCands d cs → ∀ e ∈ topCands d cs, candBefore d e c = true)

/-- R257, R258, R264, R302: SKIM_QUERY on a group or a job of its JOB reads the descriptor from host memory; one that R257's checks pass is
queued at the Skimmers that hold its segments, with references on its objects, one that they fail is refused, and while an object that it
names is WRITING it waits with references on them. A pilot's write to SKM_SUBMIT queues the descriptor at a device address, with its segment
list as it reads, at that Skimmer (the model's choice, log 31: without the firmware's checks).
R259, R262, R263, R264, R265, R266: an enabled Skimmer with nothing running takes the first query of serving priority in its queue,
else the first, once the read slots of its query vectors are free, reads the query vectors and their scales and scans, and a submission that
waited takes the place. When it has scanned its share, its results go to the query, DONE sets and counts, and it rests. The merge of a query
whose shares are all in writes a result block for each query vector with its flags (bit 0 where a vector was poisoned, bit 1 where the
deadline has passed), releases its objects, reports a missed deadline, tells a group's operation, and answers its command: POISONED when a
vector was poisoned, else DEADLINE_MISS when late, else OK, with the number of blocks and of vectors scanned. -/
def Obligations.SkimmersAnswer : Prop :=
  (
    ∀ (t : Tag) (x : Env) (s w : State) (q : Nat) (f : Flight) (d : QueryDesc) (k : Fin 8) (a : Addr) (cs ls : List Cell)
      (u : State) (segs : List Segment) (refs : List (BitVec 32)),
      (CommandAt s t 0x33 q f → f.started = false → x.hostErr = none → w = (s.markStarted q f).withEnv x →
        (∀ z ∈ s.queries, z.tag ≠ some (Fin.ofNat 8 q, f.tag)) →
        ((f.job.toNat < 0xFF ∧ (s.group? (f.job.setWidth 8)).isSome = true) ∨
          (0xFF ≤ f.job.toNat ∧ ∃ j, s.job? f.job = some j ∧ (j.stopped = false ∨ j.queue.val ≠ q))) →
        f.arg 8 8 % 64 = 0 → queryDescOf (w.hostBytes (f.arg 8 8) 128) = d →
        (d.job ≠ f.job → exec (.skimQuery t x) s = .next ((w.refuse q f Status.invalidField 0x8000).stream q)) ∧
        (d.job = f.job → w.queryCheck x f.job (w.hostBytes (f.arg 8 8) 128) = (.ok segs refs, u) →
          exec (.skimQuery t x) s =
            .next (((u.holdObjs q f []).queryAccept d segs refs (some (Fin.ofNat 8 q, f.tag)) none).stream q)) ∧
        (∀ (st : BitVec 8) (det : Nat), d.job = f.job →
          w.queryCheck x f.job (w.hostBytes (f.arg 8 8) 128) = (.bad st det, u) →
          exec (.skimQuery t x) s = .next ((u.refuse q f st det).stream q)) ∧
        (d.job = f.job → w.queryCheck x f.job (w.hostBytes (f.arg 8 8) 128) = (.waits, u) →
          exec (.skimQuery t x) s = .next ((w.holdObjs q f (w.queryObjs x f.job d)).stream q))) ∧
      (∃ units : List Nat, s.queryAccept d segs refs none none =
          (refs.foldl (fun s r => s.ref r.toNat) s).queueQuery d segs refs units none none ∧
        ∀ j : Nat, j ∈ units ↔ j < 8 ∧ ∃ g ∈ segs, ∃ i, i < g.count ∧
          (refs.foldl (fun s r => s.ref r.toNat) s).skimmerOf d g i = j) ∧
      (s.mappedRange Tbl.empty a.toNat 128 false = true → s.load State.noEnv Tbl.empty a.toNat 128 = (cs, w) →
        queryDescOf (cellBytes cs) = d → w.load State.noEnv Tbl.empty d.seglist (32 * d.nseg) = (ls, u) →
        exec (.skmSubmit k a) s = .next (u.queueQuery d ((Bytes.chunks 32 (cellBytes ls)).map segmentOf) [] [k.val] none none)) ∧
      (s.mappedRange Tbl.empty a.toNat 128 false = false → exec (.skmSubmit k a) s = .next s)) ∧
  (
    ∀ (k : Fin 8) (x : Env) (s : State),
      (∀ (d : QueryDesc) (data scl : List Cell) (j kq : Nat) (e : Int),
        kq = (if d.s16 = true then (Bytes.chunks 2 (cellBytes ((data.drop (j * d.dataLen)).take d.dataLen))).map fun b =>
            Bytes.toNat b / 128 % 256
          else (cellBytes ((scl.drop (j * d.sclLen)).take d.sclLen)).map fun b => b.toNat).foldl max 0 →
        e = (if d.s16 = true then 2 else 18) →
        queryAnchor d data scl j =
          (if d.metric = 0 then ((kq : Int) - 127) + ((d.kmax : Int) - 127) + e - 42
           else 2 * (((max kq d.kmax : Nat) : Int) - 127) + e + 2 - 42)) ∧
      ((s.skm k.val).en = false ∨ (s.skm k.val).running.isSome = true → exec (.skimScanStart k) s = .next s) ∧
      (∀ (id : Nat) (z : Query) (data scl : List Cell) (v u : State), (s.skm k.val).en = true → (s.skm k.val).running = none →
        s.skmNext (s.skm k.val) = some id → s.query? id = some z →
        s.slotsFree (s.addrSlots z.d.qaddr (z.d.nq * z.d.dataLen)) = true →
        s.load State.noEnv (s.regionsOf z.d.job) z.d.qaddr (z.d.nq * z.d.dataLen) = (data, v) →
        (if z.d.s16 = true then (([] : List Cell), v)
          else v.load State.noEnv (v.regionsOf z.d.job) z.d.qsaddr (z.d.nq * z.d.sclLen)) = (scl, u) →
        exec (.skimScanStart k) s = .next (u.modSkm k.val fun v =>
          { v with running := some id, mode := .scan, qdata := data, qscl := scl, queue := v.queue.erase id ++ v.waiting.take 1
                   waiting := v.waiting.drop 1 })) ∧
      (∀ id : Nat, s.skmNext (s.skm k.val) = some id →
        (∃ z, s.query? id = some z ∧ z.d.prio = true) ∨
          ((∀ i ∈ (s.skm k.val).queue, ∀ z, s.query? i = some z → z.d.prio = false) ∧ (s.skm k.val).queue.head? = some id)) ∧
      (∀ (id : Nat) (z : Query) (rs : List ShareRes) (u : State), (s.skm k.val).running = some id → s.query? id = some z →
        (s.segsWait z.segs = true ∨ s.slotsFree (z.segs.flatMap (s.segSlots z.d)) = false → exec (.skimScanDone k x) s = .next s) ∧
        (s.segsWait z.segs = false → s.slotsFree (z.segs.flatMap (s.segSlots z.d)) = true → (List.range z.segs.length).foldl
          (fun p i => match z.segs[i]? with
            | some g => State.scanSegment x k.val z.d (s.skm k.val) i g (List.range g.count) p
            | none => p)
          ((List.range z.d.nq).map fun j =>
            { ShareRes.none with anchor := queryAnchor z.d (s.skm k.val).qdata (s.skm k.val).qscl j }, s.withEnv x) = (rs, u) →
        exec (.skimScanDone k x) s =
          .next (((((u.modSkm k.val fun u =>
            { u with running := none, done := true, doneCnt := Word.satInc u.doneCnt, qdata := [], qscl := [] }).occur
              (skmKey k.val) 16).modQuery id fun z =>
              { z with todo := z.todo.filter fun j => j != k.val, shares := z.shares ++ [rs] }).skmRest k.val).skmRest z.d.home.val))) ∧
      (∀ (id : Nat) (z : Query) (per : List ShareRes) (late bad : Bool), s.query? id = some z →
        (z.todo ≠ [] → exec (.skimMergeDone id) s = .next (s.react s)) ∧
        (z.todo = [] → per = ((List.range z.d.nq).map fun j => State.mergeShares z.d (z.shares.map fun sh => sh.getD j ShareRes.none)) →
          (late = true ↔ z.d.deadline ≠ 0 ∧ z.d.deadline.toNat < s.ns) → (bad = true ↔ ∃ r ∈ per, 0 < r.poisonVecs) →
          ∃ a b c d e w : State,
            a = (List.range z.d.nq).foldl
              (fun v j => v.store (s.regionsOf z.d.job) (z.d.result + j * z.d.blockLen)
                (cleanCells (State.resultBlock (Bytes.ofBool bad + 2 * Bytes.ofBool late) (per.getD j ShareRes.none)))) s ∧
            b = ({ (z.refs.foldl (fun s r => s.unref r.toNat) a) with
              queries := (z.refs.foldl (fun s r => s.unref r.toNat) a).queries.filter fun p => p.id != id } : State).skmRest z.d.home.val ∧
            c = (if bad = true then (b.modSkm z.d.home.val fun u =>
                { u with poison := true, poisonCnt := Word.satInc u.poisonCnt }).occur (skmKey z.d.home.val) 17 else b) ∧
            d = (if late = true then c.missReport 0x0F z.d.home.val z.d.job (z.group.getD 0xFF) z.d.seq 0xFF 3
                (((z.group.bind c.group?).bind fun g => (g.requests.head?.bind fun r => r.ops[r.cur]?).map fun o =>
                  c.opCause g o z.d.deadline.toNat).getD (0xF1, 0)) z.d.deadline.toNat c.ns else c) ∧
            e = z.group.elim d (fun g => d.skimOutcome g id late bad) ∧
            w = e.finishTag z.tag (if bad = true then Status.poisoned else if late = true then Status.deadlineMiss else Status.ok) 0
                (BitVec.ofNat 32 z.d.nq) (BitVec.ofNat 64 ((per.map (·.scanned)).foldl (· + ·) 0)) ∧
            exec (.skimMergeDone id) s =
              .next (s.react (if z.d.pcore = 0xFF then w else w.unitPost z.d.pcore.toNat z.d.psem 1)))))

/-- R274, R296: SERVE_SUBMIT on the group of its queue, with a request in host memory that Table 6-9 allows, adds the request to the
group's, accepted at the device time at which the firmware took the command from its ring; a request that it does not allow is refused with the offset of the first wrong byte, and one on
another queue's group as WRONG_QUEUE.
R275, R276, R277, R301: the operations of a group's first request run one after another. One starts when every core of the group is
IDLE (and, the first, when the job slot has room: it then takes the request's SEQ and releases its Almanac entries): a STREAM operation
starts the cores at its stream. A STREAM operation is over when the cores are IDLE again: the next one follows, or the request ends OK, or
DEADLINE_MISS after a report; one that completes after its deadline, or has been reported overdue, writes LATE_DONE first. An operation whose
deadline passes writes its report once. CANCEL takes a request that has not begun out of
the group as STOPPED, with its Almanac entries cancelled, and answers whether it found one. -/
def Obligations.ServingRuns : Prop :=
  (
    ∀ (t : Tag) (x : Env) (s w : State) (q : Nat) (f : Flight) (g : Group) (seq : BitVec 64) (ops : List ServeOp) (o : Nat),
      CommandAt s t 0x32 q f → x.hostErr = none → w = (s.markStarted q f).withEnv x → f.job.toNat < 0xFF →
      w.group? (f.job.setWidth 8) = some g →
      (g.queue.val ≠ q → exec (.serveSubmit t x) s = .next ((w.refuse q f Status.wrongQueue g.queue.val).stream q)) ∧
      (g.queue.val = q → f.arg 8 8 % 64 = 0 → 32 ≤ f.arg 16 2 →
        (let b := w.hostBytes (f.arg 8 8) (f.arg 16 2)
         let nops := Bytes.field b 9 1
         (0 < nops → nops ≤ 64 → f.arg 16 2 = 32 + 16 * nops) →
          (State.requestOf g b = .error o → exec (.serveSubmit t x) s = .next ((w.refuse q f Status.invalidField (0x8000 + o)).stream q)) ∧
          (State.requestOf g b = .ok (seq, ops) → exec (.serveSubmit t x) s =
            .next ((w.modGroup g.id fun g => { g with requests := g.requests ++
              [{ queue := Fin.ofNat 8 q, tag := f.tag, seq := seq, accept := f.taken, ops := ops, cur := 0, running := false,
                 query := none, reports := 0, failed := none }] }).stream q))))) ∧
  (
    ∀ (g : BitVec 8) (s : State) (gr : Group) (r : Request) (rest : List Request) (o : ServeOp),
      s.group? g = some gr → gr.requests = r :: rest → r.ops[r.cur]? = some o →
      (o.started = true ∨ s.groupIdle gr = false → exec (.serveOpStart g) s = .next (s.react s)) ∧
      (o.started = false → s.groupIdle gr = true → r.running = true → o.skim = false →
        exec (.serveOpStart g) s =
          .next (s.react ((s.modRequest g r.tag fun r =>
            { State.Request.modOp r r.cur fun o => { o with started := true, startedAt := s.now, stallAt := s.stallSums gr } with
              running := true }).startStream gr o.arg.toNat))) ∧
      (o.started = false → s.groupIdle gr = true → r.running = false → o.skim = false → (s.almSlot gr.slot.val).pvalid = false →
        ∃ u : State, u = ((s.writeSlotStep gr.slot.val r.seq).modGroup g fun g =>
            { g with clearing := false, toPlace := g.toPlace ++ g.schedule.map fun e => { e with step := r.seq } }) ∧
          exec (.serveOpStart g) s =
            .next (s.react ((u.modRequest g r.tag fun r =>
              { State.Request.modOp r r.cur fun o => { o with started := true, startedAt := u.now, stallAt := u.stallSums gr } with
                running := true }).startStream gr o.arg.toNat))) ∧
      (r.running = true → o.started = true → o.skim = false → s.groupIdle gr = true → State.opDeadline r o = none → r.failed = none →
        (r.cur + 1 < r.ops.length → exec (.serveOpDone g) s =
          .next (s.react (s.modRequest g r.tag fun r => { r with cur := r.cur + 1, query := none }))) ∧
        (r.ops.length ≤ r.cur + 1 → exec (.serveOpDone g) s =
          .next (s.react (s.endRequest g r (if r.reports = 0 then Status.ok else Status.deadlineMiss) 0)))) ∧
      (∀ (dl : Nat) (u : State), r.running = true → o.started = true → o.skim = false → s.groupIdle gr = true → r.failed = none →
        State.opDeadline r o = some dl → u = s.lateDone g r.tag →
        (r.cur + 1 < r.ops.length → exec (.serveOpDone g) s =
          .next (s.react (u.modRequest g r.tag fun r => { r with cur := r.cur + 1, query := none }))) ∧
        (r.ops.length ≤ r.cur + 1 → exec (.serveOpDone g) s = .next (s.react (u.endRequest g r
          (if ((u.group? g).bind fun g => g.requests.head?).elim 0 (·.reports) = 0 then Status.ok else Status.deadlineMiss) 0))) ∧
        (s.ns ≤ dl → o.overdue = false → u = s) ∧
        (o.overdue = true → u = (s.missReport 0x11 0 (g.setWidth 16) g r.seq r.cur 1 (s.opCause gr o dl) dl s.ns).modRequest g r.tag
          fun r => { r with reports := r.reports + 1 }) ∧
        (dl < s.ns → o.overdue = false → ∃ v : State, v = s.overdue gr r r.cur o dl ∧
          u = (v.missReport 0x11 0 (g.setWidth 16) g r.seq r.cur 1 (v.opCause gr o dl) dl v.ns).modRequest g r.tag
            fun r => { r with reports := r.reports + 1 })) ∧
      (∀ (dl : Nat) (i : Fin 64), i.val = r.cur → State.opDeadline r o = some dl → dl ≤ s.ns → o.overdue = false →
        exec (.deadlineOverdue g i) s = .next (s.overdue gr r i.val o dl)) ∧
      (∀ (t : Tag) (q : Nat) (f : Flight), CommandAt s t 0x34 q f → f.started = false → f.job = g.setWidth 16 → g ≠ 0xFF →
        gr.queue.val = q →
        ((gr.requests.find? fun r => r.seq == BitVec.ofNat 64 (f.arg 8 8)) = none →
          exec (.cancel t) s = .next (s.react (((s.markStarted q f).finishOk q f 0 0).stream q))) ∧
        (∀ z : Request, (gr.requests.find? fun r => r.seq == BitVec.ofNat 64 (f.arg 8 8)) = some z → z.running = false →
          exec (.cancel t) s =
            .next (s.react ((((((s.markStarted q f).cancelEntries (g.setWidth 16) (some (BitVec.ofNat 64 (f.arg 8 8)))).endRequest g z
              Status.stopped 0).finishOk q f 1 0)).stream q)))))

/-! ## Chapter 7: mailboxes and commands -/

/-- R284, R285, R286, R287, R378 (Table 7-4): the queue registers, which the host writes while BAR0 is served. ENABLE = 1 while READY starts a queue whose sizes and bases are legal, its
rings empty and phase 1, and otherwise leaves it off with ERROR CONFIG; ENABLE = 0 stops fetching, and ENABLED reads 0 once nothing is in flight. A doorbell of a queue that is not enabled counts and is ignored; one beyond the ring is the error BAD_DOORBELL. Every error counts, sets
Q_STATUS.ERR and raises INT_CAUSE.QERR; every write pulses the queue's source.
R282, R289, R354: INT_CAUSE and the queues' vectors. A cause sets its bit, counts, and sends vector 0 when it is enabled; a masked
vector sets its pending bit, an unmasked one goes out while MSI-X is enabled, and waits while no TLP may leave; no queue sends vector 0. IMOD_TIME after the oldest record that has not been signalled, the queue's vector is
sent and none is left unsignalled. A second without a Secure stream ends the wait of a command with a host access to make HOST_DMA_ERROR,
what it was to write undefined (R314), or that of a queue's records with the error DMA_FAULT.
R287, R290, R291, R292: a queue that is READY, enabled and without error, whose tail is ahead, fetches in its turn the next descriptor of
its ring when a tag is free for it; the turn stays with a queue that has more for up to eight descriptors. The command takes the tag and the
next place, its checks' verdict and the time of the fetch are kept, the fetch position goes round the ring, and the stream goes on. A fetch
that the host does not answer is the error DMA_FAULT.
R288, R289, R292: the oldest waiting record of a queue is written to the completion ring when the ring has a free slot beyond the
tail: 32 bytes at the tail's slot with the queue's phase, which changes as the tail wraps, and it is signalled or counted. In a full ring
nothing is written, and each waiting record counts once as held. An OBJ_EVICT's record waits
for its control cycle's end (R168). -/
def Obligations.QueuesWork : Prop :=
  (
    ∀ (q : QueueId) (v : BitVec 8) (s : State),
      (s.barServed = false → exec (.qCtrlEnable q) s = .next s ∧ exec (.qCtrlDisable q) s = .next s ∧
        exec (.qSqTailDb q v) s = .next s ∧ exec (.qCqHeadDb q v) s = .next s) ∧
      (s.barServed = true → ∃ u : State, u = (s.modQueue q.val fun h => { h with enable := true }).pulse (0x108 + q.val) ∧
        ((s.bar.mode ≠ .ready ∨ (s.queue q.val).enabled = true) → exec (.qCtrlEnable q) s = .next u) ∧
        (s.bar.mode = .ready → (s.queue q.val).enabled = false →
          (1 ≤ (s.queue q.val).sqLog2.toNat ∧ (s.queue q.val).sqLog2.toNat ≤ 8 ∧ 1 ≤ (s.queue q.val).cqLog2.toNat ∧
            (s.queue q.val).cqLog2.toNat ≤ 8 ∧ (s.queue q.val).sqBase ≠ 0 ∧ (s.queue q.val).cqBase ≠ 0 →
            exec (.qCtrlEnable q) s = .next (u.modQueue q.val fun h =>
              { h with
                enabled := true, draining := false, error := 0, phase := true, cqTail := 0, tail := 0, fetchPos := 0, head := 0, fetched := 0
                flights := [], ended := Tbl.empty, waiting := [], unsig := 0, unsigAt := 0, fenceFails := 0 })) ∧
          (¬ (1 ≤ (s.queue q.val).sqLog2.toNat ∧ (s.queue q.val).sqLog2.toNat ≤ 8 ∧ 1 ≤ (s.queue q.val).cqLog2.toNat ∧
            (s.queue q.val).cqLog2.toNat ≤ 8 ∧ (s.queue q.val).sqBase ≠ 0 ∧ (s.queue q.val).cqBase ≠ 0) →
            exec (.qCtrlEnable q) s = .next (u.queueError q.val 3)))) ∧
      (s.barServed = true → ∃ u : State, u = (s.modQueue q.val fun h => { h with enable := false, draining := h.enabled }).pulse (0x108 + q.val) ∧
        exec (.qCtrlDisable q) s = .next (if s.bar.mode = .ready then u.modQueue q.val fun h =>
          if h.enabled = true ∧ h.draining = true ∧ h.flights = [] ∧ h.waiting = [] then { h with enabled := false, draining := false }
          else h else u)) ∧
      (s.barServed = true → ∃ u : State, u = s.pulse (0x100 + q.val) ∧
        exec (.qSqTailDb q v) s = .next (
          if (s.queue q.val).enabled = false then u.modQueue q.val fun h => { h with igndbCnt := Word.satInc h.igndbCnt }
          else if 2 ^ (s.queue q.val).sqLog2.toNat ≤ v.toNat then u.queueError q.val 1
          else u.modQueue q.val fun h => { h with tail := v.toNat })) ∧
      (s.barServed = true → ∃ u : State, u = s.pulse (0x108 + q.val) ∧
        exec (.qCqHeadDb q v) s = .next (
          if (s.queue q.val).enabled = false then u.modQueue q.val fun h => { h with igndbCnt := Word.satInc h.igndbCnt }
          else if 2 ^ (s.queue q.val).cqLog2.toNat ≤ v.toNat then u.queueError q.val 1
          else u.modQueue q.val fun h => { h with head := v.toNat })) ∧
      (∀ code : BitVec 4, s.queueError q.val code =
        ((s.modQueue q.val fun h => { h with error := code, err := true, errCnt := Word.satInc h.errCnt }).occur
          (barKey (0x1020 + 0x80 * q.val)) 32).raiseCause .qerr)) ∧
  (
    ∀ (q : QueueId) (s : State),
      (0 < (s.queue q.val).unsig → (s.queue q.val).unsigAt + 1000 * max 1 (s.queue q.val).imodTime.toNat ≤ s.ns →
        ∃ u : State, u = (s.modQueue q.val fun h => { h with unsig := 0 }) ∧
          ((s.queue q.val).vector ≠ 0 → exec (.imodTimer q) s = .next (u.sendMsix (s.queue q.val).vector)) ∧
          ((s.queue q.val).vector = 0 → exec (.imodTimer q) s = .next u)) ∧
      (∀ v : BitVec 6, (s.bar.msixOn = false → s.sendMsix v = s) ∧
        (s.bar.msixOn = true → s.bar.masked v.toNat = true → s.sendMsix v = { s with bar := { s.bar with
          msixPend := s.bar.msixPend ||| (1#64 <<< v.toNat) } }) ∧
        (s.bar.msixOn = true → s.bar.masked v.toNat = false → s.ideStall = true → s.bar.msixWait.contains v = false →
          s.sendMsix v = { s with bar := { s.bar with msixWait := s.bar.msixWait ++ [v] } }) ∧
        (s.bar.msixOn = true → s.bar.masked v.toNat = false → s.ideStall = false → s.sendMsix v = { s with out := s.out ++ [.msix v] }) ∧
        (s.bar.msixAll = true → s.bar.masked v.toNat = true)) ∧
      (∃ u : State, u = (({ s with bar := { s.bar with icQerr := true, qerrCnt := Word.satInc s.bar.qerrCnt } } : State).occur
          (barKey 0x0040) 2) ∧
        s.raiseCause .qerr = if s.bar.intEnable.getLsbD 2 = true then u.sendMsix 0 else u) ∧
      (s.bar.mode = .ready → s.ideStall = true →
        (∀ (t : Tag) (f : Flight), (s.queue q.val).flights.find? (fun f => f.tag == t) = some f →
          (s.hostAccess q.val f = true → f.started = true ∨ s.mayStart q.val f false = true → exec (.ideWaitTimeout q (some t)) s =
            .next (s.react ((if f.opc = 0x07 then s.dropChange q.val f else s.spoilCmd f).refuse q.val f Status.hostDmaError 4))) ∧
          (s.hostAccess q.val f = false → exec (.ideWaitTimeout q (some t)) s = .next (s.react s))) ∧
        ((s.queue q.val).waiting ≠ [] ∨ ((s.queue q.val).vector ≠ 0 ∧ s.bar.msixWait.contains (s.queue q.val).vector = true) →
          exec (.ideWaitTimeout q none) s = .next (({ s with bar := { s.bar with
            msixWait := s.bar.msixWait.filter fun w => w != (s.queue q.val).vector || (s.queue q.val).vector == 0 } } : State).queueError
              q.val 2)) ∧
        ((s.queue q.val).waiting = [] → s.bar.msixWait.contains (s.queue q.val).vector = false →
          exec (.ideWaitTimeout q none) s = .next s))) ∧
  (
    ∀ (q : QueueId) (x : Env) (s : State) (t : Tag),
      s.bar.mode = .ready → (s.queue q.val).enabled = true → (s.queue q.val).enable = true → (s.queue q.val).error = 0 →
      s.bar.d3 = false → (s.queue q.val).fetchPos ≠ (s.queue q.val).tail → s.ideStall = false → s.sec.ownerHold = false →
      (s.queue q.val).draining = false → s.tagFor q.val = some t →
      (s.fetchable q.val = true) ∧ (s.visit.1 = q → s.visit.2 < 8 → s.itsTurn q.val = true) ∧
      (∀ p : QueueId, s.itsTurn q.val = true → s.itsTurn p.val = true → p = q) ∧
      (s.itsTurn q.val = false → exec (.commandFetch q x) s = .next s) ∧
      (s.itsTurn q.val = true → x.hostErr ≠ none → exec (.commandFetch q x) s = .next ((s.visited q.val).queueError q.val 2)) ∧
      (s.itsTurn q.val = true → x.hostErr = none → ∃ (u : State) (d : List Byte), u = (s.visited q.val).withEnv x ∧
        d = u.hostBytes ((s.queue q.val).sqBase.toNat * 4096 + 64 * (s.queue q.val).fetchPos) 64 ∧
        exec (.commandFetch q x) s = .next ((u.modQueue q.val fun h =>
          { h with
            fetchPos := (h.fetchPos + 1) % 2 ^ h.sqLog2.toNat
            fetched := h.fetched + 1
            flights := h.flights ++ [{ n := h.fetched, tag := t, desc := d, started := false
                                       refused := u.fetchCheck (s.queue q.val) h.fetched d, taken := u.now }] }).stream q.val)) ∧
      (t ∉ s.tagsUsed)) ∧
  (
    ∀ (q : QueueId) (s : State) (r : Record) (rest : List Record),
      s.bar.mode = .ready → (s.queue q.val).enabled = true → s.bar.d3 = false → s.ideStall = false →
      (s.queue q.val).waiting = r :: rest →
      let size := 2 ^ (s.queue q.val).cqLog2.toNat
      let slot := (s.queue q.val).cqTail.toNat
      (s.evictOpen q.val r = true → exec (.cqRecordPost q) s = .next s) ∧
      (s.evictOpen q.val r = false →
      ((slot + 1) % size = (s.queue q.val).head → exec (.cqRecordPost q) s = .next (s.modQueue q.val fun h =>
        { h with waiting := h.waiting.map fun r => { r with held := true }
                 holdCnt := Word.satAdd h.holdCnt (h.waiting.filter fun r => !r.held).length })) ∧
      ((slot + 1) % size ≠ (s.queue q.val).head →
        ∃ u : State,
          u = (((s.hostPut ((s.queue q.val).cqBase.toNat * 4096 + 32 * slot) (State.recordBytes q.val (s.queue q.val) r)).emit
            (.record (Fin.ofNat 8 q.val) slot r (s.queue q.val).phase)).modQueue q.val fun h =>
              { h with waiting := rest, cqTail := BitVec.ofNat 8 ((slot + 1) % size)
                       phase := if (slot + 1) % size = 0 then !h.phase else h.phase
                       ended := h.ended.put r.n r.status }) ∧
          exec (.cqRecordPost q) s = .next (((u.coalesce q.val r).drainOff q.val).stream q.val) ∧
          (State.recordBytes q.val (s.queue q.val) r).length = 32)))

/-- R311, R312, R313, R319: what the completion of a command does: its record, with the device time of this moment, joins those that wait,
the command is no longer in flight, and, as its stream goes on, the only other commands that complete are those that their checks refused
or that R300 stopped, and those that depend on a failed command, as SKIPPED. Nothing but its queue changes. -/
def Obligations.CommandsComplete : Prop :=
  ∀ (v : State) (q : QueueId) (f : Flight) (st : BitVec 8) (det : BitVec 16) (r0 : BitVec 32) (r1 : BitVec 64),
    let u := v.finish q.val f st det r0 r1
    u = { v with queues := u.queues } ∧ (∀ p : QueueId, p ≠ q → u.queue p.val = v.queue p.val) ∧
    (∃ later : List Record,
      (u.queue q.val).waiting = (v.queue q.val).waiting ++ recordOf v f st det r0 r1 :: later ∧
      ∀ r ∈ later, ∃ g ∈ (v.queue q.val).flights, r.n = g.n ∧ r.tag = g.tag ∧ g.started = false ∧
        ((∃ d, g.refused = some (r.status, d) ∧ r.detail = d) ∨ (g.refused = none ∧ r.status = Status.skipped ∧ r.detail = 0))) ∧
    (∀ g : Flight, g ∈ (u.queue q.val).flights → g ∈ (v.queue q.val).flights ∧ g.n ≠ f.n)

/-- R294, R392, R408, R422, R426 (Table 7-8): the device commands that read and write host memory: IDENTIFY writes the identity block,
TELEMETRY a page of up to LEN bytes and answers its length, LOG_READ the log's records from a sequence number on and answers how many and
the next; HEADINGS takes a table whose points and minimums are legal, which waits for Helm's next decision; LOG_CLEAR empties the log but for the record of the clearing. Buffers
must be 64-byte aligned. -/
def Obligations.DeviceCommandsAnswer : Prop :=
  ∀ (t : Tag) (x : Env) (s w : State) (q : Nat) (f : Flight), x.hostErr = none → w = (s.markStarted q f).withEnv x →
    (CommandAt s t 0x01 q f →
      (f.arg 8 8 % 64 = 0 → AnswersFrom (.identify t x) s q f (w.hostPut (f.arg 8 8) (Bytes.fit 4096 w.identityHead)) Status.ok 0 0 0) ∧
      (f.arg 8 8 % 64 ≠ 0 → exec (.identify t x) s = .next ((w.refuse q f Status.invalidField 8).stream q))) ∧
    (CommandAt s t 0x02 q f → f.arg 8 8 % 64 = 0 →
      (f.arg 20 1 ≤ 6 → (w.pageBytes (f.arg 20 1) (f.arg 16 4)).length ≤ f.arg 16 4 ∧
        AnswersFrom (.telemetry t x) s q f (w.hostPut (f.arg 8 8) (w.pageBytes (f.arg 20 1) (f.arg 16 4))) Status.ok 0
          (BitVec.ofNat 32 (w.pageBytes (f.arg 20 1) (f.arg 16 4)).length) 0) ∧
      (6 < f.arg 20 1 → exec (.telemetry t x) s = .next ((w.refuse q f Status.invalidField 20).stream q))) ∧
    (CommandAt s t 0x03 q f → f.arg 8 8 % 64 = 0 →
      ∃ rs : List Event,
        rs = ((s.log.retained ++ s.log.ring).filter fun e => decide (BitVec.ofNat 64 (f.arg 24 8) ≤ e.seq)).take (f.arg 16 4) ∧
        AnswersFrom (.logRead t x) s q f (w.hostPut (f.arg 8 8) (rs.flatMap Event.bytes)) Status.ok 0
          (BitVec.ofNat 32 rs.length) (match rs.getLast? with | some e => e.seq + 1 | none => BitVec.ofNat 64 (f.arg 24 8))) ∧
    (CommandAt s t 0x05 q f → f.arg 8 8 % 64 = 0 → f.arg 16 4 = 64 →
      ∃ b : List Byte, b = w.hostBytes (f.arg 8 8) 64 ∧
        (State.headingsBad b = none →
          ∃ v : State, v = (w.modHelm fun h =>
            { h with table := some (tabulate 8 fun p => BitVec.ofNat 4 (Bytes.field b (8 * p) 1),
                                    tabulate 8 fun p => BitVec.ofNat 4 (Bytes.field b (8 * p + 1) 1)) }) ∧
          AnswersFrom (.headings t x) s q f v Status.ok 0 0 0) ∧
        (∀ i, State.headingsBad b = some i →
          exec (.headings t x) s = .next ((w.refuse q f Status.invalidField (0x8000 + i)).stream q))) ∧
    (∀ p : PilotId, CommandAt s t 0x04 q f → p.val ≠ 3 →
      ∃ v : State, v = (({ (s.markStarted q f) with log := { s.log with
            retained := [], ring := [], overflow := 0, drops := 0, overwrote := false } } : State).event 0x0071 0x11 p.val false p.val
          0xFFFF (Bytes.ofNat 4 s.log.overflow.toNat ++ Bytes.ofNat 4 s.log.drops.toNat)) ∧
        AnswersFrom (.logClear t p) s q f v Status.ok 0 s.log.overflow 0)

/-- R148, R303, R308, R309 (Table 7-10): JOB_LOAD of a SERVING image that its checks pass keeps the image in die 0's device area; of a
training image it takes the dies and a job slot and loads the job; a bad image, an identifier in use and dies in use are refused, and
nothing changes. JOB_REGION maps a declared region of a job with no step in flight at a page-aligned host address, no longer than declared;
JOB_UNLOAD gives back the dies of a stopped job with nothing in flight.
R270, R271, R296, R300, R308, R309: GROUP_CREATE makes a group from a loaded image on free dies of the number it wants, in a free job
slot; GROUP_DESTROY of a group with no request clears its cores and gives back its pins, staging credits, dies and slot. JOB_STOP stops the job and answers its
last completed step when the stop is over. -/
def Obligations.JobCommands : Prop :=
  (
    ∀ (t : Tag) (x : Env) (s v w : State) (q : Nat) (f : Flight) (b : List Byte),
      v = s.markStarted q f → w = v.withEnv x →
      (CommandAt s t 0x20 q f → x.hostErr = none → 0x0100 ≤ f.job.toNat → f.job ≠ 0xFFFF → f.arg 8 8 % 64 = 0 →
        b = w.hostBytes (f.arg 8 8) (f.arg 16 8) →
        (∀ e, containerError b (f.arg 16 8) = some e →
          exec (.jobLoad t x) s = .next ((w.refuse q f Status.imageInvalid e).stream q)) ∧
        (∀ st d, containerError b (f.arg 16 8) = none → w.signatureError b = some (st, d) →
          exec (.jobLoad t x) s = .next ((w.refuse q f st d).stream q)) ∧
        (containerError b (f.arg 16 8) = none → w.signatureError b = none →
          (∀ e, Bytes.field b 16 1 = 1 → w.servingErrorOf b (Bytes.field b 20 4) = some e →
            exec (.jobLoad t x) s = .next ((w.refuse q f Status.imageInvalid e).stream q)) ∧
          (Bytes.field b 16 1 = 1 → w.servingErrorOf b (Bytes.field b 20 4) = none → w.idTaken f.job = true →
            exec (.jobLoad t x) s = .next ((w.refuse q f Status.inUse 6).stream q)) ∧
          (Bytes.field b 16 1 = 1 → w.servingErrorOf b (Bytes.field b 20 4) = none → w.idTaken f.job = false →
            w.roomError (State.planOf b).windows (fun m => if m = 0 then f.arg 16 8 else 0) = none →
            ∃ y : State, y = { (w.reserve 0 f.job.toNat (f.arg 16 8)) with
                images := w.images ++ [{ id := f.job, dies := Bytes.field b 20 4, digest := Config.sha384 b, bytes := b }] } ∧
              AnswersFrom (.jobLoad t x) s q f y Status.ok 0 0 (BitVec.ofNat 64 y.areaMax)) ∧
          (∀ (dies : BitVec 22) (slot : Fin 8), Bytes.field b 16 1 ≠ 1 → dies ≠ 0 → Bytes.field b 20 4 = dies.toNat →
            w.imageErrorOf b dies = none → w.idTaken f.job = false →
            (w.anyTaken dies = true → exec (.jobLoad t x) s = .next ((w.refuse q f Status.inUse 8).stream q)) ∧
            (w.anyTaken dies = false → w.freeSlot = some slot →
              w.roomError (State.planOf b).windows (State.parkBytes (State.planOf b).params) = none →
              ∃ y : State, y = w.loadJob q f.job b dies slot ∧
                AnswersFrom (.jobLoad t x) s q f y Status.ok 0 (dies.setWidth 32) (BitVec.ofNat 64 y.areaMax))))) ∧
      (∀ (j : Job) (g : Region), s.job? f.job = some j → 0xFF ≤ f.job.toNat →
        (CommandAt s t 0x21 q f → (j.stopped = false ∨ j.queue.val ≠ q) → j.regions.find? (f.arg 8 1) = some g →
          f.arg 16 8 % 4096 = 0 → f.arg 24 8 ≤ g.declLen →
          (j.steps ≠ [] → exec (.jobRegion t) s = .next ((v.refuse q f Status.inUse 6).stream q)) ∧
          (j.steps = [] → ∃ m : Region,
            m = { g with mapped := true, hbase := BitVec.ofNat 64 (f.arg 16 8), len := f.arg 24 8, perm := BitVec.ofNat 2 (f.arg 9 1) } ∧
            AnswersFrom (.jobRegion t) s q f (v.modJob j.id fun k => { k with regions := j.regions.put (f.arg 8 1) m })
              Status.ok 0 0 0)) ∧
        (CommandAt s t 0x23 q f →
          (j.stopped = true → v.stopOver j = true → v.jobBusy j f = false →
            AnswersFrom (.jobUnload t) s q f (v.unloadJob j) Status.ok 0 0 0) ∧
          (j.stopped = false → exec (.jobUnload t) s = .next ((v.refuse q f Status.inUse 6).stream q))))) ∧
  (
    ∀ (t : Tag) (s v : State) (q : Nat) (f : Flight), v = s.markStarted q f →
      (∀ (im : Image) (dies : BitVec 22), CommandAt s t 0x30 q f → f.job.toNat ≤ 0xFE →
        v.images.find? (fun i => i.id == BitVec.ofNat 16 (f.arg 8 2)) = some im → v.group? (f.job.setWidth 8) = none →
        f.arg 12 4 = dies.toNat → popcount dies = im.dies →
        (v.anyTaken dies = true → exec (.groupCreate t) s = .next ((v.refuse q f Status.inUse 12).stream q)) ∧
        (v.anyTaken dies = false → v.freeSlot = none → exec (.groupCreate t) s = .next ((v.refuse q f Status.noResource 1).stream q)) ∧
        (∀ slot, v.anyTaken dies = false → v.freeSlot = some slot →
          v.roomError (State.planOf (State.relocate (coresOf dies) im.bytes)).windows (fun _ => 0) = none →
          AnswersFrom (.groupCreate t) s q f (v.makeGroup q (f.job.setWidth 8) im dies slot) Status.ok 0 (BitVec.ofNat 32 slot.val) 0)) ∧
      (∀ g : Group, CommandAt s t 0x31 q f → f.job.toNat < 0xFF → v.group? (f.job.setWidth 8) = some g →
        (g.requests ≠ [] → exec (.groupDestroy t) s = .next (s.react ((v.refuse q f Status.inUse 6).stream q))) ∧
        (g.requests = [] →
          ∃ z y : State, z = (g.pins.foldl State.unref (v.clearGroup g)).dropStaging g.schedule ∧
            y = ({ z with groups := z.groups.filter fun k => k.id != g.id } : State).dropSlot g.slot.val ∧
            exec (.groupDestroy t) s = .next (s.react ((y.finishOk q f 0 0).stream q)))) ∧
      (∀ j : Job, CommandAt s t 0x22 q f → f.started = false → v.job? f.job = some j →
        ∃ y : State, y = v.stopJob j.id none ∧
          (∀ k : Job, y.job? j.id = some k →
            (y.stopOver k = true → exec (.jobStop t) s = .next (s.react ((y.finishOk q f 0 k.train.step).stream q))) ∧
            (y.stopOver k = false → exec (.jobStop t) s = .next (s.react (y.stream q))))))

/-! ## Chapter 8: ordering, fixes, restoring -/

/-- R294, R299, R300, R308, R309, R316: a FENCE completes when every earlier command of its stream has completed and has its record written,
and answers how many commands failed since the fence before it; until then it waits. One that names no loaded job or group is NOT_FOUND, one
in the stream of its stopped job STOPPED. A DMA waits for its slots. It
moves bytes between a mapped region of its work and device
addresses that its map permits: outward the device's bytes go to host memory, poisoned ones as poisoned TLPs, with the first poisoned
64-byte unit in RESULT1; inward the host's bytes are stored. A range that the region does not hold, or that the map does not permit, is
MAP_VIOLATION and nothing moves. -/
def Obligations.FencesAndTransfers : Prop :=
  ∀ (t : Tag) (x : Env) (s w : State) (q : Nat) (f : Flight),
    (CommandAt s t 0x25 q f →
      ((s.queue q).waiting = [] → (∀ g ∈ (s.queue q).flights, f.n ≤ g.n) →
        (f.job = 0xFFFF ∨ (f.job.toNat < 0xFF ∧ (s.group? (f.job.setWidth 8)).isSome = true) ∨
            (0xFF ≤ f.job.toNat ∧ ∃ j, s.job? f.job = some j ∧ (j.stopped = false ∨ j.queue.val ≠ q)) →
          AnswersFrom (.fence t) s q f ((s.markStarted q f).modQueue q fun h => { h with fenceFails := 0 }) Status.ok 0
            (BitVec.ofNat 32 (s.queue q).fenceFails) 0) ∧
        (f.job.toNat < 0xFF → s.group? (f.job.setWidth 8) = none →
          AnswersFrom (.fence t) s q f (s.markStarted q f) Status.notFound 6 0 0) ∧
        (0xFF ≤ f.job.toNat → f.job ≠ 0xFFFF → s.job? f.job = none →
          AnswersFrom (.fence t) s q f (s.markStarted q f) Status.notFound 6 0 0) ∧
        (∀ j, 0xFF ≤ f.job.toNat → f.job ≠ 0xFFFF → s.job? f.job = some j → j.stopped = true → j.queue.val = q →
          AnswersFrom (.fence t) s q f (s.markStarted q f) Status.stopped 0 0 0)) ∧
      (((s.queue q).waiting ≠ [] ∨ ∃ g ∈ (s.queue q).flights, g.n < f.n) → exec (.fence t) s = .next s)) ∧
    (CommandAt s t 0x26 q f → x.hostErr = none → w = (s.markStarted q f).withEnv x →
      ((f.job.toNat < 0xFF ∧ (s.group? (f.job.setWidth 8)).isSome = true) ∨
        (0xFF ≤ f.job.toNat ∧ ∃ j, s.job? f.job = some j ∧ (j.stopped = false ∨ j.queue.val ≠ q))) →
      ∃ (rs : Tbl Region) (host : Nat), rs = w.regionsOf f.job ∧
        host = (rs.get Region.absent (f.arg 9 1)).hbase.toNat + f.arg 16 8 ∧
        (f.arg 8 1 ≤ 1 → f.arg 32 8 ≠ 0 → regionHolds rs (f.arg 9 1) (f.arg 16 8) (f.arg 32 8) (f.arg 8 1 == 1) = false →
          exec (.dma t x) s = .next ((w.refuse q f Status.mapViolation 16).stream q)) ∧
        (f.arg 8 1 ≤ 1 → f.arg 32 8 ≠ 0 → regionHolds rs (f.arg 9 1) (f.arg 16 8) (f.arg 32 8) (f.arg 8 1 == 1) = true →
          w.permitted f.job (f.arg 24 6) (f.arg 32 8) (f.arg 8 1 == 0) = false →
          exec (.dma t x) s = .next ((w.refuse q f Status.mapViolation 24).stream q)) ∧
        (f.arg 8 1 = 1 → f.arg 32 8 ≠ 0 → regionHolds rs (f.arg 9 1) (f.arg 16 8) (f.arg 32 8) true = true →
          w.permitted f.job (f.arg 24 6) (f.arg 32 8) false = true →
          (w.slotsFree (.host (Sys2Proof.Machine.smallTransfer (f.arg 32 8)) :: w.addrSlots (f.arg 24 6) (f.arg 32 8)) = false →
            exec (.dma t x) s = .next (w.stream q)) ∧
          (w.slotsFree (.host (Sys2Proof.Machine.smallTransfer (f.arg 32 8)) :: w.addrSlots (f.arg 24 6) (f.arg 32 8)) = true →
          ∃ (cs : List Cell) (u : State), (cs, u) = w.load x rs (f.arg 24 6) (f.arg 32 8) ∧
            (anyPoison cs = false → AnswersFrom (.dma t x) s q f (u.hostWrite host cs) Status.ok 0 0 0) ∧
            (∀ p, State.firstPoison cs (f.arg 24 6) = some p →
              AnswersFrom (.dma t x) s q f (u.hostWrite host cs) Status.poisoned 0 0 (BitVec.ofNat 64 (p - f.arg 24 6))))) ∧
        (f.arg 8 1 = 0 → f.arg 32 8 ≠ 0 → regionHolds rs (f.arg 9 1) (f.arg 16 8) (f.arg 32 8) false = true →
          w.permitted f.job (f.arg 24 6) (f.arg 32 8) true = true →
          (w.slotsFree [.host (Sys2Proof.Machine.smallTransfer (f.arg 32 8))] = false → exec (.dma t x) s = .next (w.stream q)) ∧
          (w.slotsFree [.host (Sys2Proof.Machine.smallTransfer (f.arg 32 8))] = true → AnswersFrom (.dma t x) s q f (w.store rs (f.arg 24 6) (cleanCells (w.hostBytes host (f.arg 32 8)))) Status.ok 0 0 0)))

/-- R143, R163, R166, R299, R327, R331, R332, R334, R335, R361 (Tables 3-16 to 3-19): EXPORT and FIX of a job, on the job's queue. An EXPORT
does not start while a step of the job is in flight (the model's choice, log 57), and waits, with references on them, while a state object is
being written; of COUNT shards from a shard's number on it writes their exports to the region and answers their number and their bytes. A FIX
waits for the job's steps, for state objects that are being written and for its destination's readers and writes, and begins in no epoch that a
RESHARD waits to end. It sends this module's digests to the other replicas and waits for theirs; one of another STEP ends it FABRIC_LOST. It
repairs the shards that differ among the replicas by multicasts from the majority, or from the node that the source list names, and is
refused where a diverged shard has no source. Once every repair has come and no flash die holds its writes back, the shards take their state
and the fix is written to its region, or to its flash object as a new generation, with the step's number as the answer. What reads poisoned
makes either POISONED, its host destination undefined (R314), and sealed flash state refuses either. The training-state record of every export
reads back as the job's training state. -/
def Obligations.StateIsTakenOut : Prop :=
  ∀ (t : Tag) (x : Env) (peers : List PeerDigests) (s w : State) (q : Nat) (f : Flight) (j : Job),
    x.hostErr = none → w = (s.markStarted q f).withEnv x → s.job? f.job = some j → j.queue.val = q → j.stopped = false →
    (CommandAt s t 0x2C q f →
      (j.steps ≠ [] → exec (.exportState t x) s = .next s) ∧
      (∀ (from_ picked : List Shard) (n at_ : Nat), j.steps = [] →
        at_ = (j.regions.get Region.absent (f.arg 9 1)).hbase.toNat + f.arg 16 8 →
        from_ = (State.shardsUp j).dropWhile (fun sh => decide (sh.num.toNat < f.arg 12 2)) → picked = from_.take (f.arg 14 2) →
        (from_.head?).map (fun sh => sh.num.toNat) = some (f.arg 12 2) → f.arg 14 2 ≠ 0 → f.arg 14 2 ≤ from_.length →
        n = (picked.map fun sh => shardLen sh (Bytes.bit (f.arg 8 1) 0)).foldl (· + ·) 0 →
        (regionHolds j.regions (f.arg 9 1) (f.arg 16 8) n true = false →
          exec (.exportState t x) s = .next ((w.refuse q f Status.mapViolation 16).stream q)) ∧
        (regionHolds j.regions (f.arg 9 1) (f.arg 16 8) n true = true →
          (w.sealedState (picked.flatMap fun sh => sh.descs) = true →
            exec (.exportState t x) s = .next ((w.refuse q f Status.notPermitted 0x09).stream q)) ∧
          (w.sealedState (picked.flatMap fun sh => sh.descs) = false →
            ((∃ oid ∈ State.stateObjs j, ∃ o, w.obj? oid = some o ∧ o.mode = .writing) →
              exec (.exportState t x) s = .next ((w.holdObjs q f (State.stateObjs j)).stream q)) ∧
            ((∀ oid ∈ State.stateObjs j, ∀ o, w.obj? oid = some o → o.mode ≠ .writing) → ∃ (cs : List Cell) (u : State),
              (cs, u) = State.gather (fun v sh => v.shardExport x j sh (Bytes.bit (f.arg 8 1) 0)) picked w ∧
              (anyPoison cs = false → AnswersFrom (.exportState t x) s q f (u.hostWrite at_ cs) Status.ok 0
                (BitVec.ofNat 32 picked.length) (BitVec.ofNat 64 n)) ∧
              (anyPoison cs = true → AnswersFrom (.exportState t x) s q f ((u.hostWrite at_ cs).spoilRange at_ n) Status.poisoned
                0 0 0)))))) ∧
    (∀ (list : List Byte) (h : State),
      (CommandAt s t 0x2A q f → w.fixPlaceError j f (State.fixLen j) true = none → f.arg 24 8 % 64 = 0 →
      list = w.hostBytes (f.arg 24 8) (if f.arg 24 8 = 0 then 0 else f.arg 32 4) →
      (f.arg 24 8 ≠ 0 → f.arg 32 4 % 8 = 0 ∧ f.arg 32 4 ≤ 32768) → State.sourceError j list = none →
      h = w.holdObjs q f (State.fixObjs j f) →
      (w.sealedState (j.shards.flatMap fun sh => sh.descs) = true →
        exec (.fix t peers x) s = .next (s.react ((w.refuseFix q f j Status.notPermitted 0x09).stream q))) ∧
      (w.sealedState (j.shards.flatMap fun sh => sh.descs) = false →
        (h.fixHeld j f = true → exec (.fix t peers x) s = .next (s.react (h.stream q))) ∧
        (h.fixHeld j f = false → j.repairs = none →
          (j.fixSent ≠ some f.n → s.fab.reshard.isSome = true ∨ h.repairBusy j = true →
            exec (.fix t peers x) s = .next (s.react (h.stream q))) ∧
          (j.fixSent = some f.n ∨ (s.fab.reshard = none ∧ h.repairBusy j = false) →
            ∀ y : State, y = (if j.fixSent = some f.n then h
              else (h.modJob j.id fun k => { k with fixSent := some f.n, fixAt := h.ns }).sendDigests j.id j.train.step) →
            (y.peersCover j peers = false → exec (.fix t peers x) s = .next (s.react (y.stream q))) ∧
            (y.peersCover j peers = true →
              (∀ p : PeerDigests, peers.find? (fun p => p.step != j.train.step) = some p →
                ∃ port : Nat, port = (nextPort y.dim y.node p.node y.node).getD 0xFF ∧
                  exec (.fix t peers x) s = .next (s.react (((y.event 0x0022 0x09 port true 0xFF j.id.toNat
                    (Bytes.ofNat 8 j.train.step.toNat ++ Bytes.ofNat 8 p.step.toNat ++ Bytes.ofNat 2 p.node.toNat)).refuseFix q f
                      { j with fixSent := some f.n } Status.fabricLost port).stream q))) ∧
              ((∀ p ∈ peers, p.step = j.train.step) →
                ∀ (v : State) (k : Job), v = (if j.replicas.length ≤ 1 then y else y.compareDigests j.id j.train.step peers) →
                  v.job? j.id = some k →
                  ((∃ sh ∈ k.shards, sh.diverged = true ∧ State.sourceFor list sh.num = none) →
                    exec (.fix t peers x) s = .next (s.react ((v.refuseFix q f k Status.failed 0x0701).stream q))) ∧
                  ((∀ sh ∈ k.shards, sh.diverged = true → State.sourceFor list sh.num ≠ none) →
                    exec (.fix t peers x) s = .next (s.react (((v.openRepairs x k peers list (some (Fin.ofNat 8 q, f.tag))).fixGoOn
                      x q f k.id list).stream q))))))))) ∧
      (∀ (v g : State) (b : List Byte), s.flightOf t = some (q, f) → f.opc = 0x2A → f.started = true → s.bar.mode = .ready →
        s.ideStall = false → v = s.withEnv x → v.fixPlaceError j f (State.fixLen j) true = none → f.arg 24 8 % 64 = 0 →
        b = v.hostBytes (f.arg 24 8) (if f.arg 24 8 = 0 then 0 else f.arg 32 4) →
        (f.arg 24 8 ≠ 0 → f.arg 32 4 % 8 = 0 ∧ f.arg 32 4 ≤ 32768) → State.sourceError j b = none →
        v.sealedState (j.shards.flatMap fun sh => sh.descs) = false → g = v.holdObjs q f (State.fixObjs j f) → g.fixHeld j f = false →
        j.repairs.isSome = true → exec (.fix t peers x) s = .next (s.react ((g.fixGoOn x q f j.id b).stream q))) ∧
      (∀ (v z : State) (m : Job) (rs : List Repair) (ready : Bool), v.job? j.id = some m → m.repairs = some rs →
        ((∃ r ∈ rs, r.bytes = none) → v.fixGoOn x q f j.id list = v) ∧
        ((∀ r ∈ rs, r.bytes ≠ none) → (ready, z) = v.flashBegin
            ((if f.arg 8 1 = 0 then [(f.arg 16 8, State.fixLen m)] else []) ++
              (State.repairsTaken m rs).flatMap fun p => State.shardSpans p.1) →
          (ready = false → v.fixGoOn x q f j.id list = z) ∧
          (ready = true → ∀ (k : Job) (cs : List Cell) (u : State) (at_ : Nat), (z.repairShards m rs list).job? j.id = some k →
            (cs, u) = (z.repairShards m rs list).fixCells x k →
            at_ = (k.regions.get Region.absent (f.arg 9 1)).hbase.toNat + f.arg 16 8 →
            (anyPoison cs = false → v.fixGoOn x q f j.id list =
              (if f.arg 8 1 = 0 then u.objNewBytes (f.arg 12 4) (f.arg 16 8) cs else u.hostWrite at_ cs).finish q f Status.ok 0 0
                k.train.step) ∧
            (anyPoison cs = true → v.fixGoOn x q f j.id list =
              (if f.arg 8 1 = 0 then u else (u.hostWrite at_ cs).spoilRange at_ cs.length).finish q f Status.poisoned 0 0 0))))) ∧
    (∀ (v : State) (sh : Shard) (grad : Bool),
      trainOf (Bytes.slice (cellBytes (v.shardExport x j sh grad).1) 64 64) = j.train ∧
      Bytes.field (cellBytes (v.shardExport x j sh grad).1) 0 4 = 0x4F584C47 ∧
      Bytes.field (cellBytes (v.shardExport x j sh grad).1) 6 2 = sh.num.toNat ∧
      Bytes.field (cellBytes (v.shardExport x j sh grad).1) 16 8 = sh.digest.toNat)

/-- R336: RESTORE of a job that has had no step since it was loaded reads a fix from its region or flash object, checks its digest and
that it matches the job, and only then, and once no flash die holds its writes back, gives the job its training state and statistics, makes
the first slot of its forward copies the newest and marks no shard diverged. It waits, with a reference on it, for a source object that is
being written. A fix that reads poisoned, whose digest fails, or that does not match, changes nothing of
the job. A job that has submitted a step
refuses it. -/
def Obligations.StateIsRestored : Prop :=
  ∀ (t : Tag) (x : Env) (s w h : State) (q : Nat) (f : Flight) (j : Job),
    x.hostErr = none → w = (s.markStarted q f).withEnv x → h = w.holdObjs q f (State.fixObjs j f) → CommandAt s t 0x2B q f → s.restoreWaits t = false →
    s.job? f.job = some j → j.queue.val = q → j.stopped = false → w.fixPlaceError j f 256 false = none →
    (j.submitted = true → exec (.restore t x) s = .next ((w.refuse q f Status.inUse 6).stream q)) ∧
    (j.submitted = false → f.arg 8 1 = 0 → h.someWriting [f.arg 12 4] = true → exec (.restore t x) s = .next (h.stream q)) ∧
    (∀ (head : List Cell) (u : State), j.submitted = false → (f.arg 8 1 = 0 → h.someWriting [f.arg 12 4] = false) →
      (head, u) = h.fixSource x j f 256 → anyPoison head = true →
      exec (.restore t x) s = .next ((u.refuse q f Status.poisoned 0).stream q)) ∧
    (∀ (head cs : List Cell) (u v z : State) (n room : Nat) (ready : Bool), j.submitted = false →
      (f.arg 8 1 = 0 → h.someWriting [f.arg 12 4] = false) → (head, u) = h.fixSource x j f 256 → anyPoison head = false →
      n = Bytes.field (cellBytes head) 16 8 → 256 ≤ n →
      (f.arg 8 1 = 0 → ∀ o, h.obj? (f.arg 12 4) = some o → room = o.len) →
      (f.arg 8 1 = 1 → room = (j.regions.get Region.absent (f.arg 9 1)).len) → f.arg 16 8 + n ≤ room →
      (cs, v) = u.fixSource x j f n → anyPoison cs = false →
      (State.fixDigestOk (cellBytes cs) = false → exec (.restore t x) s = .next ((v.refuse q f Status.failed 0x0702).stream q)) ∧
      (State.fixDigestOk (cellBytes cs) = true → State.fixMatches j (cellBytes cs) = false →
        exec (.restore t x) s = .next ((v.refuse q f Status.failed 0x0703).stream q)) ∧
      (State.fixDigestOk (cellBytes cs) = true → State.fixMatches j (cellBytes cs) = true →
        (ready, z) = v.flashBegin (j.shards.flatMap State.shardSpans) →
        (ready = false → exec (.restore t x) s = .next (z.stream q)) ∧
        (ready = true → AnswersFrom (.restore t x) s q f (z.restoreJob j (cellBytes cs)) Status.ok 0 0 (trainOf (Bytes.slice (cellBytes cs) 64 64)).step))) ∧
    (∀ (v : State) (b : List Byte) (k : Job), v.job? j.id = some k →
      ∃ m, (v.restoreJob j b).job? j.id = some m ∧ m.train = trainOf (Bytes.slice b 64 64) ∧ m.newest = false ∧
        m.older = (k.params.rule == 2) ∧ m.sBar = BitVec.ofNat 64 (Bytes.field b 32 8) ∧ m.tBar = BitVec.ofNat 64 (Bytes.field b 40 8))

/-! ## Chapter 9: ownership, attestation, the sideband -/

/-- R341, R342, R345, R362, R380 (Tables 9-2 to 9-4): the six OWNERSHIP subcommands. A command's block joins the changes, which go on one at
a time in the order in which they came. The first that a check of R342 finds wrong, or that R345 forbids, is refused with that status; one that
needs every command in flight to complete waits until they have, and no queue fetches meanwhile. An accepted block takes effect before its
command completes with the new security state as its answer; CLAIM and TRANSFER write the new escrow blob behind the block. DEBUG_LOCK posts its
record and warm-resets the module; OWNER_BLOCK answers over MCTP, the vendor's RELEASE with a warm reset after it. A block is accepted only if
it names this module and this ownership epoch, its sequence number is above the last, its boot nonce is this boot's where it needs one, the
state permits the subcommand, and each signature is by a key that Table 9-4 names for it. -/
def Obligations.OwnershipCommands : Prop :=
  (∀ (i : Instr) (subop : Nat) (t : Tag) (x : Env) (s w : State) (q : Nat) (f : Flight) (c : OwnerChange),
    (subop, i) ∈ [(0, Instr.claim t x), (1, .transfer t x), (2, .release t x), (3, .policy t x), (4, .debugUnlock t x), (5, .debugLock t x)] →
    CommandAt s t 0x07 q f → f.arg 8 1 = subop → x.hostErr = none → f.arg 16 8 % 64 = 0 → w = (s.markStarted q f).withEnv x →
    c = { cmd := some (Fin.ofNat 8 q, f.n), block := w.hostBytes (f.arg 16 8) (min (f.arg 24 4) 1024) } →
    (∀ k ∈ s.sec.changes, k.cmd ≠ c.cmd) →
    exec i s = .next (s.react (((w.modSec fun k => { k with changes := k.changes ++ [c] }).changesMove).stream q))) ∧
  (∀ (v : State) (c : OwnerChange) (subop len : Nat), v.bar.mode = .ready ∨ v.recordLost = true → v.changeForm c = (subop, len) →
    (v.sec.changes.head? = some c → v.changeRefused c = none → v.changeWaits c = true →
      (c.cmd = none ∨ (v.changeFlight c).isSome = true) →
      v.changesMove = v.modSec fun x => { x with ownerHold := State.mustWait subop c.block }) ∧
    (State.mustWait subop c.block = true → v.quiet = false → v.changeWaits c = true) ∧
    (∀ st d, v.changeRefused c = some (st, d) ↔ v.blockError subop c.block len = some (st, d) ∨
      (v.blockError subop c.block len = none ∧ v.changeError subop c.block = some (st, d))) ∧
    (v.sec.changes = [c] →
      (∀ (q : Nat) (g : Flight), v.changeFlight c = some (q, g) →
        (∀ st d, v.changeRefused c = some (st, d) → v.changesMove = v.endChange.refuse q g st d) ∧
        (v.changeRefused c = none → v.changeWaits c = false →
          (subop ≠ 5 → ∃ y z : State, y = v.endChange.applyBlock subop c.block ∧
            z = (match y.sec.escrow with
              | some e => if subop < 2 then y.hostPut (g.arg 16 8 + Word.roundUp (g.arg 24 4) 64) e else y
              | none => y) ∧
            v.changesMove = z.finish q g Status.ok 0 (BitVec.ofNat 32 y.sec.mode.code) 0) ∧
          (subop = 5 → ∃ y : State, y = (v.endChange.applyBlock 5 c.block).complete q g Status.ok 0 1 0 ∧
            v.changesMove = (State.postAll q ((v.queue q).waiting.length + 1) y).warmReset 3))) ∧
      (c.cmd = none →
        (∀ st d, v.changeRefused c = some (st, d) → v.changesMove = v.endChange.blockAnswer st d) ∧
        (v.changeRefused c = none → v.changeWaits c = false → ∃ y : State,
          y = (v.endChange.applyBlock subop c.block).blockAnswer Status.ok 0 ∧
          v.changesMove = (if v.recordLost = true then y.warmReset 2 else if subop = 5 then y.warmReset 3 else y))))) ∧
  (∀ (s : State) (subop : Nat) (b : List Byte) (len : Nat), subop ≤ 5 → s.blockError subop b len = none →
    Bytes.field b 0 4 = 0x424E574F ∧ Bytes.field b 4 1 = subop ∧ s.ownerAllows subop = true ∧
    Bytes.field b 8 8 = Config.serial.toNat ∧ Bytes.field b 24 4 = s.sec.epochFuses ∧
    (subop ≠ 0 → s.recordLost = false → s.sec.ownerSeq.toNat < Bytes.field b 16 8) ∧
    ((subop = 0 ∨ subop = 4) → Bytes.slice b 32 48 = State.digestBytes s.sec.nonce) ∧
    (∀ ks n, (ks, n) ∈ (s.blockKeys subop b).zipIdx → ∃ k ∈ ks,
      Config.sigVerifies k (b.take (128 + Bytes.field b 6 2)) (Bytes.slice b (128 + Bytes.field b 6 2 + 96 * n) 96) = true))

/-- R341, R344, R345, R347, R348, R352, R357, R360, R362 (Table 9-2): what an accepted block does. Every one records its sequence number, ends
the SPDM sessions, derives the alias key anew from the measurements, places its certificate in slot 0 and shows the security state in
DEV_STATE.SEC. CLAIM takes the owner's key and policy, burns an epoch fuse and erases every
object; TRANSFER takes a key and a policy; RELEASE returns the module to Unowned and erases; POLICY takes a policy and nothing else;
DEBUG_UNLOCK enters Debug with its scope and a new flash key and wipes scratchpads and DRAM; DEBUG_LOCK returns to Owned with the flash keys that the escrow blob opens to, and what was written since the unlock is
gone (with the keys of an older blob what flash objects hold is undefined, the model's choice, log 100). A change of state puts every UP port into RETRAIN without its session and every IDE stream into Insecure. Jobs, queues
and images stay as they were. -/
def Obligations.OwnershipTakesEffect : Prop :=
  ∀ (s y : State) (subop : Nat) (b : List Byte), subop ≤ 5 → s.objs.rising = true → y = s.applyBlock subop b →
    (y.sec.ownerSeq = BitVec.ofNat 64 (Bytes.field b 16 8) ∧ y.sec.sessions = [] ∧ y.sec.slotCert = y.sec.aliasCert ∧ y.sec.cdi1 = y.nextCdi1 ∧ y.bar.sec = BitVec.ofNat 2 y.sec.mode.code ∧
      y.jobs = s.jobs ∧ y.queues = s.queues ∧ y.images = s.images ∧ y.groups = s.groups ∧ y.host = s.host) ∧
    (subop = 0 ∨ subop = 1 → y.sec.ownerKey = Bytes.slice b 128 96 ∧ y.sec.policy = policyOf (b.drop 224) ∧ y.sec.escrow.isSome = true) ∧
    (subop = 0 → y.sec.mode = .owned) ∧ (subop = 1 ∨ subop = 3 → y.sec.mode = s.sec.mode) ∧
    (subop = 2 → y.sec.mode = .unowned ∧ y.sec.ownerKey = [] ∧ y.sec.policy = Policy.default ∧ y.sec.scope = 0) ∧
    (subop = 0 ∨ subop = 2 → y.sec.epochFuses = s.sec.epochFuses + 1 ∧ y.objs = Tbl.empty ∧ y.dram = Mem.empty) ∧
    (subop ≠ 0 → subop ≠ 2 → y.sec.epochFuses = s.sec.epochFuses) ∧
    (subop = 3 → y.sec.policy = policyOf (b.drop 128) ∧ y.sec.ownerKey = s.sec.ownerKey ∧ y.objs = s.objs ∧ y.dram = s.dram ∧
      y.cores = s.cores ∧ y.fab = s.fab) ∧
    (subop = 4 → y.sec.mode = .debug ∧ y.sec.scope = BitVec.ofNat 64 (Bytes.field b 128 8) ∧ y.sec.jtagOpen = true ∧
      y.sec.flashKeyGen = s.sec.keyNext ∧ y.sec.keyNext = s.sec.keyNext + 1 ∧ y.sec.heldFlashKey = some s.sec.flashKeyGen ∧ y.dram = Mem.empty ∧
      (∀ oid o, s.objs.find? oid = some o → o.home ≠ .dram →
        ∃ p, y.objs.find? oid = some p ∧ p.data = o.data ∧ p.home = o.home ∧ p.resident = none) ∧
      (∀ oid o, s.objs.find? oid = some o → o.home = .dram → y.objs.find? oid = none)) ∧
    (subop = 5 → y.sec.mode = .owned ∧ y.sec.scope = 0 ∧ y.sec.jtagOpen = false ∧
      (∀ g, s.blobKeys (Bytes.slice b 128 320) = some g → y.sec.flashKeyGen = g) ∧
      (∀ oid, s.debugWritten oid = true → y.objs.find? oid = none) ∧
      (∀ oid o, s.objs.find? oid = some o → s.debugWritten oid = false → ∃ p, y.objs.find? oid = some p ∧ p.len = o.len ∧ p.home = o.home ∧
        (o.home ≠ .flash ∨ s.blobKeys (Bytes.slice b 128 320) = s.sec.heldFlashKey → s.sec.heldFlashKey ≠ none → p = o))) ∧
    (subop = 0 ∨ subop = 2 ∨ subop = 4 → ∀ c : CoreId, (y.core c.val).scratch = Mem.empty ∧ (y.core c.val).regs = (s.core c.val).regs) ∧
    (subop = 0 ∨ subop = 2 ∨ subop = 4 ∨ subop = 5 → y.sec.linkIde.secure = false ∧ y.sec.selIde.secure = false ∧
      ∀ p : PortId, (s.port p.val).mode = .up → (y.port p.val).mode = .retrain ∧ (y.port p.val).session = none)

/-- R350, R351, R353 (Tables 9-6, 9-7): the module's SPDM responder. Before READY, over DOE without the link and over the sideband before it
answers, a request is not answered. GET_VERSION answers version 1.3 and starts the exchange anew; capabilities and algorithms follow it; every
other request needs the algorithms settled. Digests and certificates are those of slot 0, challenges and measurements are signed by the alias
key; at most four sessions run over DOE and two over MCTP; a session is established by its FINISH and ends with END_SESSION; IDE keys are
programmed only inside a session over DOE; what the responder does not know it answers UnsupportedRequest. The codes are the SPDM
standard's, the model's choice. -/
def Obligations.SpdmAnswers : Prop :=
  ∀ (ch : SpdmChan) (slot index code : BitVec 8) (signed macOk offers : Bool) (nonce : BitVec 256) (reqId : BitVec 16) (km : IdeKm)
    (s u : State), u = s.spdmIn ch →
    (s.spdmUp ch = false → ∀ i ∈ [Instr.getVersion ch, .getCapabilities ch, .negotiateAlgorithms ch offers, .getDigests ch,
        .getCertificate ch slot, .challenge ch slot nonce, .getMeasurements ch index signed nonce, .keyExchange ch reqId,
        .spdmFinish ch reqId macOk, .heartbeat ch reqId, .spdmKeyUpdate ch reqId, .endSession ch reqId,
        .vendorDefinedRequest ch reqId km, .spdmUnsupportedRequest ch code], exec i s = .next s) ∧
    (s.spdmUp ch = true →
      exec (.getVersion ch) s = .next ((u.modSec fun c =>
        { c with versionSet := vmod c.versionSet (State.chanNo ch) fun _ => true
                 algsSet := vmod c.algsSet (State.chanNo ch) fun _ => false }).emit (.spdm ch 0x04 (Bytes.ofNat 2 0x1300))) ∧
      exec (.spdmUnsupportedRequest ch code) s = .next (u.spdmError ch 0x07 code) ∧
      (vget false s.sec.versionSet (State.chanNo ch) = true →
        exec (.getCapabilities ch) s = .next (u.emit (.spdm ch 0x61 (Bytes.ofNat 4 0x62D6))) ∧
        exec (.negotiateAlgorithms ch offers) s = .next (
          if offers = true then (u.modSec fun c => { c with algsSet := vmod c.algsSet (State.chanNo ch) fun _ => true }).emit (.spdm ch 0x63 [])
          else u.spdmError ch 0x01 0)) ∧
      ((vget false s.sec.versionSet (State.chanNo ch) && vget false s.sec.algsSet (State.chanNo ch)) = false →
        ∀ i ∈ [Instr.getDigests ch, .getCertificate ch slot, .challenge ch slot nonce, .getMeasurements ch index signed nonce,
          .keyExchange ch reqId, .spdmFinish ch reqId macOk, .heartbeat ch reqId, .spdmKeyUpdate ch reqId, .endSession ch reqId],
          exec i s = .next (u.spdmError ch 0x04 0)) ∧
      (vget false s.sec.versionSet (State.chanNo ch) = true → vget false s.sec.algsSet (State.chanNo ch) = true →
        exec (.getDigests ch) s = .next (u.emit (.spdm ch 0x01 (State.digestBytes (Config.sha384 u.slotChain)))) ∧
        (slot = 0 → exec (.getCertificate ch slot) s = .next (u.emit (.spdm ch 0x02 u.slotChain)) ∧
          exec (.challenge ch slot nonce) s = .next (u.signed.emit (.spdm ch 0x03
            (u.measSummary ++ u.aliasSign (Bytes.ofNat 32 nonce.toNat ++ u.measSummary))))) ∧
        (slot ≠ 0 → exec (.getCertificate ch slot) s = .next (u.spdmError ch 0x01 0) ∧
          exec (.challenge ch slot nonce) s = .next (u.spdmError ch 0x01 0)) ∧
        (∀ b, u.measBlocks index.toNat = some b → exec (.getMeasurements ch index signed nonce) s = .next (
          if signed = true then u.signed.emit (.spdm ch 0x60 (b ++ u.aliasSign (Bytes.ofNat 32 nonce.toNat ++ b)))
          else u.emit (.spdm ch 0x60 b))) ∧
        (u.measBlocks index.toNat = none ↔ index = 0 ∨ (12 < index.toNat ∧ index ≠ 0xFF)) ∧
        ((s.sec.sessions.filter fun k => k.ch == ch) = [] → ∃ k : SpdmSession,
          k = { ch := ch, reqId := reqId, established := false, keyUpdates := 0 } ∧
          exec (.keyExchange ch reqId) s = .next ((u.modSec fun c => { c with sessions := c.sessions ++ [k] }).signed.emit (.spdm ch 0x64
            (u.measSummary ++ u.aliasSign (Config.spdmBody 0xE4 reqId.toNat))))) ∧
        ((match ch with | .doe => 4 | .mctp => 2) ≤ (s.sec.sessions.filter fun k => k.ch == ch).length →
          (∀ k ∈ s.sec.sessions, k.ch = ch → k.reqId ≠ reqId) → exec (.keyExchange ch reqId) s = .next (u.spdmError ch 0x0A 0)) ∧
        ((∃ k ∈ s.sec.sessions, k.ch = ch ∧ k.reqId = reqId ∧ k.established = false) →
          exec (.spdmFinish ch reqId macOk) s = .next (
            if macOk = true then (u.modSession ch reqId fun k => { k with established := true }).emit
              (.spdm ch 0x65 (Config.spdmBody 0xE5 reqId.toNat))
            else (u.dropSession ch reqId).spdmError ch 0x06 0)) ∧
        ((s.session? ch reqId).isSome = true →
          exec (.heartbeat ch reqId) s = .next (u.emit (.spdm ch 0x68 [])) ∧
          exec (.spdmKeyUpdate ch reqId) s =
            .next ((u.modSession ch reqId fun k => { k with keyUpdates := k.keyUpdates + 1 }).emit (.spdm ch 0x69 [])) ∧
          exec (.endSession ch reqId) s = .next ((u.dropSession ch reqId).emit (.spdm ch 0x6C [])) ∧
          (ch = .doe → exec (.vendorDefinedRequest ch reqId km) s = .next ((u.ideKm km).emit (.spdm .doe 0x7E [])))) ∧
        ((s.session? ch reqId).isSome = false → ∀ i ∈ [Instr.heartbeat ch reqId, .spdmKeyUpdate ch reqId, .endSession ch reqId],
          exec i s = .next (u.spdmError ch 0x02 0))) ∧
      (ch = .mctp → exec (.vendorDefinedRequest ch reqId km) s = .next (u.spdmError .mctp 0x07 0xFE)))

/-- R349, R365, R366, R372, R430 (Tables 9-12, 11-7): the sideband. Before it is up a message does nothing. GET_STATE answers DEV_STATE and
DEV_IDENT, GET_LOGBOOK the records from a SEQ on; in READY GET_POWER answers the coarse power record, and a firmware image is installed in a
slot, which becomes the active one, with its floor at 0. OWNER_BLOCK takes a RELEASE or a DEBUG_LOCK block, which joins the changes
that OWNERSHIP makes, and answers its status. An address assignment by the protocol in use gives the module its address, and it answers with
the identifier made from its serial. -/
def Obligations.SidebandAnswers : Prop :=
  ∀ (start : BitVec 64) (count : BitVec 16) (b : List Byte) (slot i3c : Bool) (img : FwImage) (addr : BitVec 7) (s u : State),
    u = s.mctpIn →
    (s.sidebandUp = false → ∀ i ∈ [Instr.getState, .getPower, .getLogbook start count, .ownerBlock b, .pldmFwUpdate slot img,
      .dynamicAddressAssignment i3c addr], exec i s = .next s) ∧
    (s.sidebandUp = true →
      exec .getState s = .next (u.emit (.mctp 0x01 (Bytes.ofNat 8 s.bar.devState ++ Bytes.ofNat 8 devIdent))) ∧
      exec (.getLogbook start count) s = .next (u.emit (.mctp 0x03
        (((s.boot.logB.filter fun r => decide (start ≤ r.seq)).take count.toNat).flatMap State.logBytes))) ∧
      (∀ r : LogRec, (State.logBytes r).length = 64) ∧
      (s.bar.mode = .ready →
        exec .getPower s = .next (u.emit (.mctp 0x02 s.coarsePower)) ∧
        (∃ t : State, exec (.pldmFwUpdate slot img) s = .next t ∧ t.slotImage (Bytes.ofBool slot) = img ∧ t.sec.activeSlot = slot ∧
          t.slotImage (1 - Bytes.ofBool slot) = s.slotImage (1 - Bytes.ofBool slot) ∧
          (s.boot.ladders.wf { consec := 0, floor := 0 } = true →
            t.ladder 4 (unitOf 0x0A (Bytes.ofBool slot)) = { consec := (s.ladder 4 (unitOf 0x0A (Bytes.ofBool slot))).consec, floor := 0 }))) ∧
      (s.bar.mode = .ready ∨ s.recordLost = true →
        (Bytes.field b 4 1 ≠ 2 → Bytes.field b 4 1 ≠ 5 → exec (.ownerBlock b) s = .next (u.blockAnswer Status.invalidField 0x8004)) ∧
        (Bytes.field b 4 1 = 2 ∨ Bytes.field b 4 1 = 5 → exec (.ownerBlock b) s =
          .next ((u.modSec fun k => { k with changes := k.changes ++ [{ cmd := none, block := b }] }).changesMove))) ∧
      (∀ v : State, v = (s.modPower fun w => { w with sideband := some i3c, sideAddr := some addr }).emit
          (.sideId (if i3c = true then (Config.provisionalId Config.serial).setWidth 128 else Config.udid Config.serial)) →
        (s.power.sideband = none ∨ s.power.sideband = some i3c → exec (.dynamicAddressAssignment i3c addr) s = .next v)) ∧
      (s.power.sideband = some (!i3c) → exec (.dynamicAddressAssignment i3c addr) s = .next s))

/-! ## Chapter 10: start-up and resets -/

/-- R14, R349, R367, R368, R370, R371, R372, R373, R378, R409: start-up. An attempt of the running step for a unit that waits on it uses the rung that the counts
give; a success brings the unit's effect, sets CONSEC to 0, keeps a rung above 0 as the floor and takes the unit off the step's list (a compute die's at
step 5 fills its scratchpads with zeros); a
failure raises CONSEC by one, or to the next multiple of 3 where its cause is final; each attempt writes its OUTCOME and start-up goes on
as far as it can. A firmware image that cannot be read, that does not verify, or whose security version is too low fails whatever else came out. The
start-up watchdog fails the attempt with TIMEOUT, or warm-resets the module when the firmware has stopped; half of its time pulses source 0x157 once a
step. The link trains after step 2, and the link's state follows it. An attempt of another step or unit is none. -/
def Obligations.StartupRuns : Prop :=
  (∀ (step : Fin 12) (u : UnitId) (r a : AttemptResult) (s v : State),
    s.bar.mode = .booting → s.boot.waitPerst = false → s.boot.step.toNat = step.val → s.boot.todo.contains u = true →
    s.rungKind step.val u = .try_ → s.judge step.val u r = some a →
    (a.ok = true → v = s.unitStarts step.val u (s.rungOf step.val u) →
      exec (.startupAttempt step u r) s = .next (((((v.setLadder step.val u 0
          (if s.rungOf step.val u = 0 then (v.ladder step.val u).floor else BitVec.ofNat 8 (s.rungOf step.val u))).outcome step.val u
            (s.rungOf step.val u) 0 0 (v.stepDetail step.val u (s.rungOf step.val u) a.detail)).modBoot fun b => { b with todo := b.todo.filter fun w => w != u }).bootGoesOn))) ∧
    (a.ok = false →
      v = (s.setLadder step.val u
          (if finalCause a.cause.toNat = true then nextThird (s.ladder step.val u).consec else Word.satInc (s.ladder step.val u).consec)
          (s.ladder step.val u).floor).outcome step.val u (s.rungOf step.val u) (if finalCause a.cause.toNat = true then 2 else 1)
            a.cause.toNat (s.stepDetail step.val u (s.rungOf step.val u) a.detail) →
      exec (.startupAttempt step u r) s = .next (
        if v.rungKind step.val u = .try_ then (State.prepare step.val v u).bootGoesOn else v.bootGoesOn))) ∧
  (∀ (step : Fin 12) (u : UnitId) (r : AttemptResult) (s : State),
    (s.bar.mode ≠ .booting ∨ s.boot.waitPerst = true ∨ s.boot.step.toNat ≠ step.val ∨ s.boot.todo.contains u = false) →
      exec (.startupAttempt step u r) s = .next s) ∧
  (∀ (d : DieId) (rung : Nat) (s : State) (c : CoreId), c.val / 8 = d.val →
    ((s.unitStarts 5 (unitOf 0x01 d.val) rung).core c.val).scratch = Mem.empty ∧
    ((s.unitStarts 5 (unitOf 0x01 d.val) rung).die d.val).inService = true) ∧
  (∀ (c : BitVec 8), (nextThird c).toNat % 3 = 0 ∧ (c.toNat < 255 → c.toNat < (nextThird c).toNat ∧ (nextThird c).toNat ≤ c.toNat + 3)) ∧
  (∀ (u : UnitId) (r : AttemptResult) (s : State) (img : FwImage), img = s.slotImage (s.bootSlot (s.rungOf 4 u)) →
    (s.boot.deadA = true → s.boot.deadB = true → ∃ a, s.judge 4 u r = some a ∧ a.ok = false ∧ a.cause = 0x0A) ∧
    (s.boot.deadA = false ∨ s.boot.deadB = false →
      ((img.signer = none ∨ ∃ k : Fin 4, img.signer = some k ∧ s.sec.revoked.getLsbD k.val = true) →
        ∃ a, s.judge 4 u r = some a ∧ a.ok = false ∧ a.cause = 0x08) ∧
      (∀ k : Fin 4, img.signer = some k → s.sec.revoked.getLsbD k.val = false →
        (img.svn.toNat < s.sec.rollFuses → ∃ a, s.judge 4 u r = some a ∧ a.ok = false ∧ a.cause = 0x09) ∧
        (s.sec.rollFuses ≤ img.svn.toNat → s.judge 4 u r = some r)))) ∧
  (∀ (u : UnitId) (stopped : Bool) (s : State), s.bar.mode = .booting → s.boot.waitPerst = false → s.boot.todo.contains u = true →
    (stopped = true → 3 ≤ s.boot.step.toNat → exec (.startupWatchdog u stopped) s = .next (s.warmReset 5)) ∧
    (stopped = false ∨ s.boot.step.toNat < 3 →
      exec (.startupWatchdog u stopped) s = .next (
        if s.rungKind s.boot.step.toNat u = .try_ then s.attemptEnds s.boot.step.toNat u { ok := false, cause := 0x01, detail := 0 } else s))) ∧
  (∀ (s : State), s.boot.step ≠ 0 → s.bar.mode = .booting →
    exec .watchdogHalf s =
      .next (if s.boot.watchHalf = true then s else (s.modBoot fun b => { b with watchHalf := true }).pulse 0x157)) ∧
  (∀ (up : Bool) (width rate : BitVec 8) (s : State), (s.runs = false ∨ s.boot.step = 1 ∨ s.boot.step = 2) →
    exec (.pcieLinkChange up width rate) s = .next s) ∧
  (∀ (up : Bool) (width rate : BitVec 8) (s : State), s.runs = true → s.boot.step ≠ 1 → s.boot.step ≠ 2 →
    ∃ v : State, v = (s.modBar fun b =>
        { b with linkUp := up, linkWidth := if up = true then width else 0, linkRate := if up = true then rate else 0 }).pulse 0x112 ∧
      ((up = false ∨ s.boot.skipped10 = false ∨ (s.bar.mode ≠ .ready ∧ s.bar.mode ≠ .booting)) →
        exec (.pcieLinkChange up width rate) s = .next v) ∧
      (up = true → s.boot.skipped10 = true → (s.bar.mode = .ready ∨ s.bar.mode = .booting) →
        ∃ t, exec (.pcieLinkChange up width rate) s = .next t ∧ t.boot.skipped10 = false ∧ t.bar = v.bar ∧
          (s.boot.deadB = false → ∃ r, t.boot.logB.getLast? = some r ∧ r.kind = 2 ∧ r.step = 10 ∧ r.result = 0 ∧
            r.detail = BitVec.ofNat 128 (rate.toNat + 2 ^ 8 * width.toNat))))

/-- R283, R297, R329, R384, R463 (Tables 8-5, 10-5): errors and resets. A device-fatal error stops every queue, shows its code and FATAL, raises
INT_CAUSE.FATAL, and, when the log can be written, leaves its record; the codes 1, 2, 3, 6 and 7 are recovered by a warm reset of type 4. RESET_DEVICE
with its magic number posts its record and warm-resets, once its ring has room; with another number it is refused. A warm reset counts a start
of its type, loses jobs, groups, images, DRAM and every core's state but the scratchpads (a start that halts at its first step leaves none
powered), ends the SPDM sessions, asserts WP_N, keeps ownership, device time, host memory and the committed objects of flash. -/
def Obligations.ErrorsAndResets : Prop :=
  (∀ (code : BitVec 16) (s : State), s.power.rails = true → (s.bar.mode = .ready ∨ s.bar.mode = .booting) → 1 ≤ code.toNat → code.toNat ≤ 7 →
    ∃ t : State, exec (.deviceFatal code) s = .next t ∧ t.bar.mode = .fatal ∧ t.bar.fatalCode = code ∧ t.bar.icFatal = true ∧
      t.bar.fatalCnt = Word.satInc s.bar.fatalCnt ∧ t.jobs = s.jobs ∧ t.cores = s.cores ∧ t.dram = s.dram ∧
      (∀ q : QueueId, (t.queue q.val).enabled = false ∧ (t.queue q.val).flights = [] ∧ (t.queue q.val).waiting = []) ∧
      (code.toNat ≠ 1 → s.log.queued < 256 → ∃ e ∈ t.log.held, e.code = 0x0001 ∧ e.host = true ∧ e.seq = s.log.nextSeq ∧
        e.payload = Bytes.fit 32 (Bytes.ofNat 2 code.toNat))) ∧
  (∀ (s : State), s.bar.mode = .fatal → exec .fatalRecoveryReset s =
    .next (if s.bar.fatalCode.toNat ∈ [1, 2, 3, 6, 7] then s.warmReset 4 else s)) ∧
  (∀ (t : Tag) (s v : State) (q : Nat) (f : Flight), CommandAt s t 0x0F q f → v = s.markStarted q f →
    (f.arg 8 4 ≠ 0x54455352 → exec (.resetDevice t) s = .next ((v.refuse q f Status.invalidField 8).stream q)) ∧
    (f.arg 8 4 = 0x54455352 → v.recordsFit q = false → exec (.resetDevice t) s = .next (v.stream q)) ∧
    (f.arg 8 4 = 0x54455352 → v.recordsFit q = true →
      exec (.resetDevice t) s = .next (((State.postAll q ((v.queue q).waiting.length + 1) (v.complete q f Status.ok 0 0 0)).warmReset 2).stream q))) ∧
  (∀ (s t : State) (type : Nat), t = s.warmReset type →
    t.boot.starts = s.boot.starts + 1 ∧ t.boot.resetType = BitVec.ofNat 8 type ∧ t.jobs = [] ∧ t.groups = [] ∧ t.images = [] ∧
    t.dram = Mem.empty ∧ t.power.wpN = true ∧
    (∀ c : CoreId, t.bar.mode = .booting → t.core c.val = { Core.reset c.val with scratch := (s.core c.val).scratch }) ∧ t.sec.sessions = [] ∧ t.objs = State.keptObjs s.objs ∧
    t.sec.mode = s.sec.mode ∧ t.sec.ownerKey = s.sec.ownerKey ∧ t.sec.policy = s.sec.policy ∧ t.sec.ownerSeq = s.sec.ownerSeq ∧
    t.sec.epochFuses = s.sec.epochFuses ∧ t.devTime = s.devTime ∧ t.host = s.host)

/-- R385, R386 (Table 10-5): a function-level reset resets the function's registers: the queues, INT_CAUSE, INT_ENABLE, MSI-X, the SPDM sessions
over DOE and the IDE streams. In READY it also ends every job, group, image and query and returns to READY, with a RESET record of type
6; a core that it halts and clears is IDLE; the owner's key, the security state and device time stay. In another mode jobs, groups, cores and
objects stay as they were. -/
def Obligations.FunctionLevelReset : Prop :=
  (∀ (s : State) (c : CoreId), ((State.coreKill s c.val).core c.val).regs.mode = .idle) ∧
  ∀ (s : State), s.power.rails = true →
    ∃ t : State, exec .functionLevelReset s = .next t ∧
      (∀ q : QueueId, (t.queue q.val).enabled = false ∧ (t.queue q.val).flights = [] ∧ (t.queue q.val).waiting = [] ∧
        (t.queue q.val).sqBase = 0) ∧
      t.bar.intEnable = 0 ∧ t.bar.msix = Tbl.empty ∧ t.bar.icQerr = false ∧ t.bar.icFatal = false ∧ t.bar.d3 = false ∧
      (∀ k ∈ t.sec.sessions, k.ch = .mctp) ∧ t.sec.linkIde.secure = false ∧ t.sec.selIde.secure = false ∧
      t.sec.ownerKey = s.sec.ownerKey ∧ t.sec.mode = s.sec.mode ∧ t.devTime = s.devTime ∧
      (s.bar.mode ≠ .ready → t.bar.mode = s.bar.mode ∧ t.jobs = s.jobs ∧ t.groups = s.groups ∧ t.cores = s.cores ∧ t.objs = s.objs ∧
        t.bar.icState = false ∧ t.bar.icEvent = false) ∧
      (s.bar.mode = .ready → t.bar.mode = .ready ∧ t.jobs = [] ∧ t.groups = [] ∧ t.images = [] ∧ t.queries = [] ∧
        (s.jobs = [] → s.groups = [] → s.log.queued = 0 → ∃ e ∈ t.log.held, e.code = 0x0002 ∧ e.payload = Bytes.fit 32
          (Bytes.ofNat 1 6 ++ Bytes.zeros 7 ++ Bytes.ofNat 8 s.boot.starts.toNat)))

/-! ## Chapter 11: operating points and Helm -/

/-- R390, R391, R392, R401, R404: changes of a die's operating point, droop and the power alert. A droop begins the die's response, counts and pulses
its source; while it lasts and for 1 µs after it, and while the alert stands, no change starts, and a target waits; so does a raise of a
throttled die. A raising slews the
voltage first and then relocks on the fabric clock; a lowering relocks first and then slews; the new point stands when the loop has relocked,
and a waiting target is asked for again. The alert puts every die at point 0 on the fabric clock at once; 1 ms after it ends Helm begins to
return the dies. -/
def Obligations.PointsChange : Prop :=
  (∀ (d : DieId) (s : State),
    (s.power.rails = true → (s.die d.val).inService = true → (s.die d.val).droopOn = false → exec (.droop d) s =
      .next (((s.modDie d.val fun c => { c with droopOn := true }).modHelm fun h => { h with droopCnt := Word.satInc h.droopCnt }).pulse
        (0x0C6 + d.val))) ∧
    ((s.die d.val).droopOn = true → exec (.droopEnd d) s =
      .next (s.modDie d.val fun c => { c with droopOn := false, droopClear := s.ns + 1000 })) ∧
    (∀ k, (s.die d.val).change = some (.slewUp k) → exec (.voltageSlewDone d) s =
      .next (s.modDie d.val fun c => { c with change := some (.relock k), fabricClk := true })) ∧
    (∀ k, (s.die d.val).change = some (.slewDown k) → ∃ v : State, v = s.modDie d.val (fun c => { c with change := none }) ∧
      exec (.voltageSlewDone d) s = .next (match (s.die d.val).pendingPt with | some p => v.requestPoint d.val p | none => v)) ∧
    (∀ k, (s.die d.val).change = some (.relock k) →
      (s.alertHeld d.val = true → exec (.relockDone d) s = .next (s.modDie d.val fun c => { c with change := none })) ∧
      (s.alertHeld d.val = false → k < (s.die d.val).point → exec (.relockDone d) s =
        .next (s.modDie d.val fun c => { c with point := k, fabricClk := false, change := some (.slewDown k) })) ∧
      (s.alertHeld d.val = false → ¬ k < (s.die d.val).point → ∃ v : State,
        v = s.modDie d.val (fun c => { c with point := k, fabricClk := false, change := none }) ∧
        exec (.relockDone d) s = .next (match (s.die d.val).pendingPt with | some p => v.requestPoint d.val p | none => v))) ∧
    (∀ k : BitVec 4, s.alertHeld d.val = false → (s.die d.val).change = none → (s.die d.val).point ≠ k →
      ((s.die d.val).droopOn = true ∨ s.ns < (s.die d.val).droopClear →
        s.requestPoint d.val k = s.modDie d.val fun c => { c with pendingPt := some k }) ∧
      ((s.die d.val).throttlePt ≠ none → (s.die d.val).point < k →
        s.requestPoint d.val k = s.modDie d.val fun c => { c with pendingPt := some k }) ∧
      ((s.die d.val).droopOn = false → (s.die d.val).droopClear ≤ s.ns → s.alerted = false → (s.die d.val).throttlePt = none →
        s.requestPoint d.val k = s.modDie d.val fun c =>
          if c.point < k then { c with change := some (.slewUp k), pendingPt := none }
          else { c with change := some (.relock k), fabricClk := true, pendingPt := none }))) ∧
  (∀ (s : State), s.power.rails = true → s.power.tripped = false → s.power.pinAlert = false → s.power.underAlert = false →
    ∃ t : State, exec .pwrAlertAssert s = .next t ∧ t.power.pinAlert = true ∧ t.power.alertWait = none ∧ t.power.returning = none ∧
      (∀ d : DieId, (t.die d.val).point = 0 ∧ (t.die d.val).fabricClk = true ∧ (t.die d.val).pendingPt = none) ∧
      (s.helmRuns = true → t.helm.alertCnt = Word.satInc s.helm.alertCnt)) ∧
  (∀ (s : State), s.power.rails = true → s.power.tripped = false → s.power.pinAlert = true → s.power.underAlert = false →
    ∃ t : State, exec .pwrAlertDeassert s = .next t ∧ t.power.pinAlert = false ∧ t.power.alertWait = some s.ns ∧
      (∀ d : DieId, (t.die d.val) = s.die d.val)) ∧
  (∀ (s : State) (w : Nat), s.helmRuns = true → s.alerted = false → s.power.alertWait = some w → exec .alertRecovery s =
    .next (if w + 1000000 ≤ s.ns then s.modPower fun p => { p with alertWait := none, returning := some 0 } else s)) ∧
  (∀ (s : State), (s.power.standby = true → s.power.rails = false → exec .undervoltageAlert s =
      .next (s.modPower fun p => { p with underAlert := true })) ∧
    (s.power.rails = false → exec .undervoltageClear s = .next (s.modPower fun p => { p with underAlert := false })) ∧
    (s.power.rails = true → s.power.tripped = false → s.power.pinAlert = false → s.power.underAlert = true → ∃ t : State,
      exec .undervoltageClear s = .next t ∧ t.alerted = false ∧ t.power.alertWait = some s.ns ∧ ∀ d : DieId, (t.die d.val) = s.die d.val) ∧
    (s.power.standby = true → s.power.rails = true → s.power.tripped = false → s.alerted = false → ∃ t : State,
      exec .undervoltageAlert s = .next t ∧ t.alerted = true ∧ ∀ d : DieId, (t.die d.val).point = 0 ∧ (t.die d.val).fabricClk = true))

/-- R365, R392, R393, R394, R396, R397, R398, R399, R400, R405: Helm. A sample adds its readings to the window's sums; the end of an aligned 1 ms window makes them the last
window's and starts anew. A decision takes a new heading table, forms the budget from the last window and gives every die in service a point no
higher than its target heading, and that target is the highest heading among the phases of its running cores. A thermal check takes the temperatures,
once a second for the telemetry too; an action of a part holds from its limit on, a throttle limit until 3 °C below it; a compute die at its
throttle limit is given a lower point, and one at its critical limit is marked so. Before start-up step 7, or with the
rails off, Helm does nothing. -/
def Obligations.HelmControls : Prop :=
  (∀ (r : PowerReading) (temps : Temperatures) (s : State), s.helmRuns = false →
    exec (.helmSample r) s = .next s ∧ exec .helmDecision s = .next s ∧ exec .helmWindow s = .next s ∧
    exec (.thermalCheck temps) s = .next s) ∧
  (∀ (r : PowerReading) (s : State), s.helmRuns = true → ∃ t : State, exec (.helmSample r) s = .next t ∧
    t.helm.sum = State.addReading s.helm.sum r ∧ t.helm.count = s.helm.count + 1 ∧ t.helm.last = s.helm.last ∧
    t.helm.budget = s.helm.budget ∧ t.cores = s.cores ∧ ∀ d : DieId, (t.die d.val).point = (s.die d.val).point) ∧
  (∀ (s : State), s.helmRuns = true → ∃ t : State, exec .helmWindow s = .next t ∧
    (s.ns / 1000000 * 1000000 ≤ s.helm.windowAt → t = s) ∧
    (s.helm.windowAt < s.ns / 1000000 * 1000000 → t.helm.windowAt = s.ns / 1000000 * 1000000 ∧
      (s.helm.count ≠ 0 → t.helm.last = s.helm.sum ∧ t.helm.lastCount = s.helm.count ∧ t.helm.count = 0 ∧
        t.helm.sum = PowerReading.zero) ∧
      (∀ d : DieId, (s.die d.val).inService = true → (t.die d.val).lastRun = (s.die d.val).runCycles ∧
        (t.die d.val).runCycles = Tbl.empty ∧ (t.die d.val).point = (s.die d.val).point))) ∧
  (∀ (s : State), s.helmRuns = true → ∃ t : State, exec .helmDecision s = .next t ∧ t.helm.budget = s.helmBudget ∧
    t.cores = s.cores ∧ t.helm.table = none ∧
    (t.helm.point, t.helm.minPt) = s.helm.table.getD (s.helm.point, s.helm.minPt) ∧
    ∀ d : DieId, (s.die d.val).inService = true → (t.die d.val).chosen.toNat ≤ (t.dieTarget d.val).1 ∧
      (t.die d.val).target.toNat = (t.dieTarget d.val).1 ∧ (t.die d.val).phaseAt.toNat = (t.dieTarget d.val).2 ∧
      (t.die d.val).lmaxBurst = false ∧ (t.die d.val).phaseMoved = false) ∧
  (∀ (s : State) (d : DieId), (∃ i, i < 8 ∧ (s.core (8 * d.val + i)).regs.mode = .run) →
    (∀ i, i < 8 → (s.core (8 * d.val + i)).regs.mode = .run →
      s.heading (s.core (8 * d.val + i)).regs.phase.toNat ≤ (s.dieTarget d.val).1) ∧
    (∃ i, i < 8 ∧ (s.core (8 * d.val + i)).regs.mode = .run ∧ (s.core (8 * d.val + i)).regs.phase.toNat = (s.dieTarget d.val).2) ∧
    (s.dieTarget d.val).1 = s.heading (s.dieTarget d.val).2) ∧
  (∀ (s : State) (temps : Temperatures), s.helmRuns = true → ∃ t : State, exec (.thermalCheck temps) s = .next t ∧ t.helm.temps = temps ∧
    ∀ d : DieId, (s.die d.val).inService = true → s.helm.thermal.wf false = true →
      t.helm.thermal.get false (4 * d.val) = (decide (95 ≤ temps.dies.getD d.val 0) ||
        (s.helm.thermal.get false (4 * d.val) && decide (95 < temps.dies.getD d.val 0 + 3))) ∧
      ((t.die d.val).critical = true ↔ 105 ≤ temps.dies.getD d.val 0) ∧
      (t.helm.thermal.get false (4 * d.val) = false → (t.die d.val).throttlePt = none) ∧
      (95 ≤ temps.dies.getD d.val 0 → ∃ k, (t.die d.val).throttlePt = some k ∧ (k = 0 ∨ k < (s.die d.val).chosen)) ∧
      (s.helm.tempsAt = none → t.helm.tempsSec = temps) ∧
      (∀ a, s.helm.tempsAt = some a → t.helm.tempsSec = if a + 1000000000 ≤ s.ns then temps else s.helm.tempsSec))

/-! ## Chapter 12: interrupts, events, telemetry, registers -/

/-- R409, R410, R411, R412, R413, R415, R416: the interrupt controller. The claims that reach it in a control cycle are served at its end, those of the lower pilot first. A claim
takes into service the eligible source of the highest priority, the lowest number among equals, starts the pilot's moderation interval and gives the
source's number; without an eligible source it gives 0x3FF and counts. A control edge samples every source. IC_SWI pulses the sources of the pilots it names; a moderation interval runs out; a pilot sleeps, and wakes
when an enabled source for it is pending; a comparator that device time has reached pulses its source once; a TRNG failure pulses source
0x155. -/
def Obligations.InterruptController : Prop :=
  (∀ (p : PilotId) (s : State), exec (.icClaim p) s = .next { s with ic := { s.ic with claims := s.ic.claims ++ [p] } }) ∧
  (∀ (p q : PilotId) (s v : State), v = { s with ic := { s.ic with claims := [] } } →
    (s.ic.claims = [] → s.serveClaims = s) ∧ (s.ic.claims = [p] → s.serveClaims = v.claimSource p) ∧
    (s.ic.claims = [q, p] → p < q → s.serveClaims = (v.claimSource p).claimSource q)) ∧
  (∀ (p : PilotId) (s : State),
    (∀ n, s.bestSource p.val = some n → n < 512 ∧ (s.src n).eligible p.val (s.pilot p.val) = true ∧
      (∀ m, m < 512 → (s.src m).eligible p.val (s.pilot p.val) = true →
        (s.src m).prio.toNat < (s.src n).prio.toNat ∨ ((s.src m).prio = (s.src n).prio ∧ n ≤ m)) ∧
      ∃ t : State, s.claimSource p = t ∧ (t.src n).insvc = some p ∧ (t.src n).latched = false ∧
        t.out = s.out ++ [.claim p (BitVec.ofNat 10 n)] ∧ (∀ m, m ≠ n → t.src m = s.src m) ∧
        (t.pilot p.val).modLeft = (if (s.pilot p.val).interval = 0 then (s.pilot p.val).modLeft else (s.pilot p.val).interval.toNat)) ∧
    (s.bestSource p.val = none → (∀ m, m < 512 → (s.src m).eligible p.val (s.pilot p.val) = false) ∧
      s.claimSource p = (s.modPilot p.val fun q => { q with spurCnt := Word.satInc q.spurCnt }).emit (.claim p 0x3FF))) ∧
  (∀ (s : State) (n : Nat), n < 512 → s.icEdge.src n = ((s.src n).sample (State.srcListed n && s.srcLine n)).2) ∧
  (∀ (pilots : BitVec 4) (s : State), ∃ t : State, exec (.icSwi pilots) s = .next t ∧
    (∀ p : PilotId, t.src (0x15C + p.val) =
      { s.src (0x15C + p.val) with pulse := (s.src (0x15C + p.val)).pulse + if pilots.getLsbD p.val = true then 1 else 0 }) ∧
    (∀ n, (n < 0x15C ∨ 0x160 ≤ n) → t.src n = s.src n)) ∧
  (∀ (p : PilotId) (s : State), (s.pilot p.val).modLeft = 1 → ∃ t : State, exec (.moderationExpire p) s = .next t ∧
    (t.pilot p.val).modLeft = 0 ∧ t.ic.srcs = s.ic.srcs ∧ (t.pilot p.val).modHold = (if (s.moderatedWaits p.val && !(s.pilot p.val).asleep) = true
      then Word.satInc (s.pilot p.val).modHold else (s.pilot p.val).modHold)) ∧
  (∀ (p : PilotId) (s : State), exec (.waitForInterrupt p) s = .next (s.modPilot p.val fun q => { q with asleep := true })) ∧
  (∀ (p : PilotId) (s : State), (s.pilot p.val).asleep = true →
    ((∃ n, n < 512 ∧ (s.src n).enable = true ∧ (s.src n).targets.getLsbD p.val = true ∧ (s.src n).pending = true ∧ (s.src n).insvc = none) →
      exec (.pilotWake p) s = .next (s.modPilot p.val fun q => { q with asleep := false, wakeCnt := Word.satInc q.wakeCnt })) ∧
    ((∀ n, n < 512 → (s.src n).wakes p.val = false) → exec (.pilotWake p) s = .next s)) ∧
  (∀ (k : Fin 4) (v : BitVec 64) (s : State), s.ic.comparators.find? k.val = some v →
    (v.toNat ≤ s.ns → exec (.deviceTimeCompare k) s =
      .next (State.pulse { s with ic := { s.ic with comparators := s.ic.comparators.drop k.val } } (0x158 + k.val))) ∧
    (s.ns < v.toNat → exec (.deviceTimeCompare k) s = .next s)) ∧
  (∀ s : State, exec .trngHealthFailure s = .next (s.pulse 0x155))

/-- R414: a write of a source number to IC_COMPLETE of a pilot ends that source's service; one that names a source that is not in service for the
pilot is ignored. A LEVEL source whose signal is still high is pending again after the next control cycle's sample, and not before. An edge source that latched
during its service is eligible at once. -/
def Obligations.CompletionEndsService : Prop :=
  ∀ (p : PilotId) (n : BitVec 9) (s : State),
    ((s.src n.toNat).insvc ≠ some p → exec (.icComplete p n) s = .next s) ∧
    ((s.src n.toNat).insvc = some p → ∃ t : State, t = s.modSrc n.toNat (fun x => { x with insvc := none, line := x.line && x.sense != 0 }) ∧
      exec (.icComplete p n) s = .next t ∧
      ((s.src n.toNat).sense = 0 → (t.src n.toNat).pending = false) ∧
      ((s.src n.toNat).sense = 0 → State.srcListed n.toNat = true → t.srcLine n.toNat = true → (t.icEdge.src n.toNat).pending = true) ∧
      ((s.src n.toNat).sense ≠ 0 → (s.src n.toNat).latched = true → (s.src n.toNat).enable = true →
        (s.src n.toNat).targets.getLsbD p.val = true → (s.pilot p.val).thresh.toNat < (s.src n.toNat).prio.toNat →
        (s.pilot p.val).all = false → (t.src n.toNat).eligible p.val (t.pilot p.val) = true))

/-- R420, R421, R423: the event log. A record takes the next SEQ, enters the log, and with HOST set pulses source 0x160 and sets INT_CAUSE.EVENT;
when 256 records wait in the input queue it is dropped and counted. The first 1,024 records stay until the log is cleared; the later ones go into
a ring of 7,168, whose oldest record the newest replaces. -/
def Obligations.EventsAreLogged : Prop :=
  ∀ (code cls idx : Nat) (host : Bool) (pilot job : Nat) (payload : List Byte) (s t : State),
    t = s.event code cls idx host pilot job payload →
    (256 ≤ s.log.queued → t = { s with log := { s.log with drops := Word.satInc s.log.drops } }) ∧
    (s.log.queued < 256 → t.log.nextSeq = s.log.nextSeq + 1 ∧ t.log.drops = s.log.drops ∧ t.log.queued = s.log.queued + 1 ∧
      (∃ e : Event, e.seq = s.log.nextSeq ∧ e.code = BitVec.ofNat 16 code ∧ e.host = host ∧ e.time = s.now ∧
        e.payload = Bytes.fit 32 payload ∧
        (s.log.retained.length < 1024 → t.log.retained = s.log.retained ++ [e] ∧ t.log.ring = s.log.ring) ∧
        (1024 ≤ s.log.retained.length → t.log.retained = s.log.retained ∧
          (s.log.ring.length < 7168 → t.log.ring = s.log.ring ++ [e] ∧ t.log.overflow = s.log.overflow) ∧
          (7168 ≤ s.log.ring.length → t.log.ring = s.log.ring.drop 1 ++ [e] ∧ t.log.overflow = Word.satInc s.log.overflow))) ∧
      (host = true → t.bar.icEvent = true ∧ t.bar.eventCnt = Word.satInc s.bar.eventCnt ∧ (t.src 0x160).pulse = (s.src 0x160).pulse + 1) ∧
      (host = false → t.bar = s.bar ∧ (t.src 0x160).pulse = (s.src 0x160).pulse)) ∧
    (s.log.retained.length ≤ 1024 → s.log.ring.length ≤ 7168 → t.log.retained.length ≤ 1024 ∧ t.log.ring.length ≤ 7168) ∧
    (t.jobs = s.jobs ∧ t.cores = s.cores ∧ t.dram = s.dram ∧ t.objs = s.objs ∧ t.queues = s.queues ∧ t.sec = s.sec)

/-- R8, R47, R279, R281, R285, R363, R368, R410, R424, R425: register accesses from outside. BAR0 takes naturally aligned writes of 4 or 8 bytes and ignores
others; a 1 clears a bit of INT_CAUSE that is not set in the same cycle; a queue's registers do not change while it is enabled; a device register block takes writes of 8 bytes while
the module runs, and a semaphore of a running core does not. A pilot arms a comparator for itself. Configuration requests are answered once configuration space is served, DOE
Discovery lists its three protocols. The test port shifts its one BYPASS bit, and reaches the mesh only where the debug scope grants it. A
telemetry window is sampled once or counted as lost; a sample adds each core's CORE_BUSY to its sum and clears WRAPPED, but for a wrap of the same cycle. -/
def Obligations.RegistersAndPorts : Prop :=
  (∀ (off : BitVec 16) (size : BitVec 8) (v : BitVec 64) (s : State),
    (s.barServed = false → exec (.registerWrite (.bar0 off size) v) s = .next s) ∧
    (¬ (size = 8 ∧ off.toNat % 8 = 0) → ¬ (size = 4 ∧ off.toNat % 4 = 0) → exec (.registerWrite (.bar0 off size) v) s = .next s)) ∧
  (∀ (v : BitVec 64) (s : State), s.barServed = true →
    ((∀ p ∈ s.fresh, p.1 ≠ barKey 0x0048) →
      exec (.registerWrite (.bar0 0x48 8) v) s = .next (s.modBar fun b => { b with intEnable := v.extractLsb' 0 4 })) ∧
    (∀ clear : Nat → Bool, (∀ i, clear i = (v.getLsbD i && !s.fresh.contains (barKey 0x0040, i))) →
      exec (.registerWrite (.bar0 0x40 8) v) s = .next (s.modBar fun b =>
        { b with icState := b.icState && !clear 0, icFatal := b.icFatal && !clear 1, icQerr := b.icQerr && !clear 2
                 icEvent := b.icEvent && !clear 3 })) ∧
    (∀ (q : QueueId) (r : Nat), r ∈ [0x00, 0x08, 0x10] → (s.queue q.val).enabled = true →
      exec (.registerWrite (.bar0 (BitVec.ofNat 16 (0x1000 + 0x80 * q.val + r)) 8) v) s = .next s)) ∧
  (∀ (a : Addr) (v : BitVec 64) (s : State),
    (s.runs = false ∨ (∀ off, s.placeOf a.toNat ≠ .regs off) → exec (.registerWrite (.dev a) v) s = .next s) ∧
    (∀ off, s.runs = true → s.placeOf a.toNat = .regs off →
      exec (.registerWrite (.dev a) v) s = .next (s.react (s.regWrite off v)) ∧
      (∀ (c : CoreId) (k : Fin 64), off = 0x1000 * c.val + 0x100 + 8 * k.val → (∀ p ∈ s.fresh, p.1 ≠ off) →
        ((s.core c.val).regs.mode = .run → s.regWrite off v = s) ∧
        ((s.core c.val).regs.mode ≠ .run → s.regWrite off v =
          s.modCore c.val fun x => { x with regs := { x.regs with sems := x.regs.sems.set 0 k.val (v.extractLsb' 0 16) } })))) ∧
  (∀ (k : Fin 4) (p : PilotId) (v : BitVec 64) (s : State), s.runs = true → ∃ t : State,
    exec (.registerWrite (.comparator k p) v) s = .next t ∧ t.ic.comparators = s.ic.comparators.put k.val v ∧
    (t.src (0x158 + k.val)).targets = 1#4 <<< p.val ∧ (t.src (0x158 + k.val)).enable = true) ∧
  (∀ (off : BitVec 12) (v : BitVec 32) (d3 : Bool) (s : State), s.power.rails = true → s.bar.linkUp = true →
    (s.bar.cfgServed = false → exec (.configurationRequest (.read off)) s = .next (s.emit (.config false 0)) ∧
      exec (.configurationRequest (.write off v)) s = .next (s.emit (.config false 0))) ∧
    (s.bar.cfgServed = true →
      exec (.configurationRequest (.read off)) s = .next (s.emit (.config true (s.cfgRead (off.toNat / 4 * 4)))) ∧
      (∃ u : State, u = (s.modBar fun b => { b with cfg := b.cfg.set 0 (off.toNat / 4 * 4) v }) ∧
        (off.toNat / 4 * 4 ≠ Config.msixCap → off.toNat / 4 * 4 ≠ Config.pmCap + 4 → exec (.configurationRequest (.write off v)) s = .next (u.emit (.config true 0))) ∧
        (off.toNat / 4 * 4 ≠ Config.msixCap → off.toNat / 4 * 4 = Config.pmCap + 4 → v &&& 3 = 3 →
          exec (.configurationRequest (.write off v)) s = .next ((u.modBar fun b => { b with d3 := true }).emit (.config true 0))) ∧
        (off.toNat / 4 * 4 = Config.msixCap →
          exec (.configurationRequest (.write off v)) s = .next ((u.writeMsixControl v).emit (.config true 0)))) ∧
      exec (.configurationRequest (.power d3)) s = .next ((s.modBar fun b => { b with d3 := d3 }).emit (.config true 0)) ∧
      (∀ i : Fin 3, exec (.doeDiscovery (BitVec.ofNat 8 i.val)) s = .next ((s.pulse 0x110).emit
        (.doe 0x0001 (BitVec.ofNat 8 i.val) (BitVec.ofNat 8 ((i.val + 1) % 3))))))) ∧
  (∀ (bit : Bool) (a : Addr) (v : BitVec 64) (p : PilotId) (s : State), s.runs = true →
    exec (.jtagAccess (.shift bit)) s =
      .next ((s.emit (.jtag (BitVec.ofNat 64 (Bytes.ofBool s.sec.bypass)))).modSec fun c => { c with bypass := bit }) ∧
    (s.jtagGrants 1 = false →
      exec (.jtagAccess (.meshRead a)) s = .next s ∧ exec (.jtagAccess (.meshWrite a v)) s = .next s) ∧
    (s.jtagGrants 1 = true → (∀ off, s.placeOf a.toNat ≠ .regs off) → s.mappedRange Tbl.empty a.toNat 8 true = true →
      exec (.jtagAccess (.meshWrite a v)) s = .next (s.store Tbl.empty a.toNat (cleanCells (Bytes.ofNat 8 v.toNat)))) ∧
    (s.jtagGrants 1 = true → (s.sec.jtagOpen = true ∧ s.sec.mode = .debug ∧ s.sec.scope.getLsbD 1 = true)) ∧
    (s.jtagGrants 0 = true →
      exec (.jtagAccess (.pilotInspect p .certificates)) s = .next (s.emit (.bench s.slotChain)) ∧
      exec (.jtagAccess (.pilotHalt p)) s = .next (s.modPilot p.val fun q => { q with halted := true }))) ∧
  (∀ (taken : Bool) (s : State), s.bar.mode = .ready →
    (s.windowEnd ≤ s.tlm.sampleAt → exec (.telemetrySample taken) s = .next s) ∧
    (s.tlm.sampleAt < s.windowEnd →
      (taken = false → exec (.telemetrySample taken) s =
        .next { s with tlm := { s.tlm with sampleAt := s.windowEnd, lost := Word.satInc s.tlm.lost } }) ∧
      (taken = true → s.tlm.busySums.wf 0 = true → s.tlm.busyLast.wf 0 = true → ∃ t : State, exec (.telemetrySample taken) s = .next t ∧
        t.tlm.sampleAt = s.windowEnd ∧ t.tlm.lost = s.tlm.lost ∧
        ∀ c : CoreId, (t.core c.val).regs.wrapped = ((s.core c.val).regs.wrapped && s.fresh.contains (regKey 0 c.val 0x20, 15)) ∧ (t.core c.val).regs.busy = (s.core c.val).regs.busy ∧
          t.tlm.busySums.get 0 c.val = s.tlm.busySums.get 0 c.val +
            ((s.core c.val).regs.busy - s.tlm.busyLast.get 0 c.val).setWidth 64)))

/-! ## Chapter 13: the module's edges -/

/-- R384, R406, R420, R433, R434, R436, R437, R438, R439, R440, R453 (Tables 13-2 to 13-4): the module's power and its pins. An input
raised into the operating range starts the module: device time and SEQ anew, start-up from step 1, of type 0; below it nothing starts, above the absolute limit the
hot-swap controller turns the module off, and between the two the spec gives no behaviour and the model stops. A power failure, or the
hot-swap controller, takes the link and the rails; 2 ms later every WP_N is asserted, and then the standby rail falls. PERST_N asserted is a
cold reset of type 1, deasserted it lets step 3 begin. The trip takes every rail and holds THERM_TRIP_N until the input is removed. -/
def Obligations.PowerAndPins : Prop :=
  (∀ (mv : Nat) (s : State),
    (mv < 34000 → exec (.p40vApplied mv) s = .next s) ∧
    (44000 < mv → mv ≤ 48000 → exec (.p40vApplied mv) s = .fault .outsideOperatingConditions) ∧
    (48000 < mv → ∃ t : State, exec (.p40vApplied mv) s = .next t ∧ t.power.p40v = true ∧ t.power.hotSwapOff = true ∧
      (s.power.standby = true → s.power.tripped = false → s.power.failing = false → t.power.failing = true ∧ t.power.rails = false)) ∧
    (34000 ≤ mv → mv ≤ 44000 → s.power.standby = true → exec (.p40vApplied mv) s = .next s) ∧
    (34000 ≤ mv → mv ≤ 44000 → s.power.standby = false → ∃ t : State, exec (.p40vApplied mv) s = .next t ∧
      t.power.p40v = true ∧ t.power.standby = true ∧ t.power.failing = false ∧ t.power.tripped = false ∧ t.devTime = 0 ∧
      t.boot.starts = s.boot.starts + 1 ∧ t.boot.resetType = 0 ∧ t.boot.step = 1 ∧ t.log.nextSeq = 1 ∧ t.dram = Mem.empty ∧
      t.sec.mode = s.sec.mode ∧ t.objs = State.keptObjs s.objs)) ∧
  (∀ s : State,
    (∃ t : State, exec .hotSwapTurnOff s = .next t ∧ t.power.hotSwapOff = true) ∧
    (s.power.standby = true → s.power.tripped = false → s.power.failing = false → ∃ t : State, exec .powerFail s = .next t ∧
      t.power.failing = true ∧ t.power.rails = false ∧ t.power.dimmRail = false ∧ t.power.standby = true ∧
      t.power.flashRail = s.power.flashRail ∧ t.power.wpN = s.power.wpN ∧ t.bar.linkUp = false ∧ t.jobs = [] ∧ t.dram = Mem.empty ∧
      (∀ q : QueueId, (t.queue q.val).enabled = false) ∧ (∀ e : EngineId, (t.engine e.val).en = false)) ∧
    ((s.power.standby = false ∨ s.power.tripped = true ∨ s.power.failing = true) → exec .powerFail s = .next s) ∧
    (s.power.failing = true → s.power.flashRail = true → ∃ t : State, exec .wpAssert s = .next t ∧ t.power.wpN = true ∧
      t.power.flashRail = false ∧ t.out = s.out ++ [.pin "WP_N" false]) ∧
    (s.power.standby = true → (s.power.failing = true ∨ s.power.tripped = true) → ∃ t : State, exec .standbyRailOff s = .next t ∧
      t.power.standby = false ∧ t.power.failing = false ∧ t.power.tripped = false ∧ t.power.wpN = true ∧
      t.out = (if s.power.tripped = true then s.out ++ [.pin "THERM_TRIP_N" true] else s.out)) ∧
    (s.power.standby = true → s.power.tripped = false → ∃ t : State, exec .thermTrip s = .next t ∧ t.power.tripped = true ∧
      t.power.rails = false ∧ t.power.dimmRail = false ∧ t.power.flashRail = false ∧ t.power.wpN = true ∧ t.fab.loop = false ∧
      t.power.standby = true ∧ ∃ l, t.out = s.out ++ .pin "THERM_TRIP_N" false :: l ∧ Out.pin "WP_N" false ∈ l) ∧
    ((s.power.standby = false ∨ s.power.tripped = true) → exec .thermTrip s = .next s) ∧
    (s.power.perst = true → exec .perstAssert s = .next s) ∧
    (s.power.perst = false → s.power.standby = true → s.power.tripped = false → s.power.failing = false → ∃ t : State,
      exec .perstAssert s = .next t ∧ t.power.perst = true ∧ t.power.standby = true ∧ t.boot.starts = s.boot.starts + 1 ∧
      t.boot.resetType = 1 ∧ t.boot.step = 1 ∧ t.devTime = s.devTime ∧ t.jobs = [] ∧ t.dram = Mem.empty ∧ t.power.wpN = true) ∧
    (s.power.perst = false → exec .perstDeassert s = .next s) ∧
    (s.power.perst = true → s.power.standby = true → s.power.tripped = false → s.power.failing = false → ∃ t : State,
      exec .perstDeassert s = .next t ∧ t.power.perst = false ∧
      (s.boot.waitPerst = true → t.boot.waitPerst = false ∧ t.bar.bootStep = 3)))

/-! ## The block -/

/-- A step takes the command at the front of the queue and runs it on the rest of the machine; with no command waiting, one period of 1/1.4 GHz
passes: device time runs by 10/14 ns while the standby rail is up, the clock domains while the package rails are, and the clocks of an unpowered
module stand; every fourth period the claims of the control cycle are served. That an empty queue is a
tick is the model's choice (log entry 2); the table of commands gives no word, so no word is a command. -/
def Obligations.StepRunsFrontCommand : Prop :=
  (∀ (c : Instr) (rest : List Instr) (s : State), step { s with pending := c :: rest } = exec c { s with pending := rest }) ∧
  (∀ (s : State), s.pending = [] → ∃ t : State, step s = .next t ∧ t.pending = [] ∧
    t.devTime = (if s.power.standby = true then s.devTime + 10 else s.devTime) ∧ (s.power.standby = false → t = s) ∧
    (s.power.standby = true → s.power.rails = false → t = { s with devTime := s.devTime + 10, ticks := s.ticks + 1 }) ∧
    (s.sec.changes = [] → t.jobs = s.jobs ∧ t.queues = s.queues ∧ t.sec = s.sec ∧ t.power = s.power) ∧
    (s.power.standby = true → s.power.rails = true → (s.ticks + 1) % 4 = 0 → s.sec.changes = [] → t.ic.claims = [])) ∧
  (∀ (s : State) (nbits w : Nat), decodeTableWord nbits w = none ∧ s.withFetchWord nbits w = s)

/-- R14, R42, R149, R177, R285, R339, R389, R410, R411, R420 (Tables 1-19 to 1-22, 2-17, 3-12, 4-11, 5-12, 7-3, 7-4, 11-3, 12-3): what the machine holds
after reset: every rail off, no command, every core IDLE with its watchdog and its own stagger group, queues off with phase 1 and their
own vectors, the default headings, an Unowned module, memories in their canonical form. Values the spec does not state are the model's choice
(log entries 4 and 5). -/
def Obligations.ResetState : Prop :=
  let s := State.reset
  s.pending = [] ∧ s.power.standby = false ∧ s.power.rails = false ∧ s.power.perst = true ∧ s.bar.mode = .booting ∧ s.sec.mode = .unowned ∧
  s.jobs = [] ∧ s.log.nextSeq = 1 ∧ s.memWf = true ∧ s.valLogOk = true ∧
  (∀ c : CoreId, (s.core c.val).regs.mode = .idle ∧ (s.core c.val).regs.wdog = 0x20 ∧
    (s.core c.val).regs.stag = BitVec.ofNat 3 (c.val % 8) ∧ (s.core c.val).regs.phase = 0 ∧
    ∀ i : Fin 64, (s.core c.val).sem (BitVec.ofNat 6 i.val) = 0) ∧
  (∀ q : QueueId, (s.queue q.val).enabled = false ∧ (s.queue q.val).phase = true ∧ (s.queue q.val).imodCount = 1 ∧
    (s.queue q.val).vector = BitVec.ofNat 6 (q.val + 1)) ∧
  (∀ d : DieId, (s.die d.val).point = 0 ∧ (s.die d.val).sxt.nExp = 0xC ∧ (s.die d.val).sxt.thresh = 0xA ∧ (s.die d.val).sxt.en = true) ∧
  (∀ m : MemId, (s.sep m.val).gscale = 0x3F800000 ∧ (s.sep m.val).bc1 = 0x3F800000 ∧ (s.spu m.val).en = true) ∧
  (∀ p : PortId, (s.port p.val).mode = .off) ∧ (∀ e : EngineId, (s.engine e.val).dim = 0x1111 ∧ (s.engine e.val).en = false) ∧
  (∀ n : Fin 512, (s.src n.val).enable = false) ∧ (∀ p : PilotId, (s.pilot p.val).all = true) ∧
  s.alm.guard = 0x578 ∧ s.alm.latFlash = 0x7B0C ∧ s.helm.point = #v[0, 15, 15, 15, 0, 0, 10, 15]

/-- R50 (Tables 1-9 to 1-18): the core's operations decode as they are encoded: every well-formed operation is what its 128 bits decode to, with
every field at every value its table admits, and whatever decodes is well formed. -/
def Obligations.CoreOperationsRoundTrip : Prop :=
  (∀ op : CoreOp, op.wf = true → decodeOp (encodeOp op) = .ok op) ∧
  (∀ (w : BitVec 128) (op : CoreOp), decodeOp w = .ok op → op.wf = true)

/-- Every step keeps every memory of the part in its canonical form: DRAM, host memory, the scratchpads with their poison marks, and the object map.
The canonical form is the model's own, so that equal memories are equal data. -/
def Obligations.MemoriesStayCanonical : Prop :=
  ∀ s t : State, s.memWf = true → step s = .next t → t.memWf = true

/-- R359: SXT_CTRL.VAL_LOG is set only while the owner policy carries VAL_LOG_ALLOW or the debug scope carries SEXTANT_VALUES: every step, of any
command, keeps it so; and a POLICY that withdraws VAL_LOG_ALLOW clears it on every compute die before the command completes. -/
def Obligations.ValLogNeedsPermission : Prop :=
  (∀ s t : State, s.valLogOk = true → step s = .next t → t.valLogOk = true) ∧
  (∀ (s : State) (b : List Byte), (s.applyBlock 3 b).sec.policy.valLogAllow = false →
    ¬ (s.sec.mode = .debug ∧ s.sec.scope.getLsbD 4 = true) → ∀ d : DieId, ((s.applyBlock 3 b).die d.val).sxt.valLog = false)
end

