-- ==== Sys2Proof/Laws/State.lean ====
section
/-!
SUPPORT. Laws of the state: for each named update of the state, what it writes and that it leaves every other field. Every one
is true by `rfl` (of `occur` by its two cases), so that no later proof unfolds an update of the state.
-/
namespace Sys2Proof.Machine

variable (s : State)

/-! ### `State.modCore` -/

@[simp] theorem State.modCore_pending (c : Nat) (f : Core → Core) : (s.modCore c f).pending = s.pending := rfl
@[simp] theorem State.modCore_ticks (c : Nat) (f : Core → Core) : (s.modCore c f).ticks = s.ticks := rfl
@[simp] theorem State.modCore_devTime (c : Nat) (f : Core → Core) : (s.modCore c f).devTime = s.devTime := rfl
@[simp] theorem State.modCore_free (c : Nat) (f : Core → Core) : (s.modCore c f).free = s.free := rfl
@[simp] theorem State.modCore_out (c : Nat) (f : Core → Core) : (s.modCore c f).out = s.out := rfl
@[simp] theorem State.modCore_cores (c : Nat) (f : Core → Core) : (s.modCore c f).cores = vmod s.cores c f := rfl
@[simp] theorem State.modCore_posts (c : Nat) (f : Core → Core) : (s.modCore c f).posts = s.posts := rfl
@[simp] theorem State.modCore_dies (c : Nat) (f : Core → Core) : (s.modCore c f).dies = s.dies := rfl
@[simp] theorem State.modCore_spus (c : Nat) (f : Core → Core) : (s.modCore c f).spus = s.spus := rfl
@[simp] theorem State.modCore_seps (c : Nat) (f : Core → Core) : (s.modCore c f).seps = s.seps := rfl
@[simp] theorem State.modCore_mems (c : Nat) (f : Core → Core) : (s.modCore c f).mems = s.mems := rfl
@[simp] theorem State.modCore_flashes (c : Nat) (f : Core → Core) : (s.modCore c f).flashes = s.flashes := rfl
@[simp] theorem State.modCore_skms (c : Nat) (f : Core → Core) : (s.modCore c f).skms = s.skms := rfl
@[simp] theorem State.modCore_dram (c : Nat) (f : Core → Core) : (s.modCore c f).dram = s.dram := rfl
@[simp] theorem State.modCore_host (c : Nat) (f : Core → Core) : (s.modCore c f).host = s.host := rfl
@[simp] theorem State.modCore_objs (c : Nat) (f : Core → Core) : (s.modCore c f).objs = s.objs := rfl
@[simp] theorem State.modCore_evicts (c : Nat) (f : Core → Core) : (s.modCore c f).evicts = s.evicts := rfl
@[simp] theorem State.modCore_alm (c : Nat) (f : Core → Core) : (s.modCore c f).alm = s.alm := rfl
@[simp] theorem State.modCore_fab (c : Nat) (f : Core → Core) : (s.modCore c f).fab = s.fab := rfl
@[simp] theorem State.modCore_jobs (c : Nat) (f : Core → Core) : (s.modCore c f).jobs = s.jobs := rfl
@[simp] theorem State.modCore_images (c : Nat) (f : Core → Core) : (s.modCore c f).images = s.images := rfl
@[simp] theorem State.modCore_groups (c : Nat) (f : Core → Core) : (s.modCore c f).groups = s.groups := rfl
@[simp] theorem State.modCore_queries (c : Nat) (f : Core → Core) : (s.modCore c f).queries = s.queries := rfl
@[simp] theorem State.modCore_queryNext (c : Nat) (f : Core → Core) : (s.modCore c f).queryNext = s.queryNext := rfl
@[simp] theorem State.modCore_queues (c : Nat) (f : Core → Core) : (s.modCore c f).queues = s.queues := rfl
@[simp] theorem State.modCore_visit (c : Nat) (f : Core → Core) : (s.modCore c f).visit = s.visit := rfl
@[simp] theorem State.modCore_bar (c : Nat) (f : Core → Core) : (s.modCore c f).bar = s.bar := rfl
@[simp] theorem State.modCore_ic (c : Nat) (f : Core → Core) : (s.modCore c f).ic = s.ic := rfl
@[simp] theorem State.modCore_log (c : Nat) (f : Core → Core) : (s.modCore c f).log = s.log := rfl
@[simp] theorem State.modCore_sec (c : Nat) (f : Core → Core) : (s.modCore c f).sec = s.sec := rfl
@[simp] theorem State.modCore_boot (c : Nat) (f : Core → Core) : (s.modCore c f).boot = s.boot := rfl
@[simp] theorem State.modCore_power (c : Nat) (f : Core → Core) : (s.modCore c f).power = s.power := rfl
@[simp] theorem State.modCore_helm (c : Nat) (f : Core → Core) : (s.modCore c f).helm = s.helm := rfl
@[simp] theorem State.modCore_tlm (c : Nat) (f : Core → Core) : (s.modCore c f).tlm = s.tlm := rfl
@[simp] theorem State.modCore_fresh (c : Nat) (f : Core → Core) : (s.modCore c f).fresh = s.fresh := rfl

/-! ### `State.modDie` -/

@[simp] theorem State.modDie_pending (d : Nat) (f : ComputeDie → ComputeDie) : (s.modDie d f).pending = s.pending := rfl
@[simp] theorem State.modDie_ticks (d : Nat) (f : ComputeDie → ComputeDie) : (s.modDie d f).ticks = s.ticks := rfl
@[simp] theorem State.modDie_devTime (d : Nat) (f : ComputeDie → ComputeDie) : (s.modDie d f).devTime = s.devTime := rfl
@[simp] theorem State.modDie_free (d : Nat) (f : ComputeDie → ComputeDie) : (s.modDie d f).free = s.free := rfl
@[simp] theorem State.modDie_out (d : Nat) (f : ComputeDie → ComputeDie) : (s.modDie d f).out = s.out := rfl
@[simp] theorem State.modDie_cores (d : Nat) (f : ComputeDie → ComputeDie) : (s.modDie d f).cores = s.cores := rfl
@[simp] theorem State.modDie_posts (d : Nat) (f : ComputeDie → ComputeDie) : (s.modDie d f).posts = s.posts := rfl
@[simp] theorem State.modDie_dies (d : Nat) (f : ComputeDie → ComputeDie) : (s.modDie d f).dies = vmod s.dies d f := rfl
@[simp] theorem State.modDie_spus (d : Nat) (f : ComputeDie → ComputeDie) : (s.modDie d f).spus = s.spus := rfl
@[simp] theorem State.modDie_seps (d : Nat) (f : ComputeDie → ComputeDie) : (s.modDie d f).seps = s.seps := rfl
@[simp] theorem State.modDie_mems (d : Nat) (f : ComputeDie → ComputeDie) : (s.modDie d f).mems = s.mems := rfl
@[simp] theorem State.modDie_flashes (d : Nat) (f : ComputeDie → ComputeDie) : (s.modDie d f).flashes = s.flashes := rfl
@[simp] theorem State.modDie_skms (d : Nat) (f : ComputeDie → ComputeDie) : (s.modDie d f).skms = s.skms := rfl
@[simp] theorem State.modDie_dram (d : Nat) (f : ComputeDie → ComputeDie) : (s.modDie d f).dram = s.dram := rfl
@[simp] theorem State.modDie_host (d : Nat) (f : ComputeDie → ComputeDie) : (s.modDie d f).host = s.host := rfl
@[simp] theorem State.modDie_objs (d : Nat) (f : ComputeDie → ComputeDie) : (s.modDie d f).objs = s.objs := rfl
@[simp] theorem State.modDie_evicts (d : Nat) (f : ComputeDie → ComputeDie) : (s.modDie d f).evicts = s.evicts := rfl
@[simp] theorem State.modDie_alm (d : Nat) (f : ComputeDie → ComputeDie) : (s.modDie d f).alm = s.alm := rfl
@[simp] theorem State.modDie_fab (d : Nat) (f : ComputeDie → ComputeDie) : (s.modDie d f).fab = s.fab := rfl
@[simp] theorem State.modDie_jobs (d : Nat) (f : ComputeDie → ComputeDie) : (s.modDie d f).jobs = s.jobs := rfl
@[simp] theorem State.modDie_images (d : Nat) (f : ComputeDie → ComputeDie) : (s.modDie d f).images = s.images := rfl
@[simp] theorem State.modDie_groups (d : Nat) (f : ComputeDie → ComputeDie) : (s.modDie d f).groups = s.groups := rfl
@[simp] theorem State.modDie_queries (d : Nat) (f : ComputeDie → ComputeDie) : (s.modDie d f).queries = s.queries := rfl
@[simp] theorem State.modDie_queryNext (d : Nat) (f : ComputeDie → ComputeDie) : (s.modDie d f).queryNext = s.queryNext := rfl
@[simp] theorem State.modDie_queues (d : Nat) (f : ComputeDie → ComputeDie) : (s.modDie d f).queues = s.queues := rfl
@[simp] theorem State.modDie_visit (d : Nat) (f : ComputeDie → ComputeDie) : (s.modDie d f).visit = s.visit := rfl
@[simp] theorem State.modDie_bar (d : Nat) (f : ComputeDie → ComputeDie) : (s.modDie d f).bar = s.bar := rfl
@[simp] theorem State.modDie_ic (d : Nat) (f : ComputeDie → ComputeDie) : (s.modDie d f).ic = s.ic := rfl
@[simp] theorem State.modDie_log (d : Nat) (f : ComputeDie → ComputeDie) : (s.modDie d f).log = s.log := rfl
@[simp] theorem State.modDie_sec (d : Nat) (f : ComputeDie → ComputeDie) : (s.modDie d f).sec = s.sec := rfl
@[simp] theorem State.modDie_boot (d : Nat) (f : ComputeDie → ComputeDie) : (s.modDie d f).boot = s.boot := rfl
@[simp] theorem State.modDie_power (d : Nat) (f : ComputeDie → ComputeDie) : (s.modDie d f).power = s.power := rfl
@[simp] theorem State.modDie_helm (d : Nat) (f : ComputeDie → ComputeDie) : (s.modDie d f).helm = s.helm := rfl
@[simp] theorem State.modDie_tlm (d : Nat) (f : ComputeDie → ComputeDie) : (s.modDie d f).tlm = s.tlm := rfl
@[simp] theorem State.modDie_fresh (d : Nat) (f : ComputeDie → ComputeDie) : (s.modDie d f).fresh = s.fresh := rfl

/-! ### `State.modSpu` -/

@[simp] theorem State.modSpu_pending (m : Nat) (f : Spu → Spu) : (s.modSpu m f).pending = s.pending := rfl
@[simp] theorem State.modSpu_ticks (m : Nat) (f : Spu → Spu) : (s.modSpu m f).ticks = s.ticks := rfl
@[simp] theorem State.modSpu_devTime (m : Nat) (f : Spu → Spu) : (s.modSpu m f).devTime = s.devTime := rfl
@[simp] theorem State.modSpu_free (m : Nat) (f : Spu → Spu) : (s.modSpu m f).free = s.free := rfl
@[simp] theorem State.modSpu_out (m : Nat) (f : Spu → Spu) : (s.modSpu m f).out = s.out := rfl
@[simp] theorem State.modSpu_cores (m : Nat) (f : Spu → Spu) : (s.modSpu m f).cores = s.cores := rfl
@[simp] theorem State.modSpu_posts (m : Nat) (f : Spu → Spu) : (s.modSpu m f).posts = s.posts := rfl
@[simp] theorem State.modSpu_dies (m : Nat) (f : Spu → Spu) : (s.modSpu m f).dies = s.dies := rfl
@[simp] theorem State.modSpu_spus (m : Nat) (f : Spu → Spu) : (s.modSpu m f).spus = vmod s.spus m f := rfl
@[simp] theorem State.modSpu_seps (m : Nat) (f : Spu → Spu) : (s.modSpu m f).seps = s.seps := rfl
@[simp] theorem State.modSpu_mems (m : Nat) (f : Spu → Spu) : (s.modSpu m f).mems = s.mems := rfl
@[simp] theorem State.modSpu_flashes (m : Nat) (f : Spu → Spu) : (s.modSpu m f).flashes = s.flashes := rfl
@[simp] theorem State.modSpu_skms (m : Nat) (f : Spu → Spu) : (s.modSpu m f).skms = s.skms := rfl
@[simp] theorem State.modSpu_dram (m : Nat) (f : Spu → Spu) : (s.modSpu m f).dram = s.dram := rfl
@[simp] theorem State.modSpu_host (m : Nat) (f : Spu → Spu) : (s.modSpu m f).host = s.host := rfl
@[simp] theorem State.modSpu_objs (m : Nat) (f : Spu → Spu) : (s.modSpu m f).objs = s.objs := rfl
@[simp] theorem State.modSpu_evicts (m : Nat) (f : Spu → Spu) : (s.modSpu m f).evicts = s.evicts := rfl
@[simp] theorem State.modSpu_alm (m : Nat) (f : Spu → Spu) : (s.modSpu m f).alm = s.alm := rfl
@[simp] theorem State.modSpu_fab (m : Nat) (f : Spu → Spu) : (s.modSpu m f).fab = s.fab := rfl
@[simp] theorem State.modSpu_jobs (m : Nat) (f : Spu → Spu) : (s.modSpu m f).jobs = s.jobs := rfl
@[simp] theorem State.modSpu_images (m : Nat) (f : Spu → Spu) : (s.modSpu m f).images = s.images := rfl
@[simp] theorem State.modSpu_groups (m : Nat) (f : Spu → Spu) : (s.modSpu m f).groups = s.groups := rfl
@[simp] theorem State.modSpu_queries (m : Nat) (f : Spu → Spu) : (s.modSpu m f).queries = s.queries := rfl
@[simp] theorem State.modSpu_queryNext (m : Nat) (f : Spu → Spu) : (s.modSpu m f).queryNext = s.queryNext := rfl
@[simp] theorem State.modSpu_queues (m : Nat) (f : Spu → Spu) : (s.modSpu m f).queues = s.queues := rfl
@[simp] theorem State.modSpu_visit (m : Nat) (f : Spu → Spu) : (s.modSpu m f).visit = s.visit := rfl
@[simp] theorem State.modSpu_bar (m : Nat) (f : Spu → Spu) : (s.modSpu m f).bar = s.bar := rfl
@[simp] theorem State.modSpu_ic (m : Nat) (f : Spu → Spu) : (s.modSpu m f).ic = s.ic := rfl
@[simp] theorem State.modSpu_log (m : Nat) (f : Spu → Spu) : (s.modSpu m f).log = s.log := rfl
@[simp] theorem State.modSpu_sec (m : Nat) (f : Spu → Spu) : (s.modSpu m f).sec = s.sec := rfl
@[simp] theorem State.modSpu_boot (m : Nat) (f : Spu → Spu) : (s.modSpu m f).boot = s.boot := rfl
@[simp] theorem State.modSpu_power (m : Nat) (f : Spu → Spu) : (s.modSpu m f).power = s.power := rfl
@[simp] theorem State.modSpu_helm (m : Nat) (f : Spu → Spu) : (s.modSpu m f).helm = s.helm := rfl
@[simp] theorem State.modSpu_tlm (m : Nat) (f : Spu → Spu) : (s.modSpu m f).tlm = s.tlm := rfl
@[simp] theorem State.modSpu_fresh (m : Nat) (f : Spu → Spu) : (s.modSpu m f).fresh = s.fresh := rfl

/-! ### `State.modSep` -/

@[simp] theorem State.modSep_pending (m : Nat) (f : Sep → Sep) : (s.modSep m f).pending = s.pending := rfl
@[simp] theorem State.modSep_ticks (m : Nat) (f : Sep → Sep) : (s.modSep m f).ticks = s.ticks := rfl
@[simp] theorem State.modSep_devTime (m : Nat) (f : Sep → Sep) : (s.modSep m f).devTime = s.devTime := rfl
@[simp] theorem State.modSep_free (m : Nat) (f : Sep → Sep) : (s.modSep m f).free = s.free := rfl
@[simp] theorem State.modSep_out (m : Nat) (f : Sep → Sep) : (s.modSep m f).out = s.out := rfl
@[simp] theorem State.modSep_cores (m : Nat) (f : Sep → Sep) : (s.modSep m f).cores = s.cores := rfl
@[simp] theorem State.modSep_posts (m : Nat) (f : Sep → Sep) : (s.modSep m f).posts = s.posts := rfl
@[simp] theorem State.modSep_dies (m : Nat) (f : Sep → Sep) : (s.modSep m f).dies = s.dies := rfl
@[simp] theorem State.modSep_spus (m : Nat) (f : Sep → Sep) : (s.modSep m f).spus = s.spus := rfl
@[simp] theorem State.modSep_seps (m : Nat) (f : Sep → Sep) : (s.modSep m f).seps = vmod s.seps m f := rfl
@[simp] theorem State.modSep_mems (m : Nat) (f : Sep → Sep) : (s.modSep m f).mems = s.mems := rfl
@[simp] theorem State.modSep_flashes (m : Nat) (f : Sep → Sep) : (s.modSep m f).flashes = s.flashes := rfl
@[simp] theorem State.modSep_skms (m : Nat) (f : Sep → Sep) : (s.modSep m f).skms = s.skms := rfl
@[simp] theorem State.modSep_dram (m : Nat) (f : Sep → Sep) : (s.modSep m f).dram = s.dram := rfl
@[simp] theorem State.modSep_host (m : Nat) (f : Sep → Sep) : (s.modSep m f).host = s.host := rfl
@[simp] theorem State.modSep_objs (m : Nat) (f : Sep → Sep) : (s.modSep m f).objs = s.objs := rfl
@[simp] theorem State.modSep_evicts (m : Nat) (f : Sep → Sep) : (s.modSep m f).evicts = s.evicts := rfl
@[simp] theorem State.modSep_alm (m : Nat) (f : Sep → Sep) : (s.modSep m f).alm = s.alm := rfl
@[simp] theorem State.modSep_fab (m : Nat) (f : Sep → Sep) : (s.modSep m f).fab = s.fab := rfl
@[simp] theorem State.modSep_jobs (m : Nat) (f : Sep → Sep) : (s.modSep m f).jobs = s.jobs := rfl
@[simp] theorem State.modSep_images (m : Nat) (f : Sep → Sep) : (s.modSep m f).images = s.images := rfl
@[simp] theorem State.modSep_groups (m : Nat) (f : Sep → Sep) : (s.modSep m f).groups = s.groups := rfl
@[simp] theorem State.modSep_queries (m : Nat) (f : Sep → Sep) : (s.modSep m f).queries = s.queries := rfl
@[simp] theorem State.modSep_queryNext (m : Nat) (f : Sep → Sep) : (s.modSep m f).queryNext = s.queryNext := rfl
@[simp] theorem State.modSep_queues (m : Nat) (f : Sep → Sep) : (s.modSep m f).queues = s.queues := rfl
@[simp] theorem State.modSep_visit (m : Nat) (f : Sep → Sep) : (s.modSep m f).visit = s.visit := rfl
@[simp] theorem State.modSep_bar (m : Nat) (f : Sep → Sep) : (s.modSep m f).bar = s.bar := rfl
@[simp] theorem State.modSep_ic (m : Nat) (f : Sep → Sep) : (s.modSep m f).ic = s.ic := rfl
@[simp] theorem State.modSep_log (m : Nat) (f : Sep → Sep) : (s.modSep m f).log = s.log := rfl
@[simp] theorem State.modSep_sec (m : Nat) (f : Sep → Sep) : (s.modSep m f).sec = s.sec := rfl
@[simp] theorem State.modSep_boot (m : Nat) (f : Sep → Sep) : (s.modSep m f).boot = s.boot := rfl
@[simp] theorem State.modSep_power (m : Nat) (f : Sep → Sep) : (s.modSep m f).power = s.power := rfl
@[simp] theorem State.modSep_helm (m : Nat) (f : Sep → Sep) : (s.modSep m f).helm = s.helm := rfl
@[simp] theorem State.modSep_tlm (m : Nat) (f : Sep → Sep) : (s.modSep m f).tlm = s.tlm := rfl
@[simp] theorem State.modSep_fresh (m : Nat) (f : Sep → Sep) : (s.modSep m f).fresh = s.fresh := rfl

/-! ### `State.modMem` -/

@[simp] theorem State.modMem_pending (m : Nat) (f : MemDie → MemDie) : (s.modMem m f).pending = s.pending := rfl
@[simp] theorem State.modMem_ticks (m : Nat) (f : MemDie → MemDie) : (s.modMem m f).ticks = s.ticks := rfl
@[simp] theorem State.modMem_devTime (m : Nat) (f : MemDie → MemDie) : (s.modMem m f).devTime = s.devTime := rfl
@[simp] theorem State.modMem_free (m : Nat) (f : MemDie → MemDie) : (s.modMem m f).free = s.free := rfl
@[simp] theorem State.modMem_out (m : Nat) (f : MemDie → MemDie) : (s.modMem m f).out = s.out := rfl
@[simp] theorem State.modMem_cores (m : Nat) (f : MemDie → MemDie) : (s.modMem m f).cores = s.cores := rfl
@[simp] theorem State.modMem_posts (m : Nat) (f : MemDie → MemDie) : (s.modMem m f).posts = s.posts := rfl
@[simp] theorem State.modMem_dies (m : Nat) (f : MemDie → MemDie) : (s.modMem m f).dies = s.dies := rfl
@[simp] theorem State.modMem_spus (m : Nat) (f : MemDie → MemDie) : (s.modMem m f).spus = s.spus := rfl
@[simp] theorem State.modMem_seps (m : Nat) (f : MemDie → MemDie) : (s.modMem m f).seps = s.seps := rfl
@[simp] theorem State.modMem_mems (m : Nat) (f : MemDie → MemDie) : (s.modMem m f).mems = vmod s.mems m f := rfl
@[simp] theorem State.modMem_flashes (m : Nat) (f : MemDie → MemDie) : (s.modMem m f).flashes = s.flashes := rfl
@[simp] theorem State.modMem_skms (m : Nat) (f : MemDie → MemDie) : (s.modMem m f).skms = s.skms := rfl
@[simp] theorem State.modMem_dram (m : Nat) (f : MemDie → MemDie) : (s.modMem m f).dram = s.dram := rfl
@[simp] theorem State.modMem_host (m : Nat) (f : MemDie → MemDie) : (s.modMem m f).host = s.host := rfl
@[simp] theorem State.modMem_objs (m : Nat) (f : MemDie → MemDie) : (s.modMem m f).objs = s.objs := rfl
@[simp] theorem State.modMem_evicts (m : Nat) (f : MemDie → MemDie) : (s.modMem m f).evicts = s.evicts := rfl
@[simp] theorem State.modMem_alm (m : Nat) (f : MemDie → MemDie) : (s.modMem m f).alm = s.alm := rfl
@[simp] theorem State.modMem_fab (m : Nat) (f : MemDie → MemDie) : (s.modMem m f).fab = s.fab := rfl
@[simp] theorem State.modMem_jobs (m : Nat) (f : MemDie → MemDie) : (s.modMem m f).jobs = s.jobs := rfl
@[simp] theorem State.modMem_images (m : Nat) (f : MemDie → MemDie) : (s.modMem m f).images = s.images := rfl
@[simp] theorem State.modMem_groups (m : Nat) (f : MemDie → MemDie) : (s.modMem m f).groups = s.groups := rfl
@[simp] theorem State.modMem_queries (m : Nat) (f : MemDie → MemDie) : (s.modMem m f).queries = s.queries := rfl
@[simp] theorem State.modMem_queryNext (m : Nat) (f : MemDie → MemDie) : (s.modMem m f).queryNext = s.queryNext := rfl
@[simp] theorem State.modMem_queues (m : Nat) (f : MemDie → MemDie) : (s.modMem m f).queues = s.queues := rfl
@[simp] theorem State.modMem_visit (m : Nat) (f : MemDie → MemDie) : (s.modMem m f).visit = s.visit := rfl
@[simp] theorem State.modMem_bar (m : Nat) (f : MemDie → MemDie) : (s.modMem m f).bar = s.bar := rfl
@[simp] theorem State.modMem_ic (m : Nat) (f : MemDie → MemDie) : (s.modMem m f).ic = s.ic := rfl
@[simp] theorem State.modMem_log (m : Nat) (f : MemDie → MemDie) : (s.modMem m f).log = s.log := rfl
@[simp] theorem State.modMem_sec (m : Nat) (f : MemDie → MemDie) : (s.modMem m f).sec = s.sec := rfl
@[simp] theorem State.modMem_boot (m : Nat) (f : MemDie → MemDie) : (s.modMem m f).boot = s.boot := rfl
@[simp] theorem State.modMem_power (m : Nat) (f : MemDie → MemDie) : (s.modMem m f).power = s.power := rfl
@[simp] theorem State.modMem_helm (m : Nat) (f : MemDie → MemDie) : (s.modMem m f).helm = s.helm := rfl
@[simp] theorem State.modMem_tlm (m : Nat) (f : MemDie → MemDie) : (s.modMem m f).tlm = s.tlm := rfl
@[simp] theorem State.modMem_fresh (m : Nat) (f : MemDie → MemDie) : (s.modMem m f).fresh = s.fresh := rfl

/-! ### `State.modFlash` -/

@[simp] theorem State.modFlash_pending (i : Nat) (f : FlashDie → FlashDie) : (s.modFlash i f).pending = s.pending := rfl
@[simp] theorem State.modFlash_ticks (i : Nat) (f : FlashDie → FlashDie) : (s.modFlash i f).ticks = s.ticks := rfl
@[simp] theorem State.modFlash_devTime (i : Nat) (f : FlashDie → FlashDie) : (s.modFlash i f).devTime = s.devTime := rfl
@[simp] theorem State.modFlash_free (i : Nat) (f : FlashDie → FlashDie) : (s.modFlash i f).free = s.free := rfl
@[simp] theorem State.modFlash_out (i : Nat) (f : FlashDie → FlashDie) : (s.modFlash i f).out = s.out := rfl
@[simp] theorem State.modFlash_cores (i : Nat) (f : FlashDie → FlashDie) : (s.modFlash i f).cores = s.cores := rfl
@[simp] theorem State.modFlash_posts (i : Nat) (f : FlashDie → FlashDie) : (s.modFlash i f).posts = s.posts := rfl
@[simp] theorem State.modFlash_dies (i : Nat) (f : FlashDie → FlashDie) : (s.modFlash i f).dies = s.dies := rfl
@[simp] theorem State.modFlash_spus (i : Nat) (f : FlashDie → FlashDie) : (s.modFlash i f).spus = s.spus := rfl
@[simp] theorem State.modFlash_seps (i : Nat) (f : FlashDie → FlashDie) : (s.modFlash i f).seps = s.seps := rfl
@[simp] theorem State.modFlash_mems (i : Nat) (f : FlashDie → FlashDie) : (s.modFlash i f).mems = s.mems := rfl
@[simp] theorem State.modFlash_flashes (i : Nat) (f : FlashDie → FlashDie) : (s.modFlash i f).flashes = vmod s.flashes i f := rfl
@[simp] theorem State.modFlash_skms (i : Nat) (f : FlashDie → FlashDie) : (s.modFlash i f).skms = s.skms := rfl
@[simp] theorem State.modFlash_dram (i : Nat) (f : FlashDie → FlashDie) : (s.modFlash i f).dram = s.dram := rfl
@[simp] theorem State.modFlash_host (i : Nat) (f : FlashDie → FlashDie) : (s.modFlash i f).host = s.host := rfl
@[simp] theorem State.modFlash_objs (i : Nat) (f : FlashDie → FlashDie) : (s.modFlash i f).objs = s.objs := rfl
@[simp] theorem State.modFlash_evicts (i : Nat) (f : FlashDie → FlashDie) : (s.modFlash i f).evicts = s.evicts := rfl
@[simp] theorem State.modFlash_alm (i : Nat) (f : FlashDie → FlashDie) : (s.modFlash i f).alm = s.alm := rfl
@[simp] theorem State.modFlash_fab (i : Nat) (f : FlashDie → FlashDie) : (s.modFlash i f).fab = s.fab := rfl
@[simp] theorem State.modFlash_jobs (i : Nat) (f : FlashDie → FlashDie) : (s.modFlash i f).jobs = s.jobs := rfl
@[simp] theorem State.modFlash_images (i : Nat) (f : FlashDie → FlashDie) : (s.modFlash i f).images = s.images := rfl
@[simp] theorem State.modFlash_groups (i : Nat) (f : FlashDie → FlashDie) : (s.modFlash i f).groups = s.groups := rfl
@[simp] theorem State.modFlash_queries (i : Nat) (f : FlashDie → FlashDie) : (s.modFlash i f).queries = s.queries := rfl
@[simp] theorem State.modFlash_queryNext (i : Nat) (f : FlashDie → FlashDie) : (s.modFlash i f).queryNext = s.queryNext := rfl
@[simp] theorem State.modFlash_queues (i : Nat) (f : FlashDie → FlashDie) : (s.modFlash i f).queues = s.queues := rfl
@[simp] theorem State.modFlash_visit (i : Nat) (f : FlashDie → FlashDie) : (s.modFlash i f).visit = s.visit := rfl
@[simp] theorem State.modFlash_bar (i : Nat) (f : FlashDie → FlashDie) : (s.modFlash i f).bar = s.bar := rfl
@[simp] theorem State.modFlash_ic (i : Nat) (f : FlashDie → FlashDie) : (s.modFlash i f).ic = s.ic := rfl
@[simp] theorem State.modFlash_log (i : Nat) (f : FlashDie → FlashDie) : (s.modFlash i f).log = s.log := rfl
@[simp] theorem State.modFlash_sec (i : Nat) (f : FlashDie → FlashDie) : (s.modFlash i f).sec = s.sec := rfl
@[simp] theorem State.modFlash_boot (i : Nat) (f : FlashDie → FlashDie) : (s.modFlash i f).boot = s.boot := rfl
@[simp] theorem State.modFlash_power (i : Nat) (f : FlashDie → FlashDie) : (s.modFlash i f).power = s.power := rfl
@[simp] theorem State.modFlash_helm (i : Nat) (f : FlashDie → FlashDie) : (s.modFlash i f).helm = s.helm := rfl
@[simp] theorem State.modFlash_tlm (i : Nat) (f : FlashDie → FlashDie) : (s.modFlash i f).tlm = s.tlm := rfl
@[simp] theorem State.modFlash_fresh (i : Nat) (f : FlashDie → FlashDie) : (s.modFlash i f).fresh = s.fresh := rfl

/-! ### `State.modSkm` -/

@[simp] theorem State.modSkm_pending (k : Nat) (f : Skimmer → Skimmer) : (s.modSkm k f).pending = s.pending := rfl
@[simp] theorem State.modSkm_ticks (k : Nat) (f : Skimmer → Skimmer) : (s.modSkm k f).ticks = s.ticks := rfl
@[simp] theorem State.modSkm_devTime (k : Nat) (f : Skimmer → Skimmer) : (s.modSkm k f).devTime = s.devTime := rfl
@[simp] theorem State.modSkm_free (k : Nat) (f : Skimmer → Skimmer) : (s.modSkm k f).free = s.free := rfl
@[simp] theorem State.modSkm_out (k : Nat) (f : Skimmer → Skimmer) : (s.modSkm k f).out = s.out := rfl
@[simp] theorem State.modSkm_cores (k : Nat) (f : Skimmer → Skimmer) : (s.modSkm k f).cores = s.cores := rfl
@[simp] theorem State.modSkm_posts (k : Nat) (f : Skimmer → Skimmer) : (s.modSkm k f).posts = s.posts := rfl
@[simp] theorem State.modSkm_dies (k : Nat) (f : Skimmer → Skimmer) : (s.modSkm k f).dies = s.dies := rfl
@[simp] theorem State.modSkm_spus (k : Nat) (f : Skimmer → Skimmer) : (s.modSkm k f).spus = s.spus := rfl
@[simp] theorem State.modSkm_seps (k : Nat) (f : Skimmer → Skimmer) : (s.modSkm k f).seps = s.seps := rfl
@[simp] theorem State.modSkm_mems (k : Nat) (f : Skimmer → Skimmer) : (s.modSkm k f).mems = s.mems := rfl
@[simp] theorem State.modSkm_flashes (k : Nat) (f : Skimmer → Skimmer) : (s.modSkm k f).flashes = s.flashes := rfl
@[simp] theorem State.modSkm_skms (k : Nat) (f : Skimmer → Skimmer) : (s.modSkm k f).skms = vmod s.skms k f := rfl
@[simp] theorem State.modSkm_dram (k : Nat) (f : Skimmer → Skimmer) : (s.modSkm k f).dram = s.dram := rfl
@[simp] theorem State.modSkm_host (k : Nat) (f : Skimmer → Skimmer) : (s.modSkm k f).host = s.host := rfl
@[simp] theorem State.modSkm_objs (k : Nat) (f : Skimmer → Skimmer) : (s.modSkm k f).objs = s.objs := rfl
@[simp] theorem State.modSkm_evicts (k : Nat) (f : Skimmer → Skimmer) : (s.modSkm k f).evicts = s.evicts := rfl
@[simp] theorem State.modSkm_alm (k : Nat) (f : Skimmer → Skimmer) : (s.modSkm k f).alm = s.alm := rfl
@[simp] theorem State.modSkm_fab (k : Nat) (f : Skimmer → Skimmer) : (s.modSkm k f).fab = s.fab := rfl
@[simp] theorem State.modSkm_jobs (k : Nat) (f : Skimmer → Skimmer) : (s.modSkm k f).jobs = s.jobs := rfl
@[simp] theorem State.modSkm_images (k : Nat) (f : Skimmer → Skimmer) : (s.modSkm k f).images = s.images := rfl
@[simp] theorem State.modSkm_groups (k : Nat) (f : Skimmer → Skimmer) : (s.modSkm k f).groups = s.groups := rfl
@[simp] theorem State.modSkm_queries (k : Nat) (f : Skimmer → Skimmer) : (s.modSkm k f).queries = s.queries := rfl
@[simp] theorem State.modSkm_queryNext (k : Nat) (f : Skimmer → Skimmer) : (s.modSkm k f).queryNext = s.queryNext := rfl
@[simp] theorem State.modSkm_queues (k : Nat) (f : Skimmer → Skimmer) : (s.modSkm k f).queues = s.queues := rfl
@[simp] theorem State.modSkm_visit (k : Nat) (f : Skimmer → Skimmer) : (s.modSkm k f).visit = s.visit := rfl
@[simp] theorem State.modSkm_bar (k : Nat) (f : Skimmer → Skimmer) : (s.modSkm k f).bar = s.bar := rfl
@[simp] theorem State.modSkm_ic (k : Nat) (f : Skimmer → Skimmer) : (s.modSkm k f).ic = s.ic := rfl
@[simp] theorem State.modSkm_log (k : Nat) (f : Skimmer → Skimmer) : (s.modSkm k f).log = s.log := rfl
@[simp] theorem State.modSkm_sec (k : Nat) (f : Skimmer → Skimmer) : (s.modSkm k f).sec = s.sec := rfl
@[simp] theorem State.modSkm_boot (k : Nat) (f : Skimmer → Skimmer) : (s.modSkm k f).boot = s.boot := rfl
@[simp] theorem State.modSkm_power (k : Nat) (f : Skimmer → Skimmer) : (s.modSkm k f).power = s.power := rfl
@[simp] theorem State.modSkm_helm (k : Nat) (f : Skimmer → Skimmer) : (s.modSkm k f).helm = s.helm := rfl
@[simp] theorem State.modSkm_tlm (k : Nat) (f : Skimmer → Skimmer) : (s.modSkm k f).tlm = s.tlm := rfl
@[simp] theorem State.modSkm_fresh (k : Nat) (f : Skimmer → Skimmer) : (s.modSkm k f).fresh = s.fresh := rfl

/-! ### `State.modQueue` -/

@[simp] theorem State.modQueue_pending (q : Nat) (f : HostQ → HostQ) : (s.modQueue q f).pending = s.pending := rfl
@[simp] theorem State.modQueue_ticks (q : Nat) (f : HostQ → HostQ) : (s.modQueue q f).ticks = s.ticks := rfl
@[simp] theorem State.modQueue_devTime (q : Nat) (f : HostQ → HostQ) : (s.modQueue q f).devTime = s.devTime := rfl
@[simp] theorem State.modQueue_free (q : Nat) (f : HostQ → HostQ) : (s.modQueue q f).free = s.free := rfl
@[simp] theorem State.modQueue_out (q : Nat) (f : HostQ → HostQ) : (s.modQueue q f).out = s.out := rfl
@[simp] theorem State.modQueue_cores (q : Nat) (f : HostQ → HostQ) : (s.modQueue q f).cores = s.cores := rfl
@[simp] theorem State.modQueue_posts (q : Nat) (f : HostQ → HostQ) : (s.modQueue q f).posts = s.posts := rfl
@[simp] theorem State.modQueue_dies (q : Nat) (f : HostQ → HostQ) : (s.modQueue q f).dies = s.dies := rfl
@[simp] theorem State.modQueue_spus (q : Nat) (f : HostQ → HostQ) : (s.modQueue q f).spus = s.spus := rfl
@[simp] theorem State.modQueue_seps (q : Nat) (f : HostQ → HostQ) : (s.modQueue q f).seps = s.seps := rfl
@[simp] theorem State.modQueue_mems (q : Nat) (f : HostQ → HostQ) : (s.modQueue q f).mems = s.mems := rfl
@[simp] theorem State.modQueue_flashes (q : Nat) (f : HostQ → HostQ) : (s.modQueue q f).flashes = s.flashes := rfl
@[simp] theorem State.modQueue_skms (q : Nat) (f : HostQ → HostQ) : (s.modQueue q f).skms = s.skms := rfl
@[simp] theorem State.modQueue_dram (q : Nat) (f : HostQ → HostQ) : (s.modQueue q f).dram = s.dram := rfl
@[simp] theorem State.modQueue_host (q : Nat) (f : HostQ → HostQ) : (s.modQueue q f).host = s.host := rfl
@[simp] theorem State.modQueue_objs (q : Nat) (f : HostQ → HostQ) : (s.modQueue q f).objs = s.objs := rfl
@[simp] theorem State.modQueue_evicts (q : Nat) (f : HostQ → HostQ) : (s.modQueue q f).evicts = s.evicts := rfl
@[simp] theorem State.modQueue_alm (q : Nat) (f : HostQ → HostQ) : (s.modQueue q f).alm = s.alm := rfl
@[simp] theorem State.modQueue_fab (q : Nat) (f : HostQ → HostQ) : (s.modQueue q f).fab = s.fab := rfl
@[simp] theorem State.modQueue_jobs (q : Nat) (f : HostQ → HostQ) : (s.modQueue q f).jobs = s.jobs := rfl
@[simp] theorem State.modQueue_images (q : Nat) (f : HostQ → HostQ) : (s.modQueue q f).images = s.images := rfl
@[simp] theorem State.modQueue_groups (q : Nat) (f : HostQ → HostQ) : (s.modQueue q f).groups = s.groups := rfl
@[simp] theorem State.modQueue_queries (q : Nat) (f : HostQ → HostQ) : (s.modQueue q f).queries = s.queries := rfl
@[simp] theorem State.modQueue_queryNext (q : Nat) (f : HostQ → HostQ) : (s.modQueue q f).queryNext = s.queryNext := rfl
@[simp] theorem State.modQueue_queues (q : Nat) (f : HostQ → HostQ) : (s.modQueue q f).queues = vmod s.queues q f := rfl
@[simp] theorem State.modQueue_visit (q : Nat) (f : HostQ → HostQ) : (s.modQueue q f).visit = s.visit := rfl
@[simp] theorem State.modQueue_bar (q : Nat) (f : HostQ → HostQ) : (s.modQueue q f).bar = s.bar := rfl
@[simp] theorem State.modQueue_ic (q : Nat) (f : HostQ → HostQ) : (s.modQueue q f).ic = s.ic := rfl
@[simp] theorem State.modQueue_log (q : Nat) (f : HostQ → HostQ) : (s.modQueue q f).log = s.log := rfl
@[simp] theorem State.modQueue_sec (q : Nat) (f : HostQ → HostQ) : (s.modQueue q f).sec = s.sec := rfl
@[simp] theorem State.modQueue_boot (q : Nat) (f : HostQ → HostQ) : (s.modQueue q f).boot = s.boot := rfl
@[simp] theorem State.modQueue_power (q : Nat) (f : HostQ → HostQ) : (s.modQueue q f).power = s.power := rfl
@[simp] theorem State.modQueue_helm (q : Nat) (f : HostQ → HostQ) : (s.modQueue q f).helm = s.helm := rfl
@[simp] theorem State.modQueue_tlm (q : Nat) (f : HostQ → HostQ) : (s.modQueue q f).tlm = s.tlm := rfl
@[simp] theorem State.modQueue_fresh (q : Nat) (f : HostQ → HostQ) : (s.modQueue q f).fresh = s.fresh := rfl

/-! ### `State.modPort` -/

@[simp] theorem State.modPort_pending (p : Nat) (f : Port → Port) : (s.modPort p f).pending = s.pending := rfl
@[simp] theorem State.modPort_ticks (p : Nat) (f : Port → Port) : (s.modPort p f).ticks = s.ticks := rfl
@[simp] theorem State.modPort_devTime (p : Nat) (f : Port → Port) : (s.modPort p f).devTime = s.devTime := rfl
@[simp] theorem State.modPort_free (p : Nat) (f : Port → Port) : (s.modPort p f).free = s.free := rfl
@[simp] theorem State.modPort_out (p : Nat) (f : Port → Port) : (s.modPort p f).out = s.out := rfl
@[simp] theorem State.modPort_cores (p : Nat) (f : Port → Port) : (s.modPort p f).cores = s.cores := rfl
@[simp] theorem State.modPort_posts (p : Nat) (f : Port → Port) : (s.modPort p f).posts = s.posts := rfl
@[simp] theorem State.modPort_dies (p : Nat) (f : Port → Port) : (s.modPort p f).dies = s.dies := rfl
@[simp] theorem State.modPort_spus (p : Nat) (f : Port → Port) : (s.modPort p f).spus = s.spus := rfl
@[simp] theorem State.modPort_seps (p : Nat) (f : Port → Port) : (s.modPort p f).seps = s.seps := rfl
@[simp] theorem State.modPort_mems (p : Nat) (f : Port → Port) : (s.modPort p f).mems = s.mems := rfl
@[simp] theorem State.modPort_flashes (p : Nat) (f : Port → Port) : (s.modPort p f).flashes = s.flashes := rfl
@[simp] theorem State.modPort_skms (p : Nat) (f : Port → Port) : (s.modPort p f).skms = s.skms := rfl
@[simp] theorem State.modPort_dram (p : Nat) (f : Port → Port) : (s.modPort p f).dram = s.dram := rfl
@[simp] theorem State.modPort_host (p : Nat) (f : Port → Port) : (s.modPort p f).host = s.host := rfl
@[simp] theorem State.modPort_objs (p : Nat) (f : Port → Port) : (s.modPort p f).objs = s.objs := rfl
@[simp] theorem State.modPort_evicts (p : Nat) (f : Port → Port) : (s.modPort p f).evicts = s.evicts := rfl
@[simp] theorem State.modPort_alm (p : Nat) (f : Port → Port) : (s.modPort p f).alm = s.alm := rfl
@[simp] theorem State.modPort_fab (p : Nat) (f : Port → Port) : (s.modPort p f).fab = { s.fab with ports := vmod s.fab.ports p f } := rfl
@[simp] theorem State.modPort_jobs (p : Nat) (f : Port → Port) : (s.modPort p f).jobs = s.jobs := rfl
@[simp] theorem State.modPort_images (p : Nat) (f : Port → Port) : (s.modPort p f).images = s.images := rfl
@[simp] theorem State.modPort_groups (p : Nat) (f : Port → Port) : (s.modPort p f).groups = s.groups := rfl
@[simp] theorem State.modPort_queries (p : Nat) (f : Port → Port) : (s.modPort p f).queries = s.queries := rfl
@[simp] theorem State.modPort_queryNext (p : Nat) (f : Port → Port) : (s.modPort p f).queryNext = s.queryNext := rfl
@[simp] theorem State.modPort_queues (p : Nat) (f : Port → Port) : (s.modPort p f).queues = s.queues := rfl
@[simp] theorem State.modPort_visit (p : Nat) (f : Port → Port) : (s.modPort p f).visit = s.visit := rfl
@[simp] theorem State.modPort_bar (p : Nat) (f : Port → Port) : (s.modPort p f).bar = s.bar := rfl
@[simp] theorem State.modPort_ic (p : Nat) (f : Port → Port) : (s.modPort p f).ic = s.ic := rfl
@[simp] theorem State.modPort_log (p : Nat) (f : Port → Port) : (s.modPort p f).log = s.log := rfl
@[simp] theorem State.modPort_sec (p : Nat) (f : Port → Port) : (s.modPort p f).sec = s.sec := rfl
@[simp] theorem State.modPort_boot (p : Nat) (f : Port → Port) : (s.modPort p f).boot = s.boot := rfl
@[simp] theorem State.modPort_power (p : Nat) (f : Port → Port) : (s.modPort p f).power = s.power := rfl
@[simp] theorem State.modPort_helm (p : Nat) (f : Port → Port) : (s.modPort p f).helm = s.helm := rfl
@[simp] theorem State.modPort_tlm (p : Nat) (f : Port → Port) : (s.modPort p f).tlm = s.tlm := rfl
@[simp] theorem State.modPort_fresh (p : Nat) (f : Port → Port) : (s.modPort p f).fresh = s.fresh := rfl

/-! ### `State.modEngine` -/

@[simp] theorem State.modEngine_pending (e : Nat) (f : Engine → Engine) : (s.modEngine e f).pending = s.pending := rfl
@[simp] theorem State.modEngine_ticks (e : Nat) (f : Engine → Engine) : (s.modEngine e f).ticks = s.ticks := rfl
@[simp] theorem State.modEngine_devTime (e : Nat) (f : Engine → Engine) : (s.modEngine e f).devTime = s.devTime := rfl
@[simp] theorem State.modEngine_free (e : Nat) (f : Engine → Engine) : (s.modEngine e f).free = s.free := rfl
@[simp] theorem State.modEngine_out (e : Nat) (f : Engine → Engine) : (s.modEngine e f).out = s.out := rfl
@[simp] theorem State.modEngine_cores (e : Nat) (f : Engine → Engine) : (s.modEngine e f).cores = s.cores := rfl
@[simp] theorem State.modEngine_posts (e : Nat) (f : Engine → Engine) : (s.modEngine e f).posts = s.posts := rfl
@[simp] theorem State.modEngine_dies (e : Nat) (f : Engine → Engine) : (s.modEngine e f).dies = s.dies := rfl
@[simp] theorem State.modEngine_spus (e : Nat) (f : Engine → Engine) : (s.modEngine e f).spus = s.spus := rfl
@[simp] theorem State.modEngine_seps (e : Nat) (f : Engine → Engine) : (s.modEngine e f).seps = s.seps := rfl
@[simp] theorem State.modEngine_mems (e : Nat) (f : Engine → Engine) : (s.modEngine e f).mems = s.mems := rfl
@[simp] theorem State.modEngine_flashes (e : Nat) (f : Engine → Engine) : (s.modEngine e f).flashes = s.flashes := rfl
@[simp] theorem State.modEngine_skms (e : Nat) (f : Engine → Engine) : (s.modEngine e f).skms = s.skms := rfl
@[simp] theorem State.modEngine_dram (e : Nat) (f : Engine → Engine) : (s.modEngine e f).dram = s.dram := rfl
@[simp] theorem State.modEngine_host (e : Nat) (f : Engine → Engine) : (s.modEngine e f).host = s.host := rfl
@[simp] theorem State.modEngine_objs (e : Nat) (f : Engine → Engine) : (s.modEngine e f).objs = s.objs := rfl
@[simp] theorem State.modEngine_evicts (e : Nat) (f : Engine → Engine) : (s.modEngine e f).evicts = s.evicts := rfl
@[simp] theorem State.modEngine_alm (e : Nat) (f : Engine → Engine) : (s.modEngine e f).alm = s.alm := rfl
@[simp] theorem State.modEngine_fab (e : Nat) (f : Engine → Engine) : (s.modEngine e f).fab = { s.fab with engines := vmod s.fab.engines e f } := rfl
@[simp] theorem State.modEngine_jobs (e : Nat) (f : Engine → Engine) : (s.modEngine e f).jobs = s.jobs := rfl
@[simp] theorem State.modEngine_images (e : Nat) (f : Engine → Engine) : (s.modEngine e f).images = s.images := rfl
@[simp] theorem State.modEngine_groups (e : Nat) (f : Engine → Engine) : (s.modEngine e f).groups = s.groups := rfl
@[simp] theorem State.modEngine_queries (e : Nat) (f : Engine → Engine) : (s.modEngine e f).queries = s.queries := rfl
@[simp] theorem State.modEngine_queryNext (e : Nat) (f : Engine → Engine) : (s.modEngine e f).queryNext = s.queryNext := rfl
@[simp] theorem State.modEngine_queues (e : Nat) (f : Engine → Engine) : (s.modEngine e f).queues = s.queues := rfl
@[simp] theorem State.modEngine_visit (e : Nat) (f : Engine → Engine) : (s.modEngine e f).visit = s.visit := rfl
@[simp] theorem State.modEngine_bar (e : Nat) (f : Engine → Engine) : (s.modEngine e f).bar = s.bar := rfl
@[simp] theorem State.modEngine_ic (e : Nat) (f : Engine → Engine) : (s.modEngine e f).ic = s.ic := rfl
@[simp] theorem State.modEngine_log (e : Nat) (f : Engine → Engine) : (s.modEngine e f).log = s.log := rfl
@[simp] theorem State.modEngine_sec (e : Nat) (f : Engine → Engine) : (s.modEngine e f).sec = s.sec := rfl
@[simp] theorem State.modEngine_boot (e : Nat) (f : Engine → Engine) : (s.modEngine e f).boot = s.boot := rfl
@[simp] theorem State.modEngine_power (e : Nat) (f : Engine → Engine) : (s.modEngine e f).power = s.power := rfl
@[simp] theorem State.modEngine_helm (e : Nat) (f : Engine → Engine) : (s.modEngine e f).helm = s.helm := rfl
@[simp] theorem State.modEngine_tlm (e : Nat) (f : Engine → Engine) : (s.modEngine e f).tlm = s.tlm := rfl
@[simp] theorem State.modEngine_fresh (e : Nat) (f : Engine → Engine) : (s.modEngine e f).fresh = s.fresh := rfl

/-! ### `State.modFab` -/

@[simp] theorem State.modFab_pending (f : Fabric → Fabric) : (s.modFab f).pending = s.pending := rfl
@[simp] theorem State.modFab_ticks (f : Fabric → Fabric) : (s.modFab f).ticks = s.ticks := rfl
@[simp] theorem State.modFab_devTime (f : Fabric → Fabric) : (s.modFab f).devTime = s.devTime := rfl
@[simp] theorem State.modFab_free (f : Fabric → Fabric) : (s.modFab f).free = s.free := rfl
@[simp] theorem State.modFab_out (f : Fabric → Fabric) : (s.modFab f).out = s.out := rfl
@[simp] theorem State.modFab_cores (f : Fabric → Fabric) : (s.modFab f).cores = s.cores := rfl
@[simp] theorem State.modFab_posts (f : Fabric → Fabric) : (s.modFab f).posts = s.posts := rfl
@[simp] theorem State.modFab_dies (f : Fabric → Fabric) : (s.modFab f).dies = s.dies := rfl
@[simp] theorem State.modFab_spus (f : Fabric → Fabric) : (s.modFab f).spus = s.spus := rfl
@[simp] theorem State.modFab_seps (f : Fabric → Fabric) : (s.modFab f).seps = s.seps := rfl
@[simp] theorem State.modFab_mems (f : Fabric → Fabric) : (s.modFab f).mems = s.mems := rfl
@[simp] theorem State.modFab_flashes (f : Fabric → Fabric) : (s.modFab f).flashes = s.flashes := rfl
@[simp] theorem State.modFab_skms (f : Fabric → Fabric) : (s.modFab f).skms = s.skms := rfl
@[simp] theorem State.modFab_dram (f : Fabric → Fabric) : (s.modFab f).dram = s.dram := rfl
@[simp] theorem State.modFab_host (f : Fabric → Fabric) : (s.modFab f).host = s.host := rfl
@[simp] theorem State.modFab_objs (f : Fabric → Fabric) : (s.modFab f).objs = s.objs := rfl
@[simp] theorem State.modFab_evicts (f : Fabric → Fabric) : (s.modFab f).evicts = s.evicts := rfl
@[simp] theorem State.modFab_alm (f : Fabric → Fabric) : (s.modFab f).alm = s.alm := rfl
@[simp] theorem State.modFab_fab (f : Fabric → Fabric) : (s.modFab f).fab = f s.fab := rfl
@[simp] theorem State.modFab_jobs (f : Fabric → Fabric) : (s.modFab f).jobs = s.jobs := rfl
@[simp] theorem State.modFab_images (f : Fabric → Fabric) : (s.modFab f).images = s.images := rfl
@[simp] theorem State.modFab_groups (f : Fabric → Fabric) : (s.modFab f).groups = s.groups := rfl
@[simp] theorem State.modFab_queries (f : Fabric → Fabric) : (s.modFab f).queries = s.queries := rfl
@[simp] theorem State.modFab_queryNext (f : Fabric → Fabric) : (s.modFab f).queryNext = s.queryNext := rfl
@[simp] theorem State.modFab_queues (f : Fabric → Fabric) : (s.modFab f).queues = s.queues := rfl
@[simp] theorem State.modFab_visit (f : Fabric → Fabric) : (s.modFab f).visit = s.visit := rfl
@[simp] theorem State.modFab_bar (f : Fabric → Fabric) : (s.modFab f).bar = s.bar := rfl
@[simp] theorem State.modFab_ic (f : Fabric → Fabric) : (s.modFab f).ic = s.ic := rfl
@[simp] theorem State.modFab_log (f : Fabric → Fabric) : (s.modFab f).log = s.log := rfl
@[simp] theorem State.modFab_sec (f : Fabric → Fabric) : (s.modFab f).sec = s.sec := rfl
@[simp] theorem State.modFab_boot (f : Fabric → Fabric) : (s.modFab f).boot = s.boot := rfl
@[simp] theorem State.modFab_power (f : Fabric → Fabric) : (s.modFab f).power = s.power := rfl
@[simp] theorem State.modFab_helm (f : Fabric → Fabric) : (s.modFab f).helm = s.helm := rfl
@[simp] theorem State.modFab_tlm (f : Fabric → Fabric) : (s.modFab f).tlm = s.tlm := rfl
@[simp] theorem State.modFab_fresh (f : Fabric → Fabric) : (s.modFab f).fresh = s.fresh := rfl

/-! ### `State.modSrc` -/

@[simp] theorem State.modSrc_pending (n : Nat) (f : IcSrc → IcSrc) : (s.modSrc n f).pending = s.pending := rfl
@[simp] theorem State.modSrc_ticks (n : Nat) (f : IcSrc → IcSrc) : (s.modSrc n f).ticks = s.ticks := rfl
@[simp] theorem State.modSrc_devTime (n : Nat) (f : IcSrc → IcSrc) : (s.modSrc n f).devTime = s.devTime := rfl
@[simp] theorem State.modSrc_free (n : Nat) (f : IcSrc → IcSrc) : (s.modSrc n f).free = s.free := rfl
@[simp] theorem State.modSrc_out (n : Nat) (f : IcSrc → IcSrc) : (s.modSrc n f).out = s.out := rfl
@[simp] theorem State.modSrc_cores (n : Nat) (f : IcSrc → IcSrc) : (s.modSrc n f).cores = s.cores := rfl
@[simp] theorem State.modSrc_posts (n : Nat) (f : IcSrc → IcSrc) : (s.modSrc n f).posts = s.posts := rfl
@[simp] theorem State.modSrc_dies (n : Nat) (f : IcSrc → IcSrc) : (s.modSrc n f).dies = s.dies := rfl
@[simp] theorem State.modSrc_spus (n : Nat) (f : IcSrc → IcSrc) : (s.modSrc n f).spus = s.spus := rfl
@[simp] theorem State.modSrc_seps (n : Nat) (f : IcSrc → IcSrc) : (s.modSrc n f).seps = s.seps := rfl
@[simp] theorem State.modSrc_mems (n : Nat) (f : IcSrc → IcSrc) : (s.modSrc n f).mems = s.mems := rfl
@[simp] theorem State.modSrc_flashes (n : Nat) (f : IcSrc → IcSrc) : (s.modSrc n f).flashes = s.flashes := rfl
@[simp] theorem State.modSrc_skms (n : Nat) (f : IcSrc → IcSrc) : (s.modSrc n f).skms = s.skms := rfl
@[simp] theorem State.modSrc_dram (n : Nat) (f : IcSrc → IcSrc) : (s.modSrc n f).dram = s.dram := rfl
@[simp] theorem State.modSrc_host (n : Nat) (f : IcSrc → IcSrc) : (s.modSrc n f).host = s.host := rfl
@[simp] theorem State.modSrc_objs (n : Nat) (f : IcSrc → IcSrc) : (s.modSrc n f).objs = s.objs := rfl
@[simp] theorem State.modSrc_evicts (n : Nat) (f : IcSrc → IcSrc) : (s.modSrc n f).evicts = s.evicts := rfl
@[simp] theorem State.modSrc_alm (n : Nat) (f : IcSrc → IcSrc) : (s.modSrc n f).alm = s.alm := rfl
@[simp] theorem State.modSrc_fab (n : Nat) (f : IcSrc → IcSrc) : (s.modSrc n f).fab = s.fab := rfl
@[simp] theorem State.modSrc_jobs (n : Nat) (f : IcSrc → IcSrc) : (s.modSrc n f).jobs = s.jobs := rfl
@[simp] theorem State.modSrc_images (n : Nat) (f : IcSrc → IcSrc) : (s.modSrc n f).images = s.images := rfl
@[simp] theorem State.modSrc_groups (n : Nat) (f : IcSrc → IcSrc) : (s.modSrc n f).groups = s.groups := rfl
@[simp] theorem State.modSrc_queries (n : Nat) (f : IcSrc → IcSrc) : (s.modSrc n f).queries = s.queries := rfl
@[simp] theorem State.modSrc_queryNext (n : Nat) (f : IcSrc → IcSrc) : (s.modSrc n f).queryNext = s.queryNext := rfl
@[simp] theorem State.modSrc_queues (n : Nat) (f : IcSrc → IcSrc) : (s.modSrc n f).queues = s.queues := rfl
@[simp] theorem State.modSrc_visit (n : Nat) (f : IcSrc → IcSrc) : (s.modSrc n f).visit = s.visit := rfl
@[simp] theorem State.modSrc_bar (n : Nat) (f : IcSrc → IcSrc) : (s.modSrc n f).bar = s.bar := rfl
@[simp] theorem State.modSrc_ic (n : Nat) (f : IcSrc → IcSrc) : (s.modSrc n f).ic = { s.ic with srcs := vmod s.ic.srcs n f } := rfl
@[simp] theorem State.modSrc_log (n : Nat) (f : IcSrc → IcSrc) : (s.modSrc n f).log = s.log := rfl
@[simp] theorem State.modSrc_sec (n : Nat) (f : IcSrc → IcSrc) : (s.modSrc n f).sec = s.sec := rfl
@[simp] theorem State.modSrc_boot (n : Nat) (f : IcSrc → IcSrc) : (s.modSrc n f).boot = s.boot := rfl
@[simp] theorem State.modSrc_power (n : Nat) (f : IcSrc → IcSrc) : (s.modSrc n f).power = s.power := rfl
@[simp] theorem State.modSrc_helm (n : Nat) (f : IcSrc → IcSrc) : (s.modSrc n f).helm = s.helm := rfl
@[simp] theorem State.modSrc_tlm (n : Nat) (f : IcSrc → IcSrc) : (s.modSrc n f).tlm = s.tlm := rfl
@[simp] theorem State.modSrc_fresh (n : Nat) (f : IcSrc → IcSrc) : (s.modSrc n f).fresh = s.fresh := rfl

/-! ### `State.modPilot` -/

@[simp] theorem State.modPilot_pending (p : Nat) (f : IcPilot → IcPilot) : (s.modPilot p f).pending = s.pending := rfl
@[simp] theorem State.modPilot_ticks (p : Nat) (f : IcPilot → IcPilot) : (s.modPilot p f).ticks = s.ticks := rfl
@[simp] theorem State.modPilot_devTime (p : Nat) (f : IcPilot → IcPilot) : (s.modPilot p f).devTime = s.devTime := rfl
@[simp] theorem State.modPilot_free (p : Nat) (f : IcPilot → IcPilot) : (s.modPilot p f).free = s.free := rfl
@[simp] theorem State.modPilot_out (p : Nat) (f : IcPilot → IcPilot) : (s.modPilot p f).out = s.out := rfl
@[simp] theorem State.modPilot_cores (p : Nat) (f : IcPilot → IcPilot) : (s.modPilot p f).cores = s.cores := rfl
@[simp] theorem State.modPilot_posts (p : Nat) (f : IcPilot → IcPilot) : (s.modPilot p f).posts = s.posts := rfl
@[simp] theorem State.modPilot_dies (p : Nat) (f : IcPilot → IcPilot) : (s.modPilot p f).dies = s.dies := rfl
@[simp] theorem State.modPilot_spus (p : Nat) (f : IcPilot → IcPilot) : (s.modPilot p f).spus = s.spus := rfl
@[simp] theorem State.modPilot_seps (p : Nat) (f : IcPilot → IcPilot) : (s.modPilot p f).seps = s.seps := rfl
@[simp] theorem State.modPilot_mems (p : Nat) (f : IcPilot → IcPilot) : (s.modPilot p f).mems = s.mems := rfl
@[simp] theorem State.modPilot_flashes (p : Nat) (f : IcPilot → IcPilot) : (s.modPilot p f).flashes = s.flashes := rfl
@[simp] theorem State.modPilot_skms (p : Nat) (f : IcPilot → IcPilot) : (s.modPilot p f).skms = s.skms := rfl
@[simp] theorem State.modPilot_dram (p : Nat) (f : IcPilot → IcPilot) : (s.modPilot p f).dram = s.dram := rfl
@[simp] theorem State.modPilot_host (p : Nat) (f : IcPilot → IcPilot) : (s.modPilot p f).host = s.host := rfl
@[simp] theorem State.modPilot_objs (p : Nat) (f : IcPilot → IcPilot) : (s.modPilot p f).objs = s.objs := rfl
@[simp] theorem State.modPilot_evicts (p : Nat) (f : IcPilot → IcPilot) : (s.modPilot p f).evicts = s.evicts := rfl
@[simp] theorem State.modPilot_alm (p : Nat) (f : IcPilot → IcPilot) : (s.modPilot p f).alm = s.alm := rfl
@[simp] theorem State.modPilot_fab (p : Nat) (f : IcPilot → IcPilot) : (s.modPilot p f).fab = s.fab := rfl
@[simp] theorem State.modPilot_jobs (p : Nat) (f : IcPilot → IcPilot) : (s.modPilot p f).jobs = s.jobs := rfl
@[simp] theorem State.modPilot_images (p : Nat) (f : IcPilot → IcPilot) : (s.modPilot p f).images = s.images := rfl
@[simp] theorem State.modPilot_groups (p : Nat) (f : IcPilot → IcPilot) : (s.modPilot p f).groups = s.groups := rfl
@[simp] theorem State.modPilot_queries (p : Nat) (f : IcPilot → IcPilot) : (s.modPilot p f).queries = s.queries := rfl
@[simp] theorem State.modPilot_queryNext (p : Nat) (f : IcPilot → IcPilot) : (s.modPilot p f).queryNext = s.queryNext := rfl
@[simp] theorem State.modPilot_queues (p : Nat) (f : IcPilot → IcPilot) : (s.modPilot p f).queues = s.queues := rfl
@[simp] theorem State.modPilot_visit (p : Nat) (f : IcPilot → IcPilot) : (s.modPilot p f).visit = s.visit := rfl
@[simp] theorem State.modPilot_bar (p : Nat) (f : IcPilot → IcPilot) : (s.modPilot p f).bar = s.bar := rfl
@[simp] theorem State.modPilot_ic (p : Nat) (f : IcPilot → IcPilot) : (s.modPilot p f).ic = { s.ic with pilots := vmod s.ic.pilots p f } := rfl
@[simp] theorem State.modPilot_log (p : Nat) (f : IcPilot → IcPilot) : (s.modPilot p f).log = s.log := rfl
@[simp] theorem State.modPilot_sec (p : Nat) (f : IcPilot → IcPilot) : (s.modPilot p f).sec = s.sec := rfl
@[simp] theorem State.modPilot_boot (p : Nat) (f : IcPilot → IcPilot) : (s.modPilot p f).boot = s.boot := rfl
@[simp] theorem State.modPilot_power (p : Nat) (f : IcPilot → IcPilot) : (s.modPilot p f).power = s.power := rfl
@[simp] theorem State.modPilot_helm (p : Nat) (f : IcPilot → IcPilot) : (s.modPilot p f).helm = s.helm := rfl
@[simp] theorem State.modPilot_tlm (p : Nat) (f : IcPilot → IcPilot) : (s.modPilot p f).tlm = s.tlm := rfl
@[simp] theorem State.modPilot_fresh (p : Nat) (f : IcPilot → IcPilot) : (s.modPilot p f).fresh = s.fresh := rfl

/-! ### `State.modAlm` -/

@[simp] theorem State.modAlm_pending (f : Almanac → Almanac) : (s.modAlm f).pending = s.pending := rfl
@[simp] theorem State.modAlm_ticks (f : Almanac → Almanac) : (s.modAlm f).ticks = s.ticks := rfl
@[simp] theorem State.modAlm_devTime (f : Almanac → Almanac) : (s.modAlm f).devTime = s.devTime := rfl
@[simp] theorem State.modAlm_free (f : Almanac → Almanac) : (s.modAlm f).free = s.free := rfl
@[simp] theorem State.modAlm_out (f : Almanac → Almanac) : (s.modAlm f).out = s.out := rfl
@[simp] theorem State.modAlm_cores (f : Almanac → Almanac) : (s.modAlm f).cores = s.cores := rfl
@[simp] theorem State.modAlm_posts (f : Almanac → Almanac) : (s.modAlm f).posts = s.posts := rfl
@[simp] theorem State.modAlm_dies (f : Almanac → Almanac) : (s.modAlm f).dies = s.dies := rfl
@[simp] theorem State.modAlm_spus (f : Almanac → Almanac) : (s.modAlm f).spus = s.spus := rfl
@[simp] theorem State.modAlm_seps (f : Almanac → Almanac) : (s.modAlm f).seps = s.seps := rfl
@[simp] theorem State.modAlm_mems (f : Almanac → Almanac) : (s.modAlm f).mems = s.mems := rfl
@[simp] theorem State.modAlm_flashes (f : Almanac → Almanac) : (s.modAlm f).flashes = s.flashes := rfl
@[simp] theorem State.modAlm_skms (f : Almanac → Almanac) : (s.modAlm f).skms = s.skms := rfl
@[simp] theorem State.modAlm_dram (f : Almanac → Almanac) : (s.modAlm f).dram = s.dram := rfl
@[simp] theorem State.modAlm_host (f : Almanac → Almanac) : (s.modAlm f).host = s.host := rfl
@[simp] theorem State.modAlm_objs (f : Almanac → Almanac) : (s.modAlm f).objs = s.objs := rfl
@[simp] theorem State.modAlm_evicts (f : Almanac → Almanac) : (s.modAlm f).evicts = s.evicts := rfl
@[simp] theorem State.modAlm_alm (f : Almanac → Almanac) : (s.modAlm f).alm = f s.alm := rfl
@[simp] theorem State.modAlm_fab (f : Almanac → Almanac) : (s.modAlm f).fab = s.fab := rfl
@[simp] theorem State.modAlm_jobs (f : Almanac → Almanac) : (s.modAlm f).jobs = s.jobs := rfl
@[simp] theorem State.modAlm_images (f : Almanac → Almanac) : (s.modAlm f).images = s.images := rfl
@[simp] theorem State.modAlm_groups (f : Almanac → Almanac) : (s.modAlm f).groups = s.groups := rfl
@[simp] theorem State.modAlm_queries (f : Almanac → Almanac) : (s.modAlm f).queries = s.queries := rfl
@[simp] theorem State.modAlm_queryNext (f : Almanac → Almanac) : (s.modAlm f).queryNext = s.queryNext := rfl
@[simp] theorem State.modAlm_queues (f : Almanac → Almanac) : (s.modAlm f).queues = s.queues := rfl
@[simp] theorem State.modAlm_visit (f : Almanac → Almanac) : (s.modAlm f).visit = s.visit := rfl
@[simp] theorem State.modAlm_bar (f : Almanac → Almanac) : (s.modAlm f).bar = s.bar := rfl
@[simp] theorem State.modAlm_ic (f : Almanac → Almanac) : (s.modAlm f).ic = s.ic := rfl
@[simp] theorem State.modAlm_log (f : Almanac → Almanac) : (s.modAlm f).log = s.log := rfl
@[simp] theorem State.modAlm_sec (f : Almanac → Almanac) : (s.modAlm f).sec = s.sec := rfl
@[simp] theorem State.modAlm_boot (f : Almanac → Almanac) : (s.modAlm f).boot = s.boot := rfl
@[simp] theorem State.modAlm_power (f : Almanac → Almanac) : (s.modAlm f).power = s.power := rfl
@[simp] theorem State.modAlm_helm (f : Almanac → Almanac) : (s.modAlm f).helm = s.helm := rfl
@[simp] theorem State.modAlm_tlm (f : Almanac → Almanac) : (s.modAlm f).tlm = s.tlm := rfl
@[simp] theorem State.modAlm_fresh (f : Almanac → Almanac) : (s.modAlm f).fresh = s.fresh := rfl

/-! ### `State.modSlot` -/

@[simp] theorem State.modSlot_pending (j : Nat) (f : AlmSlot → AlmSlot) : (s.modSlot j f).pending = s.pending := rfl
@[simp] theorem State.modSlot_ticks (j : Nat) (f : AlmSlot → AlmSlot) : (s.modSlot j f).ticks = s.ticks := rfl
@[simp] theorem State.modSlot_devTime (j : Nat) (f : AlmSlot → AlmSlot) : (s.modSlot j f).devTime = s.devTime := rfl
@[simp] theorem State.modSlot_free (j : Nat) (f : AlmSlot → AlmSlot) : (s.modSlot j f).free = s.free := rfl
@[simp] theorem State.modSlot_out (j : Nat) (f : AlmSlot → AlmSlot) : (s.modSlot j f).out = s.out := rfl
@[simp] theorem State.modSlot_cores (j : Nat) (f : AlmSlot → AlmSlot) : (s.modSlot j f).cores = s.cores := rfl
@[simp] theorem State.modSlot_posts (j : Nat) (f : AlmSlot → AlmSlot) : (s.modSlot j f).posts = s.posts := rfl
@[simp] theorem State.modSlot_dies (j : Nat) (f : AlmSlot → AlmSlot) : (s.modSlot j f).dies = s.dies := rfl
@[simp] theorem State.modSlot_spus (j : Nat) (f : AlmSlot → AlmSlot) : (s.modSlot j f).spus = s.spus := rfl
@[simp] theorem State.modSlot_seps (j : Nat) (f : AlmSlot → AlmSlot) : (s.modSlot j f).seps = s.seps := rfl
@[simp] theorem State.modSlot_mems (j : Nat) (f : AlmSlot → AlmSlot) : (s.modSlot j f).mems = s.mems := rfl
@[simp] theorem State.modSlot_flashes (j : Nat) (f : AlmSlot → AlmSlot) : (s.modSlot j f).flashes = s.flashes := rfl
@[simp] theorem State.modSlot_skms (j : Nat) (f : AlmSlot → AlmSlot) : (s.modSlot j f).skms = s.skms := rfl
@[simp] theorem State.modSlot_dram (j : Nat) (f : AlmSlot → AlmSlot) : (s.modSlot j f).dram = s.dram := rfl
@[simp] theorem State.modSlot_host (j : Nat) (f : AlmSlot → AlmSlot) : (s.modSlot j f).host = s.host := rfl
@[simp] theorem State.modSlot_objs (j : Nat) (f : AlmSlot → AlmSlot) : (s.modSlot j f).objs = s.objs := rfl
@[simp] theorem State.modSlot_evicts (j : Nat) (f : AlmSlot → AlmSlot) : (s.modSlot j f).evicts = s.evicts := rfl
@[simp] theorem State.modSlot_alm (j : Nat) (f : AlmSlot → AlmSlot) : (s.modSlot j f).alm = { s.alm with slots := vmod s.alm.slots j f } := rfl
@[simp] theorem State.modSlot_fab (j : Nat) (f : AlmSlot → AlmSlot) : (s.modSlot j f).fab = s.fab := rfl
@[simp] theorem State.modSlot_jobs (j : Nat) (f : AlmSlot → AlmSlot) : (s.modSlot j f).jobs = s.jobs := rfl
@[simp] theorem State.modSlot_images (j : Nat) (f : AlmSlot → AlmSlot) : (s.modSlot j f).images = s.images := rfl
@[simp] theorem State.modSlot_groups (j : Nat) (f : AlmSlot → AlmSlot) : (s.modSlot j f).groups = s.groups := rfl
@[simp] theorem State.modSlot_queries (j : Nat) (f : AlmSlot → AlmSlot) : (s.modSlot j f).queries = s.queries := rfl
@[simp] theorem State.modSlot_queryNext (j : Nat) (f : AlmSlot → AlmSlot) : (s.modSlot j f).queryNext = s.queryNext := rfl
@[simp] theorem State.modSlot_queues (j : Nat) (f : AlmSlot → AlmSlot) : (s.modSlot j f).queues = s.queues := rfl
@[simp] theorem State.modSlot_visit (j : Nat) (f : AlmSlot → AlmSlot) : (s.modSlot j f).visit = s.visit := rfl
@[simp] theorem State.modSlot_bar (j : Nat) (f : AlmSlot → AlmSlot) : (s.modSlot j f).bar = s.bar := rfl
@[simp] theorem State.modSlot_ic (j : Nat) (f : AlmSlot → AlmSlot) : (s.modSlot j f).ic = s.ic := rfl
@[simp] theorem State.modSlot_log (j : Nat) (f : AlmSlot → AlmSlot) : (s.modSlot j f).log = s.log := rfl
@[simp] theorem State.modSlot_sec (j : Nat) (f : AlmSlot → AlmSlot) : (s.modSlot j f).sec = s.sec := rfl
@[simp] theorem State.modSlot_boot (j : Nat) (f : AlmSlot → AlmSlot) : (s.modSlot j f).boot = s.boot := rfl
@[simp] theorem State.modSlot_power (j : Nat) (f : AlmSlot → AlmSlot) : (s.modSlot j f).power = s.power := rfl
@[simp] theorem State.modSlot_helm (j : Nat) (f : AlmSlot → AlmSlot) : (s.modSlot j f).helm = s.helm := rfl
@[simp] theorem State.modSlot_tlm (j : Nat) (f : AlmSlot → AlmSlot) : (s.modSlot j f).tlm = s.tlm := rfl
@[simp] theorem State.modSlot_fresh (j : Nat) (f : AlmSlot → AlmSlot) : (s.modSlot j f).fresh = s.fresh := rfl

/-! ### `State.modBar` -/

@[simp] theorem State.modBar_pending (f : Bar → Bar) : (s.modBar f).pending = s.pending := rfl
@[simp] theorem State.modBar_ticks (f : Bar → Bar) : (s.modBar f).ticks = s.ticks := rfl
@[simp] theorem State.modBar_devTime (f : Bar → Bar) : (s.modBar f).devTime = s.devTime := rfl
@[simp] theorem State.modBar_free (f : Bar → Bar) : (s.modBar f).free = s.free := rfl
@[simp] theorem State.modBar_out (f : Bar → Bar) : (s.modBar f).out = s.out := rfl
@[simp] theorem State.modBar_cores (f : Bar → Bar) : (s.modBar f).cores = s.cores := rfl
@[simp] theorem State.modBar_posts (f : Bar → Bar) : (s.modBar f).posts = s.posts := rfl
@[simp] theorem State.modBar_dies (f : Bar → Bar) : (s.modBar f).dies = s.dies := rfl
@[simp] theorem State.modBar_spus (f : Bar → Bar) : (s.modBar f).spus = s.spus := rfl
@[simp] theorem State.modBar_seps (f : Bar → Bar) : (s.modBar f).seps = s.seps := rfl
@[simp] theorem State.modBar_mems (f : Bar → Bar) : (s.modBar f).mems = s.mems := rfl
@[simp] theorem State.modBar_flashes (f : Bar → Bar) : (s.modBar f).flashes = s.flashes := rfl
@[simp] theorem State.modBar_skms (f : Bar → Bar) : (s.modBar f).skms = s.skms := rfl
@[simp] theorem State.modBar_dram (f : Bar → Bar) : (s.modBar f).dram = s.dram := rfl
@[simp] theorem State.modBar_host (f : Bar → Bar) : (s.modBar f).host = s.host := rfl
@[simp] theorem State.modBar_objs (f : Bar → Bar) : (s.modBar f).objs = s.objs := rfl
@[simp] theorem State.modBar_evicts (f : Bar → Bar) : (s.modBar f).evicts = s.evicts := rfl
@[simp] theorem State.modBar_alm (f : Bar → Bar) : (s.modBar f).alm = s.alm := rfl
@[simp] theorem State.modBar_fab (f : Bar → Bar) : (s.modBar f).fab = s.fab := rfl
@[simp] theorem State.modBar_jobs (f : Bar → Bar) : (s.modBar f).jobs = s.jobs := rfl
@[simp] theorem State.modBar_images (f : Bar → Bar) : (s.modBar f).images = s.images := rfl
@[simp] theorem State.modBar_groups (f : Bar → Bar) : (s.modBar f).groups = s.groups := rfl
@[simp] theorem State.modBar_queries (f : Bar → Bar) : (s.modBar f).queries = s.queries := rfl
@[simp] theorem State.modBar_queryNext (f : Bar → Bar) : (s.modBar f).queryNext = s.queryNext := rfl
@[simp] theorem State.modBar_queues (f : Bar → Bar) : (s.modBar f).queues = s.queues := rfl
@[simp] theorem State.modBar_visit (f : Bar → Bar) : (s.modBar f).visit = s.visit := rfl
@[simp] theorem State.modBar_bar (f : Bar → Bar) : (s.modBar f).bar = f s.bar := rfl
@[simp] theorem State.modBar_ic (f : Bar → Bar) : (s.modBar f).ic = s.ic := rfl
@[simp] theorem State.modBar_log (f : Bar → Bar) : (s.modBar f).log = s.log := rfl
@[simp] theorem State.modBar_sec (f : Bar → Bar) : (s.modBar f).sec = s.sec := rfl
@[simp] theorem State.modBar_boot (f : Bar → Bar) : (s.modBar f).boot = s.boot := rfl
@[simp] theorem State.modBar_power (f : Bar → Bar) : (s.modBar f).power = s.power := rfl
@[simp] theorem State.modBar_helm (f : Bar → Bar) : (s.modBar f).helm = s.helm := rfl
@[simp] theorem State.modBar_tlm (f : Bar → Bar) : (s.modBar f).tlm = s.tlm := rfl
@[simp] theorem State.modBar_fresh (f : Bar → Bar) : (s.modBar f).fresh = s.fresh := rfl

/-! ### `State.modSec` -/

@[simp] theorem State.modSec_pending (f : Security → Security) : (s.modSec f).pending = s.pending := rfl
@[simp] theorem State.modSec_ticks (f : Security → Security) : (s.modSec f).ticks = s.ticks := rfl
@[simp] theorem State.modSec_devTime (f : Security → Security) : (s.modSec f).devTime = s.devTime := rfl
@[simp] theorem State.modSec_free (f : Security → Security) : (s.modSec f).free = s.free := rfl
@[simp] theorem State.modSec_out (f : Security → Security) : (s.modSec f).out = s.out := rfl
@[simp] theorem State.modSec_cores (f : Security → Security) : (s.modSec f).cores = s.cores := rfl
@[simp] theorem State.modSec_posts (f : Security → Security) : (s.modSec f).posts = s.posts := rfl
@[simp] theorem State.modSec_dies (f : Security → Security) : (s.modSec f).dies = s.dies := rfl
@[simp] theorem State.modSec_spus (f : Security → Security) : (s.modSec f).spus = s.spus := rfl
@[simp] theorem State.modSec_seps (f : Security → Security) : (s.modSec f).seps = s.seps := rfl
@[simp] theorem State.modSec_mems (f : Security → Security) : (s.modSec f).mems = s.mems := rfl
@[simp] theorem State.modSec_flashes (f : Security → Security) : (s.modSec f).flashes = s.flashes := rfl
@[simp] theorem State.modSec_skms (f : Security → Security) : (s.modSec f).skms = s.skms := rfl
@[simp] theorem State.modSec_dram (f : Security → Security) : (s.modSec f).dram = s.dram := rfl
@[simp] theorem State.modSec_host (f : Security → Security) : (s.modSec f).host = s.host := rfl
@[simp] theorem State.modSec_objs (f : Security → Security) : (s.modSec f).objs = s.objs := rfl
@[simp] theorem State.modSec_evicts (f : Security → Security) : (s.modSec f).evicts = s.evicts := rfl
@[simp] theorem State.modSec_alm (f : Security → Security) : (s.modSec f).alm = s.alm := rfl
@[simp] theorem State.modSec_fab (f : Security → Security) : (s.modSec f).fab = s.fab := rfl
@[simp] theorem State.modSec_jobs (f : Security → Security) : (s.modSec f).jobs = s.jobs := rfl
@[simp] theorem State.modSec_images (f : Security → Security) : (s.modSec f).images = s.images := rfl
@[simp] theorem State.modSec_groups (f : Security → Security) : (s.modSec f).groups = s.groups := rfl
@[simp] theorem State.modSec_queries (f : Security → Security) : (s.modSec f).queries = s.queries := rfl
@[simp] theorem State.modSec_queryNext (f : Security → Security) : (s.modSec f).queryNext = s.queryNext := rfl
@[simp] theorem State.modSec_queues (f : Security → Security) : (s.modSec f).queues = s.queues := rfl
@[simp] theorem State.modSec_visit (f : Security → Security) : (s.modSec f).visit = s.visit := rfl
@[simp] theorem State.modSec_bar (f : Security → Security) : (s.modSec f).bar = s.bar := rfl
@[simp] theorem State.modSec_ic (f : Security → Security) : (s.modSec f).ic = s.ic := rfl
@[simp] theorem State.modSec_log (f : Security → Security) : (s.modSec f).log = s.log := rfl
@[simp] theorem State.modSec_sec (f : Security → Security) : (s.modSec f).sec = f s.sec := rfl
@[simp] theorem State.modSec_boot (f : Security → Security) : (s.modSec f).boot = s.boot := rfl
@[simp] theorem State.modSec_power (f : Security → Security) : (s.modSec f).power = s.power := rfl
@[simp] theorem State.modSec_helm (f : Security → Security) : (s.modSec f).helm = s.helm := rfl
@[simp] theorem State.modSec_tlm (f : Security → Security) : (s.modSec f).tlm = s.tlm := rfl
@[simp] theorem State.modSec_fresh (f : Security → Security) : (s.modSec f).fresh = s.fresh := rfl

/-! ### `State.modBoot` -/

@[simp] theorem State.modBoot_pending (f : Startup → Startup) : (s.modBoot f).pending = s.pending := rfl
@[simp] theorem State.modBoot_ticks (f : Startup → Startup) : (s.modBoot f).ticks = s.ticks := rfl
@[simp] theorem State.modBoot_devTime (f : Startup → Startup) : (s.modBoot f).devTime = s.devTime := rfl
@[simp] theorem State.modBoot_free (f : Startup → Startup) : (s.modBoot f).free = s.free := rfl
@[simp] theorem State.modBoot_out (f : Startup → Startup) : (s.modBoot f).out = s.out := rfl
@[simp] theorem State.modBoot_cores (f : Startup → Startup) : (s.modBoot f).cores = s.cores := rfl
@[simp] theorem State.modBoot_posts (f : Startup → Startup) : (s.modBoot f).posts = s.posts := rfl
@[simp] theorem State.modBoot_dies (f : Startup → Startup) : (s.modBoot f).dies = s.dies := rfl
@[simp] theorem State.modBoot_spus (f : Startup → Startup) : (s.modBoot f).spus = s.spus := rfl
@[simp] theorem State.modBoot_seps (f : Startup → Startup) : (s.modBoot f).seps = s.seps := rfl
@[simp] theorem State.modBoot_mems (f : Startup → Startup) : (s.modBoot f).mems = s.mems := rfl
@[simp] theorem State.modBoot_flashes (f : Startup → Startup) : (s.modBoot f).flashes = s.flashes := rfl
@[simp] theorem State.modBoot_skms (f : Startup → Startup) : (s.modBoot f).skms = s.skms := rfl
@[simp] theorem State.modBoot_dram (f : Startup → Startup) : (s.modBoot f).dram = s.dram := rfl
@[simp] theorem State.modBoot_host (f : Startup → Startup) : (s.modBoot f).host = s.host := rfl
@[simp] theorem State.modBoot_objs (f : Startup → Startup) : (s.modBoot f).objs = s.objs := rfl
@[simp] theorem State.modBoot_evicts (f : Startup → Startup) : (s.modBoot f).evicts = s.evicts := rfl
@[simp] theorem State.modBoot_alm (f : Startup → Startup) : (s.modBoot f).alm = s.alm := rfl
@[simp] theorem State.modBoot_fab (f : Startup → Startup) : (s.modBoot f).fab = s.fab := rfl
@[simp] theorem State.modBoot_jobs (f : Startup → Startup) : (s.modBoot f).jobs = s.jobs := rfl
@[simp] theorem State.modBoot_images (f : Startup → Startup) : (s.modBoot f).images = s.images := rfl
@[simp] theorem State.modBoot_groups (f : Startup → Startup) : (s.modBoot f).groups = s.groups := rfl
@[simp] theorem State.modBoot_queries (f : Startup → Startup) : (s.modBoot f).queries = s.queries := rfl
@[simp] theorem State.modBoot_queryNext (f : Startup → Startup) : (s.modBoot f).queryNext = s.queryNext := rfl
@[simp] theorem State.modBoot_queues (f : Startup → Startup) : (s.modBoot f).queues = s.queues := rfl
@[simp] theorem State.modBoot_visit (f : Startup → Startup) : (s.modBoot f).visit = s.visit := rfl
@[simp] theorem State.modBoot_bar (f : Startup → Startup) : (s.modBoot f).bar = s.bar := rfl
@[simp] theorem State.modBoot_ic (f : Startup → Startup) : (s.modBoot f).ic = s.ic := rfl
@[simp] theorem State.modBoot_log (f : Startup → Startup) : (s.modBoot f).log = s.log := rfl
@[simp] theorem State.modBoot_sec (f : Startup → Startup) : (s.modBoot f).sec = s.sec := rfl
@[simp] theorem State.modBoot_boot (f : Startup → Startup) : (s.modBoot f).boot = f s.boot := rfl
@[simp] theorem State.modBoot_power (f : Startup → Startup) : (s.modBoot f).power = s.power := rfl
@[simp] theorem State.modBoot_helm (f : Startup → Startup) : (s.modBoot f).helm = s.helm := rfl
@[simp] theorem State.modBoot_tlm (f : Startup → Startup) : (s.modBoot f).tlm = s.tlm := rfl
@[simp] theorem State.modBoot_fresh (f : Startup → Startup) : (s.modBoot f).fresh = s.fresh := rfl

/-! ### `State.modPower` -/

@[simp] theorem State.modPower_pending (f : Power → Power) : (s.modPower f).pending = s.pending := rfl
@[simp] theorem State.modPower_ticks (f : Power → Power) : (s.modPower f).ticks = s.ticks := rfl
@[simp] theorem State.modPower_devTime (f : Power → Power) : (s.modPower f).devTime = s.devTime := rfl
@[simp] theorem State.modPower_free (f : Power → Power) : (s.modPower f).free = s.free := rfl
@[simp] theorem State.modPower_out (f : Power → Power) : (s.modPower f).out = s.out := rfl
@[simp] theorem State.modPower_cores (f : Power → Power) : (s.modPower f).cores = s.cores := rfl
@[simp] theorem State.modPower_posts (f : Power → Power) : (s.modPower f).posts = s.posts := rfl
@[simp] theorem State.modPower_dies (f : Power → Power) : (s.modPower f).dies = s.dies := rfl
@[simp] theorem State.modPower_spus (f : Power → Power) : (s.modPower f).spus = s.spus := rfl
@[simp] theorem State.modPower_seps (f : Power → Power) : (s.modPower f).seps = s.seps := rfl
@[simp] theorem State.modPower_mems (f : Power → Power) : (s.modPower f).mems = s.mems := rfl
@[simp] theorem State.modPower_flashes (f : Power → Power) : (s.modPower f).flashes = s.flashes := rfl
@[simp] theorem State.modPower_skms (f : Power → Power) : (s.modPower f).skms = s.skms := rfl
@[simp] theorem State.modPower_dram (f : Power → Power) : (s.modPower f).dram = s.dram := rfl
@[simp] theorem State.modPower_host (f : Power → Power) : (s.modPower f).host = s.host := rfl
@[simp] theorem State.modPower_objs (f : Power → Power) : (s.modPower f).objs = s.objs := rfl
@[simp] theorem State.modPower_evicts (f : Power → Power) : (s.modPower f).evicts = s.evicts := rfl
@[simp] theorem State.modPower_alm (f : Power → Power) : (s.modPower f).alm = s.alm := rfl
@[simp] theorem State.modPower_fab (f : Power → Power) : (s.modPower f).fab = s.fab := rfl
@[simp] theorem State.modPower_jobs (f : Power → Power) : (s.modPower f).jobs = s.jobs := rfl
@[simp] theorem State.modPower_images (f : Power → Power) : (s.modPower f).images = s.images := rfl
@[simp] theorem State.modPower_groups (f : Power → Power) : (s.modPower f).groups = s.groups := rfl
@[simp] theorem State.modPower_queries (f : Power → Power) : (s.modPower f).queries = s.queries := rfl
@[simp] theorem State.modPower_queryNext (f : Power → Power) : (s.modPower f).queryNext = s.queryNext := rfl
@[simp] theorem State.modPower_queues (f : Power → Power) : (s.modPower f).queues = s.queues := rfl
@[simp] theorem State.modPower_visit (f : Power → Power) : (s.modPower f).visit = s.visit := rfl
@[simp] theorem State.modPower_bar (f : Power → Power) : (s.modPower f).bar = s.bar := rfl
@[simp] theorem State.modPower_ic (f : Power → Power) : (s.modPower f).ic = s.ic := rfl
@[simp] theorem State.modPower_log (f : Power → Power) : (s.modPower f).log = s.log := rfl
@[simp] theorem State.modPower_sec (f : Power → Power) : (s.modPower f).sec = s.sec := rfl
@[simp] theorem State.modPower_boot (f : Power → Power) : (s.modPower f).boot = s.boot := rfl
@[simp] theorem State.modPower_power (f : Power → Power) : (s.modPower f).power = f s.power := rfl
@[simp] theorem State.modPower_helm (f : Power → Power) : (s.modPower f).helm = s.helm := rfl
@[simp] theorem State.modPower_tlm (f : Power → Power) : (s.modPower f).tlm = s.tlm := rfl
@[simp] theorem State.modPower_fresh (f : Power → Power) : (s.modPower f).fresh = s.fresh := rfl

/-! ### `State.modHelm` -/

@[simp] theorem State.modHelm_pending (f : Helm → Helm) : (s.modHelm f).pending = s.pending := rfl
@[simp] theorem State.modHelm_ticks (f : Helm → Helm) : (s.modHelm f).ticks = s.ticks := rfl
@[simp] theorem State.modHelm_devTime (f : Helm → Helm) : (s.modHelm f).devTime = s.devTime := rfl
@[simp] theorem State.modHelm_free (f : Helm → Helm) : (s.modHelm f).free = s.free := rfl
@[simp] theorem State.modHelm_out (f : Helm → Helm) : (s.modHelm f).out = s.out := rfl
@[simp] theorem State.modHelm_cores (f : Helm → Helm) : (s.modHelm f).cores = s.cores := rfl
@[simp] theorem State.modHelm_posts (f : Helm → Helm) : (s.modHelm f).posts = s.posts := rfl
@[simp] theorem State.modHelm_dies (f : Helm → Helm) : (s.modHelm f).dies = s.dies := rfl
@[simp] theorem State.modHelm_spus (f : Helm → Helm) : (s.modHelm f).spus = s.spus := rfl
@[simp] theorem State.modHelm_seps (f : Helm → Helm) : (s.modHelm f).seps = s.seps := rfl
@[simp] theorem State.modHelm_mems (f : Helm → Helm) : (s.modHelm f).mems = s.mems := rfl
@[simp] theorem State.modHelm_flashes (f : Helm → Helm) : (s.modHelm f).flashes = s.flashes := rfl
@[simp] theorem State.modHelm_skms (f : Helm → Helm) : (s.modHelm f).skms = s.skms := rfl
@[simp] theorem State.modHelm_dram (f : Helm → Helm) : (s.modHelm f).dram = s.dram := rfl
@[simp] theorem State.modHelm_host (f : Helm → Helm) : (s.modHelm f).host = s.host := rfl
@[simp] theorem State.modHelm_objs (f : Helm → Helm) : (s.modHelm f).objs = s.objs := rfl
@[simp] theorem State.modHelm_evicts (f : Helm → Helm) : (s.modHelm f).evicts = s.evicts := rfl
@[simp] theorem State.modHelm_alm (f : Helm → Helm) : (s.modHelm f).alm = s.alm := rfl
@[simp] theorem State.modHelm_fab (f : Helm → Helm) : (s.modHelm f).fab = s.fab := rfl
@[simp] theorem State.modHelm_jobs (f : Helm → Helm) : (s.modHelm f).jobs = s.jobs := rfl
@[simp] theorem State.modHelm_images (f : Helm → Helm) : (s.modHelm f).images = s.images := rfl
@[simp] theorem State.modHelm_groups (f : Helm → Helm) : (s.modHelm f).groups = s.groups := rfl
@[simp] theorem State.modHelm_queries (f : Helm → Helm) : (s.modHelm f).queries = s.queries := rfl
@[simp] theorem State.modHelm_queryNext (f : Helm → Helm) : (s.modHelm f).queryNext = s.queryNext := rfl
@[simp] theorem State.modHelm_queues (f : Helm → Helm) : (s.modHelm f).queues = s.queues := rfl
@[simp] theorem State.modHelm_visit (f : Helm → Helm) : (s.modHelm f).visit = s.visit := rfl
@[simp] theorem State.modHelm_bar (f : Helm → Helm) : (s.modHelm f).bar = s.bar := rfl
@[simp] theorem State.modHelm_ic (f : Helm → Helm) : (s.modHelm f).ic = s.ic := rfl
@[simp] theorem State.modHelm_log (f : Helm → Helm) : (s.modHelm f).log = s.log := rfl
@[simp] theorem State.modHelm_sec (f : Helm → Helm) : (s.modHelm f).sec = s.sec := rfl
@[simp] theorem State.modHelm_boot (f : Helm → Helm) : (s.modHelm f).boot = s.boot := rfl
@[simp] theorem State.modHelm_power (f : Helm → Helm) : (s.modHelm f).power = s.power := rfl
@[simp] theorem State.modHelm_helm (f : Helm → Helm) : (s.modHelm f).helm = f s.helm := rfl
@[simp] theorem State.modHelm_tlm (f : Helm → Helm) : (s.modHelm f).tlm = s.tlm := rfl
@[simp] theorem State.modHelm_fresh (f : Helm → Helm) : (s.modHelm f).fresh = s.fresh := rfl

/-! ### `State.occur` -/

@[simp] theorem State.occur_pending (key bit : Nat) : (s.occur key bit).pending = s.pending := by unfold State.occur; split <;> rfl
@[simp] theorem State.occur_ticks (key bit : Nat) : (s.occur key bit).ticks = s.ticks := by unfold State.occur; split <;> rfl
@[simp] theorem State.occur_devTime (key bit : Nat) : (s.occur key bit).devTime = s.devTime := by unfold State.occur; split <;> rfl
@[simp] theorem State.occur_free (key bit : Nat) : (s.occur key bit).free = s.free := by unfold State.occur; split <;> rfl
@[simp] theorem State.occur_out (key bit : Nat) : (s.occur key bit).out = s.out := by unfold State.occur; split <;> rfl
@[simp] theorem State.occur_cores (key bit : Nat) : (s.occur key bit).cores = s.cores := by unfold State.occur; split <;> rfl
@[simp] theorem State.occur_posts (key bit : Nat) : (s.occur key bit).posts = s.posts := by unfold State.occur; split <;> rfl
@[simp] theorem State.occur_dies (key bit : Nat) : (s.occur key bit).dies = s.dies := by unfold State.occur; split <;> rfl
@[simp] theorem State.occur_spus (key bit : Nat) : (s.occur key bit).spus = s.spus := by unfold State.occur; split <;> rfl
@[simp] theorem State.occur_seps (key bit : Nat) : (s.occur key bit).seps = s.seps := by unfold State.occur; split <;> rfl
@[simp] theorem State.occur_mems (key bit : Nat) : (s.occur key bit).mems = s.mems := by unfold State.occur; split <;> rfl
@[simp] theorem State.occur_flashes (key bit : Nat) : (s.occur key bit).flashes = s.flashes := by unfold State.occur; split <;> rfl
@[simp] theorem State.occur_skms (key bit : Nat) : (s.occur key bit).skms = s.skms := by unfold State.occur; split <;> rfl
@[simp] theorem State.occur_dram (key bit : Nat) : (s.occur key bit).dram = s.dram := by unfold State.occur; split <;> rfl
@[simp] theorem State.occur_host (key bit : Nat) : (s.occur key bit).host = s.host := by unfold State.occur; split <;> rfl
@[simp] theorem State.occur_objs (key bit : Nat) : (s.occur key bit).objs = s.objs := by unfold State.occur; split <;> rfl
@[simp] theorem State.occur_evicts (key bit : Nat) : (s.occur key bit).evicts = s.evicts := by unfold State.occur; split <;> rfl
@[simp] theorem State.occur_alm (key bit : Nat) : (s.occur key bit).alm = s.alm := by unfold State.occur; split <;> rfl
@[simp] theorem State.occur_fab (key bit : Nat) : (s.occur key bit).fab = s.fab := by unfold State.occur; split <;> rfl
@[simp] theorem State.occur_jobs (key bit : Nat) : (s.occur key bit).jobs = s.jobs := by unfold State.occur; split <;> rfl
@[simp] theorem State.occur_images (key bit : Nat) : (s.occur key bit).images = s.images := by unfold State.occur; split <;> rfl
@[simp] theorem State.occur_groups (key bit : Nat) : (s.occur key bit).groups = s.groups := by unfold State.occur; split <;> rfl
@[simp] theorem State.occur_queries (key bit : Nat) : (s.occur key bit).queries = s.queries := by unfold State.occur; split <;> rfl
@[simp] theorem State.occur_queryNext (key bit : Nat) : (s.occur key bit).queryNext = s.queryNext := by unfold State.occur; split <;> rfl
@[simp] theorem State.occur_queues (key bit : Nat) : (s.occur key bit).queues = s.queues := by unfold State.occur; split <;> rfl
@[simp] theorem State.occur_visit (key bit : Nat) : (s.occur key bit).visit = s.visit := by unfold State.occur; split <;> rfl
@[simp] theorem State.occur_bar (key bit : Nat) : (s.occur key bit).bar = s.bar := by unfold State.occur; split <;> rfl
@[simp] theorem State.occur_ic (key bit : Nat) : (s.occur key bit).ic = s.ic := by unfold State.occur; split <;> rfl
@[simp] theorem State.occur_log (key bit : Nat) : (s.occur key bit).log = s.log := by unfold State.occur; split <;> rfl
@[simp] theorem State.occur_sec (key bit : Nat) : (s.occur key bit).sec = s.sec := by unfold State.occur; split <;> rfl
@[simp] theorem State.occur_boot (key bit : Nat) : (s.occur key bit).boot = s.boot := by unfold State.occur; split <;> rfl
@[simp] theorem State.occur_power (key bit : Nat) : (s.occur key bit).power = s.power := by unfold State.occur; split <;> rfl
@[simp] theorem State.occur_helm (key bit : Nat) : (s.occur key bit).helm = s.helm := by unfold State.occur; split <;> rfl
@[simp] theorem State.occur_tlm (key bit : Nat) : (s.occur key bit).tlm = s.tlm := by unfold State.occur; split <;> rfl
@[simp] theorem State.occur_fresh (key bit : Nat) : (s.occur key bit).fresh = if s.fresh.contains (key, bit) then s.fresh else (key, bit) :: s.fresh := by unfold State.occur; split <;> rfl

/-! ### `State.emit` -/

@[simp] theorem State.emit_pending (o : Out) : (s.emit o).pending = s.pending := rfl
@[simp] theorem State.emit_ticks (o : Out) : (s.emit o).ticks = s.ticks := rfl
@[simp] theorem State.emit_devTime (o : Out) : (s.emit o).devTime = s.devTime := rfl
@[simp] theorem State.emit_free (o : Out) : (s.emit o).free = s.free := rfl
@[simp] theorem State.emit_out (o : Out) : (s.emit o).out = s.out ++ [o] := rfl
@[simp] theorem State.emit_cores (o : Out) : (s.emit o).cores = s.cores := rfl
@[simp] theorem State.emit_posts (o : Out) : (s.emit o).posts = s.posts := rfl
@[simp] theorem State.emit_dies (o : Out) : (s.emit o).dies = s.dies := rfl
@[simp] theorem State.emit_spus (o : Out) : (s.emit o).spus = s.spus := rfl
@[simp] theorem State.emit_seps (o : Out) : (s.emit o).seps = s.seps := rfl
@[simp] theorem State.emit_mems (o : Out) : (s.emit o).mems = s.mems := rfl
@[simp] theorem State.emit_flashes (o : Out) : (s.emit o).flashes = s.flashes := rfl
@[simp] theorem State.emit_skms (o : Out) : (s.emit o).skms = s.skms := rfl
@[simp] theorem State.emit_dram (o : Out) : (s.emit o).dram = s.dram := rfl
@[simp] theorem State.emit_host (o : Out) : (s.emit o).host = s.host := rfl
@[simp] theorem State.emit_objs (o : Out) : (s.emit o).objs = s.objs := rfl
@[simp] theorem State.emit_evicts (o : Out) : (s.emit o).evicts = s.evicts := rfl
@[simp] theorem State.emit_alm (o : Out) : (s.emit o).alm = s.alm := rfl
@[simp] theorem State.emit_fab (o : Out) : (s.emit o).fab = s.fab := rfl
@[simp] theorem State.emit_jobs (o : Out) : (s.emit o).jobs = s.jobs := rfl
@[simp] theorem State.emit_images (o : Out) : (s.emit o).images = s.images := rfl
@[simp] theorem State.emit_groups (o : Out) : (s.emit o).groups = s.groups := rfl
@[simp] theorem State.emit_queries (o : Out) : (s.emit o).queries = s.queries := rfl
@[simp] theorem State.emit_queryNext (o : Out) : (s.emit o).queryNext = s.queryNext := rfl
@[simp] theorem State.emit_queues (o : Out) : (s.emit o).queues = s.queues := rfl
@[simp] theorem State.emit_visit (o : Out) : (s.emit o).visit = s.visit := rfl
@[simp] theorem State.emit_bar (o : Out) : (s.emit o).bar = s.bar := rfl
@[simp] theorem State.emit_ic (o : Out) : (s.emit o).ic = s.ic := rfl
@[simp] theorem State.emit_log (o : Out) : (s.emit o).log = s.log := rfl
@[simp] theorem State.emit_sec (o : Out) : (s.emit o).sec = s.sec := rfl
@[simp] theorem State.emit_boot (o : Out) : (s.emit o).boot = s.boot := rfl
@[simp] theorem State.emit_power (o : Out) : (s.emit o).power = s.power := rfl
@[simp] theorem State.emit_helm (o : Out) : (s.emit o).helm = s.helm := rfl
@[simp] theorem State.emit_tlm (o : Out) : (s.emit o).tlm = s.tlm := rfl
@[simp] theorem State.emit_fresh (o : Out) : (s.emit o).fresh = s.fresh := rfl

/-! ### `State.modJob` -/

@[simp] theorem State.modJob_pending (id : BitVec 16) (f : Job → Job) : (s.modJob id f).pending = s.pending := rfl
@[simp] theorem State.modJob_ticks (id : BitVec 16) (f : Job → Job) : (s.modJob id f).ticks = s.ticks := rfl
@[simp] theorem State.modJob_devTime (id : BitVec 16) (f : Job → Job) : (s.modJob id f).devTime = s.devTime := rfl
@[simp] theorem State.modJob_free (id : BitVec 16) (f : Job → Job) : (s.modJob id f).free = s.free := rfl
@[simp] theorem State.modJob_out (id : BitVec 16) (f : Job → Job) : (s.modJob id f).out = s.out := rfl
@[simp] theorem State.modJob_cores (id : BitVec 16) (f : Job → Job) : (s.modJob id f).cores = s.cores := rfl
@[simp] theorem State.modJob_posts (id : BitVec 16) (f : Job → Job) : (s.modJob id f).posts = s.posts := rfl
@[simp] theorem State.modJob_dies (id : BitVec 16) (f : Job → Job) : (s.modJob id f).dies = s.dies := rfl
@[simp] theorem State.modJob_spus (id : BitVec 16) (f : Job → Job) : (s.modJob id f).spus = s.spus := rfl
@[simp] theorem State.modJob_seps (id : BitVec 16) (f : Job → Job) : (s.modJob id f).seps = s.seps := rfl
@[simp] theorem State.modJob_mems (id : BitVec 16) (f : Job → Job) : (s.modJob id f).mems = s.mems := rfl
@[simp] theorem State.modJob_flashes (id : BitVec 16) (f : Job → Job) : (s.modJob id f).flashes = s.flashes := rfl
@[simp] theorem State.modJob_skms (id : BitVec 16) (f : Job → Job) : (s.modJob id f).skms = s.skms := rfl
@[simp] theorem State.modJob_dram (id : BitVec 16) (f : Job → Job) : (s.modJob id f).dram = s.dram := rfl
@[simp] theorem State.modJob_host (id : BitVec 16) (f : Job → Job) : (s.modJob id f).host = s.host := rfl
@[simp] theorem State.modJob_objs (id : BitVec 16) (f : Job → Job) : (s.modJob id f).objs = s.objs := rfl
@[simp] theorem State.modJob_evicts (id : BitVec 16) (f : Job → Job) : (s.modJob id f).evicts = s.evicts := rfl
@[simp] theorem State.modJob_alm (id : BitVec 16) (f : Job → Job) : (s.modJob id f).alm = s.alm := rfl
@[simp] theorem State.modJob_fab (id : BitVec 16) (f : Job → Job) : (s.modJob id f).fab = s.fab := rfl
@[simp] theorem State.modJob_jobs (id : BitVec 16) (f : Job → Job) : (s.modJob id f).jobs = s.jobs.map fun j => if j.id == id then f j else j := rfl
@[simp] theorem State.modJob_images (id : BitVec 16) (f : Job → Job) : (s.modJob id f).images = s.images := rfl
@[simp] theorem State.modJob_groups (id : BitVec 16) (f : Job → Job) : (s.modJob id f).groups = s.groups := rfl
@[simp] theorem State.modJob_queries (id : BitVec 16) (f : Job → Job) : (s.modJob id f).queries = s.queries := rfl
@[simp] theorem State.modJob_queryNext (id : BitVec 16) (f : Job → Job) : (s.modJob id f).queryNext = s.queryNext := rfl
@[simp] theorem State.modJob_queues (id : BitVec 16) (f : Job → Job) : (s.modJob id f).queues = s.queues := rfl
@[simp] theorem State.modJob_visit (id : BitVec 16) (f : Job → Job) : (s.modJob id f).visit = s.visit := rfl
@[simp] theorem State.modJob_bar (id : BitVec 16) (f : Job → Job) : (s.modJob id f).bar = s.bar := rfl
@[simp] theorem State.modJob_ic (id : BitVec 16) (f : Job → Job) : (s.modJob id f).ic = s.ic := rfl
@[simp] theorem State.modJob_log (id : BitVec 16) (f : Job → Job) : (s.modJob id f).log = s.log := rfl
@[simp] theorem State.modJob_sec (id : BitVec 16) (f : Job → Job) : (s.modJob id f).sec = s.sec := rfl
@[simp] theorem State.modJob_boot (id : BitVec 16) (f : Job → Job) : (s.modJob id f).boot = s.boot := rfl
@[simp] theorem State.modJob_power (id : BitVec 16) (f : Job → Job) : (s.modJob id f).power = s.power := rfl
@[simp] theorem State.modJob_helm (id : BitVec 16) (f : Job → Job) : (s.modJob id f).helm = s.helm := rfl
@[simp] theorem State.modJob_tlm (id : BitVec 16) (f : Job → Job) : (s.modJob id f).tlm = s.tlm := rfl
@[simp] theorem State.modJob_fresh (id : BitVec 16) (f : Job → Job) : (s.modJob id f).fresh = s.fresh := rfl

/-! ### `State.modGroup` -/

@[simp] theorem State.modGroup_pending (id : BitVec 8) (f : Group → Group) : (s.modGroup id f).pending = s.pending := rfl
@[simp] theorem State.modGroup_ticks (id : BitVec 8) (f : Group → Group) : (s.modGroup id f).ticks = s.ticks := rfl
@[simp] theorem State.modGroup_devTime (id : BitVec 8) (f : Group → Group) : (s.modGroup id f).devTime = s.devTime := rfl
@[simp] theorem State.modGroup_free (id : BitVec 8) (f : Group → Group) : (s.modGroup id f).free = s.free := rfl
@[simp] theorem State.modGroup_out (id : BitVec 8) (f : Group → Group) : (s.modGroup id f).out = s.out := rfl
@[simp] theorem State.modGroup_cores (id : BitVec 8) (f : Group → Group) : (s.modGroup id f).cores = s.cores := rfl
@[simp] theorem State.modGroup_posts (id : BitVec 8) (f : Group → Group) : (s.modGroup id f).posts = s.posts := rfl
@[simp] theorem State.modGroup_dies (id : BitVec 8) (f : Group → Group) : (s.modGroup id f).dies = s.dies := rfl
@[simp] theorem State.modGroup_spus (id : BitVec 8) (f : Group → Group) : (s.modGroup id f).spus = s.spus := rfl
@[simp] theorem State.modGroup_seps (id : BitVec 8) (f : Group → Group) : (s.modGroup id f).seps = s.seps := rfl
@[simp] theorem State.modGroup_mems (id : BitVec 8) (f : Group → Group) : (s.modGroup id f).mems = s.mems := rfl
@[simp] theorem State.modGroup_flashes (id : BitVec 8) (f : Group → Group) : (s.modGroup id f).flashes = s.flashes := rfl
@[simp] theorem State.modGroup_skms (id : BitVec 8) (f : Group → Group) : (s.modGroup id f).skms = s.skms := rfl
@[simp] theorem State.modGroup_dram (id : BitVec 8) (f : Group → Group) : (s.modGroup id f).dram = s.dram := rfl
@[simp] theorem State.modGroup_host (id : BitVec 8) (f : Group → Group) : (s.modGroup id f).host = s.host := rfl
@[simp] theorem State.modGroup_objs (id : BitVec 8) (f : Group → Group) : (s.modGroup id f).objs = s.objs := rfl
@[simp] theorem State.modGroup_evicts (id : BitVec 8) (f : Group → Group) : (s.modGroup id f).evicts = s.evicts := rfl
@[simp] theorem State.modGroup_alm (id : BitVec 8) (f : Group → Group) : (s.modGroup id f).alm = s.alm := rfl
@[simp] theorem State.modGroup_fab (id : BitVec 8) (f : Group → Group) : (s.modGroup id f).fab = s.fab := rfl
@[simp] theorem State.modGroup_jobs (id : BitVec 8) (f : Group → Group) : (s.modGroup id f).jobs = s.jobs := rfl
@[simp] theorem State.modGroup_images (id : BitVec 8) (f : Group → Group) : (s.modGroup id f).images = s.images := rfl
@[simp] theorem State.modGroup_groups (id : BitVec 8) (f : Group → Group) : (s.modGroup id f).groups = s.groups.map fun g => if g.id == id then f g else g := rfl
@[simp] theorem State.modGroup_queries (id : BitVec 8) (f : Group → Group) : (s.modGroup id f).queries = s.queries := rfl
@[simp] theorem State.modGroup_queryNext (id : BitVec 8) (f : Group → Group) : (s.modGroup id f).queryNext = s.queryNext := rfl
@[simp] theorem State.modGroup_queues (id : BitVec 8) (f : Group → Group) : (s.modGroup id f).queues = s.queues := rfl
@[simp] theorem State.modGroup_visit (id : BitVec 8) (f : Group → Group) : (s.modGroup id f).visit = s.visit := rfl
@[simp] theorem State.modGroup_bar (id : BitVec 8) (f : Group → Group) : (s.modGroup id f).bar = s.bar := rfl
@[simp] theorem State.modGroup_ic (id : BitVec 8) (f : Group → Group) : (s.modGroup id f).ic = s.ic := rfl
@[simp] theorem State.modGroup_log (id : BitVec 8) (f : Group → Group) : (s.modGroup id f).log = s.log := rfl
@[simp] theorem State.modGroup_sec (id : BitVec 8) (f : Group → Group) : (s.modGroup id f).sec = s.sec := rfl
@[simp] theorem State.modGroup_boot (id : BitVec 8) (f : Group → Group) : (s.modGroup id f).boot = s.boot := rfl
@[simp] theorem State.modGroup_power (id : BitVec 8) (f : Group → Group) : (s.modGroup id f).power = s.power := rfl
@[simp] theorem State.modGroup_helm (id : BitVec 8) (f : Group → Group) : (s.modGroup id f).helm = s.helm := rfl
@[simp] theorem State.modGroup_tlm (id : BitVec 8) (f : Group → Group) : (s.modGroup id f).tlm = s.tlm := rfl
@[simp] theorem State.modGroup_fresh (id : BitVec 8) (f : Group → Group) : (s.modGroup id f).fresh = s.fresh := rfl

/-! ### `State.hostPut` -/

@[simp] theorem State.hostPut_pending (h : Nat) (bs : List Byte) : (s.hostPut h bs).pending = s.pending := rfl
@[simp] theorem State.hostPut_ticks (h : Nat) (bs : List Byte) : (s.hostPut h bs).ticks = s.ticks := rfl
@[simp] theorem State.hostPut_devTime (h : Nat) (bs : List Byte) : (s.hostPut h bs).devTime = s.devTime := rfl
@[simp] theorem State.hostPut_free (h : Nat) (bs : List Byte) : (s.hostPut h bs).free = s.free := rfl
@[simp] theorem State.hostPut_out (h : Nat) (bs : List Byte) : (s.hostPut h bs).out = s.out := rfl
@[simp] theorem State.hostPut_cores (h : Nat) (bs : List Byte) : (s.hostPut h bs).cores = s.cores := rfl
@[simp] theorem State.hostPut_posts (h : Nat) (bs : List Byte) : (s.hostPut h bs).posts = s.posts := rfl
@[simp] theorem State.hostPut_dies (h : Nat) (bs : List Byte) : (s.hostPut h bs).dies = s.dies := rfl
@[simp] theorem State.hostPut_spus (h : Nat) (bs : List Byte) : (s.hostPut h bs).spus = s.spus := rfl
@[simp] theorem State.hostPut_seps (h : Nat) (bs : List Byte) : (s.hostPut h bs).seps = s.seps := rfl
@[simp] theorem State.hostPut_mems (h : Nat) (bs : List Byte) : (s.hostPut h bs).mems = s.mems := rfl
@[simp] theorem State.hostPut_flashes (h : Nat) (bs : List Byte) : (s.hostPut h bs).flashes = s.flashes := rfl
@[simp] theorem State.hostPut_skms (h : Nat) (bs : List Byte) : (s.hostPut h bs).skms = s.skms := rfl
@[simp] theorem State.hostPut_dram (h : Nat) (bs : List Byte) : (s.hostPut h bs).dram = s.dram := rfl
@[simp] theorem State.hostPut_host (h : Nat) (bs : List Byte) : (s.hostPut h bs).host = Mem.putBytes (fun m k b => { m with bytes := m.bytes.put k b }) s.host h bs := rfl
@[simp] theorem State.hostPut_objs (h : Nat) (bs : List Byte) : (s.hostPut h bs).objs = s.objs := rfl
@[simp] theorem State.hostPut_evicts (h : Nat) (bs : List Byte) : (s.hostPut h bs).evicts = s.evicts := rfl
@[simp] theorem State.hostPut_alm (h : Nat) (bs : List Byte) : (s.hostPut h bs).alm = s.alm := rfl
@[simp] theorem State.hostPut_fab (h : Nat) (bs : List Byte) : (s.hostPut h bs).fab = s.fab := rfl
@[simp] theorem State.hostPut_jobs (h : Nat) (bs : List Byte) : (s.hostPut h bs).jobs = s.jobs := rfl
@[simp] theorem State.hostPut_images (h : Nat) (bs : List Byte) : (s.hostPut h bs).images = s.images := rfl
@[simp] theorem State.hostPut_groups (h : Nat) (bs : List Byte) : (s.hostPut h bs).groups = s.groups := rfl
@[simp] theorem State.hostPut_queries (h : Nat) (bs : List Byte) : (s.hostPut h bs).queries = s.queries := rfl
@[simp] theorem State.hostPut_queryNext (h : Nat) (bs : List Byte) : (s.hostPut h bs).queryNext = s.queryNext := rfl
@[simp] theorem State.hostPut_queues (h : Nat) (bs : List Byte) : (s.hostPut h bs).queues = s.queues := rfl
@[simp] theorem State.hostPut_visit (h : Nat) (bs : List Byte) : (s.hostPut h bs).visit = s.visit := rfl
@[simp] theorem State.hostPut_bar (h : Nat) (bs : List Byte) : (s.hostPut h bs).bar = s.bar := rfl
@[simp] theorem State.hostPut_ic (h : Nat) (bs : List Byte) : (s.hostPut h bs).ic = s.ic := rfl
@[simp] theorem State.hostPut_log (h : Nat) (bs : List Byte) : (s.hostPut h bs).log = s.log := rfl
@[simp] theorem State.hostPut_sec (h : Nat) (bs : List Byte) : (s.hostPut h bs).sec = s.sec := rfl
@[simp] theorem State.hostPut_boot (h : Nat) (bs : List Byte) : (s.hostPut h bs).boot = s.boot := rfl
@[simp] theorem State.hostPut_power (h : Nat) (bs : List Byte) : (s.hostPut h bs).power = s.power := rfl
@[simp] theorem State.hostPut_helm (h : Nat) (bs : List Byte) : (s.hostPut h bs).helm = s.helm := rfl
@[simp] theorem State.hostPut_tlm (h : Nat) (bs : List Byte) : (s.hostPut h bs).tlm = s.tlm := rfl
@[simp] theorem State.hostPut_fresh (h : Nat) (bs : List Byte) : (s.hostPut h bs).fresh = s.fresh := rfl

end Sys2Proof.Machine
end

