-- ==== Sys2Proof/Laws/Units.lean ====
section
/-!
SUPPORT. Laws of the numbered units: reading a unit after a unit of the same kind was changed.
-/
namespace Sys2Proof.Machine

/-- Reading element `j` after element `i` was changed. -/
theorem vget_vmod {α : Type} {n : Nat} (d : α) (v : Vector α n) (i j : Nat) (f : α → α) :
    vget d (vmod v i f) j = if i = j ∧ i < n then f (vget d v i) else vget d v j := by
  unfold vget vmod
  by_cases h : i < n
  · simp only [h, dif_pos, and_true]
    by_cases hij : i = j
    · subst hij
      simp [h]
    · simp [hij, Vector.getElem?_set]
  · simp [h]

/-- The element changed. -/
theorem vget_vmod_self {α : Type} {n : Nat} (d : α) (v : Vector α n) {i : Nat} (f : α → α) (h : i < n) :
    vget d (vmod v i f) i = f (vget d v i) := by simp [vget_vmod, h]

/-- Another element. -/
theorem vget_vmod_ne {α : Type} {n : Nat} (d : α) (v : Vector α n) {i j : Nat} (f : α → α) (h : i ≠ j) :
    vget d (vmod v i f) j = vget d v j := by simp [vget_vmod, h]

/-- Changing an element of a list of the length of the vector. -/
theorem vget_getElem {α : Type} {n : Nat} (d : α) (v : Vector α n) {i : Nat} (h : i < n) : vget d v i = v[i] := by
  simp [vget, h]

/-- Changing one element twice. -/
theorem vmod_vmod {α : Type} {n : Nat} (v : Vector α n) (i : Nat) (f g : α → α) :
    vmod (vmod v i f) i g = vmod v i (fun x => g (f x)) := by
  unfold vmod
  by_cases h : i < n <;> simp [h]

/-- An identity change. -/
theorem vmod_id {α : Type} {n : Nat} (v : Vector α n) (i : Nat) (f : α → α) (hf : ∀ h : i < n, f v[i] = v[i]) : vmod v i f = v := by
  unfold vmod
  by_cases h : i < n
  · simp [h, hf h]
  · simp [h]

namespace State

variable (s : State)

theorem core_modCore (c d : Nat) (f : Core → Core) (h : c < 176) :
    (s.modCore c f).core d = if c = d then f (s.core c) else s.core d := by
  show vget _ (vmod s.cores c f) d = _
  rw [vget_vmod]
  by_cases hcd : c = d
  · subst hcd
    simp [h, core]
  · simp [hcd, core]

@[simp] theorem core_modCore_fin (c : Fin 176) (f : Core → Core) : (s.modCore c.val f).core c.val = f (s.core c.val) := by
  rw [core_modCore _ _ _ _ c.isLt]
  simp

theorem core_modCore_ne {c d : Nat} (f : Core → Core) (h : c ≠ d) : (s.modCore c f).core d = s.core d := by
  show vget _ (vmod s.cores c f) d = _
  rw [vget_vmod_ne _ _ _ h]
  rfl

theorem modCore_modCore (c : Nat) (f g : Core → Core) : (s.modCore c f).modCore c g = s.modCore c fun k => g (f k) := by
  simp [modCore, vmod_vmod]

theorem die_modDie (c d : Nat) (f : ComputeDie → ComputeDie) (h : c < 22) :
    (s.modDie c f).die d = if c = d then f (s.die c) else s.die d := by
  show vget _ (vmod s.dies c f) d = _
  rw [vget_vmod]
  by_cases hcd : c = d <;> simp [hcd, h, die]
  intro hh
  omega

theorem spu_modSpu (c d : Nat) (f : Spu → Spu) (h : c < 4) :
    (s.modSpu c f).spu d = if c = d then f (s.spu c) else s.spu d := by
  show vget _ (vmod s.spus c f) d = _
  rw [vget_vmod]
  by_cases hcd : c = d <;> simp [hcd, h, spu]
  intro hh
  omega

theorem sep_modSep (c d : Nat) (f : Sep → Sep) (h : c < 4) :
    (s.modSep c f).sep d = if c = d then f (s.sep c) else s.sep d := by
  show vget _ (vmod s.seps c f) d = _
  rw [vget_vmod]
  by_cases hcd : c = d <;> simp [hcd, h, sep]
  intro hh
  omega

theorem memDie_modMem (c d : Nat) (f : MemDie → MemDie) (h : c < 4) :
    (s.modMem c f).memDie d = if c = d then f (s.memDie c) else s.memDie d := by
  show vget _ (vmod s.mems c f) d = _
  rw [vget_vmod]
  by_cases hcd : c = d <;> simp [hcd, h, memDie]
  intro hh
  omega

theorem flash_modFlash (c d : Nat) (f : FlashDie → FlashDie) (h : c < 4) :
    (s.modFlash c f).flash d = if c = d then f (s.flash c) else s.flash d := by
  show vget _ (vmod s.flashes c f) d = _
  rw [vget_vmod]
  by_cases hcd : c = d <;> simp [hcd, h, flash]
  intro hh
  omega

theorem skm_modSkm (c d : Nat) (f : Skimmer → Skimmer) (h : c < 8) :
    (s.modSkm c f).skm d = if c = d then f (s.skm c) else s.skm d := by
  show vget _ (vmod s.skms c f) d = _
  rw [vget_vmod]
  by_cases hcd : c = d <;> simp [hcd, h, skm]
  intro hh
  omega

theorem port_modPort (c d : Nat) (f : Port → Port) (h : c < 8) :
    (s.modPort c f).port d = if c = d then f (s.port c) else s.port d := by
  show vget _ (vmod s.fab.ports c f) d = _
  rw [vget_vmod]
  by_cases hcd : c = d <;> simp [hcd, h, port]
  intro hh
  omega

theorem engine_modEngine (c d : Nat) (f : Engine → Engine) (h : c < 4) :
    (s.modEngine c f).engine d = if c = d then f (s.engine c) else s.engine d := by
  show vget _ (vmod s.fab.engines c f) d = _
  rw [vget_vmod]
  by_cases hcd : c = d <;> simp [hcd, h, engine]
  intro hh
  omega

theorem pilot_modPilot (c d : Nat) (f : IcPilot → IcPilot) (h : c < 4) :
    (s.modPilot c f).pilot d = if c = d then f (s.pilot c) else s.pilot d := by
  show vget _ (vmod s.ic.pilots c f) d = _
  rw [vget_vmod]
  by_cases hcd : c = d <;> simp [hcd, h, pilot]
  intro hh
  omega

theorem src_modSrc (c d : Nat) (f : IcSrc → IcSrc) (h : c < 512) :
    (s.modSrc c f).src d = if c = d then f (s.src c) else s.src d := by
  show vget _ (vmod s.ic.srcs c f) d = _
  rw [vget_vmod]
  by_cases hcd : c = d <;> simp [hcd, h, src]
  intro hh
  omega

theorem almSlot_modSlot (c d : Nat) (f : AlmSlot → AlmSlot) (h : c < 8) :
    (s.modSlot c f).almSlot d = if c = d then f (s.almSlot c) else s.almSlot d := by
  show vget _ (vmod s.alm.slots c f) d = _
  rw [vget_vmod]
  by_cases hcd : c = d <;> simp [hcd, h, almSlot]
  intro hh
  omega

theorem queue_modQueue (c d : Nat) (f : HostQ → HostQ) (h : c < 8) :
    (s.modQueue c f).queue d = if c = d then f (s.queue c) else s.queue d := by
  show vget _ (vmod s.queues c f) d = _
  rw [vget_vmod]
  by_cases hcd : c = d
  · subst hcd
    simp [h, queue]
  · simp [hcd, queue]

end State
end Sys2Proof.Machine
end

