-- ==== Sys2Proof/Laws/Core.lean ====
section
/-!
SUPPORT. Laws of a Churn core's shared operations: what the start of a PASS, the settling of a core after an event, and the issue
of an operation do.
-/
namespace Sys2Proof.Machine.State

/-! ## What changes only one core -/

theorem onlyCore_modCore (s : State) (c : Nat) (f : Core → Core) : OnlyCore c s (s.modCore c f) :=
  ⟨rfl, fun _ hd => core_modCore_ne s f (Ne.symm hd)⟩

theorem onlyCore_trans {c : Nat} {s t u : State} (h : OnlyCore c s t) (g : OnlyCore c t u) : OnlyCore c s u := by
  obtain ⟨h1, h2⟩ := h
  obtain ⟨g1, g2⟩ := g
  refine ⟨?_, fun d hd => (g2 d hd).trans (h2 d hd)⟩
  rw [g1, h1]

/-! ## The start of a PASS -/

theorem beginPass_regs (k : Core) : (beginPass k).regs = k.regs := by
  unfold beginPass
  split
  · rfl
  · split
    · rfl
    · simp only []
      split <;> rfl

theorem beginPass_scratch (k : Core) : (beginPass k).scratch = k.scratch := by
  unfold beginPass
  split
  · rfl
  · split
    · rfl
    · simp only []
      split <;> rfl

/-- Of the issue side it changes only which pass has begun. -/
theorem beginPass_pipe (k : Core) : (beginPass k).pipe = { k.pipe with arrayQ := (beginPass k).pipe.arrayQ } := by
  unfold beginPass
  split
  · rfl
  · split
    · rfl
    · simp only []
      split <;> rfl

theorem beginPass_arrayQ (k : Core) :
    (beginPass k).pipe.arrayQ.map (fun e => (e.seq, e.pc, e.tile, e.op)) = k.pipe.arrayQ.map (fun e => (e.seq, e.pc, e.tile, e.op)) := by
  unfold beginPass
  split
  · rfl
  · rename_i e rest h
    split
    · rfl
    · simp only []
      split <;> simp [Core.modPipe, Core.modArr, Core.modTile, h]

@[simp] theorem beginPass_held (k : Core) : (beginPass k).pipe.held = k.pipe.held := by rw [beginPass_pipe]
@[simp] theorem beginPass_faulting (k : Core) : (beginPass k).pipe.faulting = k.pipe.faulting := by rw [beginPass_pipe]
@[simp] theorem beginPass_fetch (k : Core) : (beginPass k).pipe.fetch = k.pipe.fetch := by rw [beginPass_pipe]
@[simp] theorem beginPass_issued (k : Core) : (beginPass k).pipe.issued = k.pipe.issued := by rw [beginPass_pipe]

/-! ## Settling -/

theorem headFault_good (s : State) (c : Nat) (h : headGood (s.core c).pipe.fetch = true) : s.headFault c = s := by
  unfold headFault
  simp only []
  split
  · split
    · rename_i f rest hf
      rw [hf] at h
      simp only [headGood, Bool.and_eq_true] at h
      split
      · rename_i hb
        rw [hb] at h
        simp at h
      · split
        · rename_i he
          rw [he] at h
          simp at h
        · rfl
    · rfl
  · rfl

/-- With nothing held, no fault waiting and a good head of the fetch buffer, settling only lets a PASS begin. -/
theorem settle_free (s : State) (c : Nat) (hc : c < 176) (hh : (s.core c).pipe.held = none)
    (hf : (s.core c).pipe.faulting = none) (hg : headGood (s.core c).pipe.fetch = true) :
    s.settle c = s.modCore c beginPass := by
  unfold settle
  have hk : (s.modCore c beginPass).core c = beginPass (s.core c) := by simp [core_modCore, hc]
  have h1 : (s.modCore c beginPass).runHeld c = s.modCore c beginPass := by
    unfold runHeld
    simp only [hk, beginPass_held, hh]
  simp only [h1]
  rw [headFault_good _ _ (by simpa [hk] using hg)]
  unfold faultDone
  simp [hk, hf]

/-! ## Issue -/

theorem takeHead_core (s : State) (c : Nat) (hc : c < 176) :
    (s.takeHead c).core c =
      { s.core c with pipe := { (s.core c).pipe with fetch := (s.core c).pipe.fetch.drop 1, issued := (s.core c).pipe.issued + 1 } } := by
  simp [takeHead, core_modCore, hc, Core.modPipe]

theorem takeHead_took {s : State} {c : CoreId} {op : CoreOp} {pc : Nat} {rest : List Fetched}
    (h : CoreIssues s c.val op pc rest) : (s.takeHead c.val).core c.val = (s.core c.val).took rest := by
  obtain ⟨⟨hm, hh, hf, f, hfetch, hpc, hb, hd⟩, hr, hi⟩ := h
  rw [takeHead_core _ _ c.isLt]
  simp [hfetch, Core.took]

/-- A core whose earlier operations have all finished lets no PASS begin. -/
theorem beginPass_quiet {k : Core} (h : k.quiet = true) : beginPass k = k := by
  unfold Core.quiet at h
  simp only [Bool.and_eq_true, List.isEmpty_iff] at h
  unfold beginPass
  rw [h.1.1.1.1.1.1.2]

/-- The interlock of POST, SYNC, END and PHASE reads nothing that the start of a PASS changes. -/
theorem quiet_beginPass (k : Core) : (beginPass k).quiet = k.quiet := by
  unfold beginPass
  split
  · rfl
  · rename_i e rest h
    split
    · rfl
    · simp only []
      split <;> simp [Core.quiet, Core.modPipe, Core.modArr, Core.modTile, h]

/-- An operation that a core can issue: it leaves the fetch buffer, takes the next place, and does what its unit does with it. -/
theorem coreIssue_eq {s : State} {c : Nat} {op : CoreOp} {pc : Nat} {rest : List Fetched} (h : CoreIssues s c op pc rest)
    (want : CoreOp → Bool) (hw : want op = true) (act : State → Nat → Nat → CoreOp → State) :
    s.coreIssue c want act = (act (s.takeHead c) (s.core c).pipe.issued pc op).settle c := by
  obtain ⟨⟨hm, hh, hf, f, hfetch, hpc, hb, hd⟩, hr, hi⟩ := h
  unfold coreIssue
  simp [hm, hh, hf, hfetch, hb, hd, hw, hr, hi, hpc]

end Sys2Proof.Machine.State
end

