-- ==== Sys2Proof/Laws/Fabric.lean ====
section
/-!
SUPPORT. What sending a handshake message can do.
-/
namespace Sys2Proof.Machine.State

/-- A fold of steps, each of which sends one thing and changes only the frame counts of a port and of its handshake, is of that shape as a
whole. -/
theorem shake_fold {α : Type} (p : Nat) (step : State → α → State)
    (hs : ∀ s a, ∃ (o : Out) (g : Port → Port), (∀ x, ∃ (t : Cnt64) (k : Nat), g x = { x with txFrames := t, shake := { x.shake with frames := k } }) ∧
      step s a = ({ s with out := s.out ++ [o] } : State).modPort p g)
    (l : List α) (s : State) :
    ∃ (os : List Out) (g : Port → Port), (∀ x, ∃ (t : Cnt64) (k : Nat), g x = { x with txFrames := t, shake := { x.shake with frames := k } }) ∧
      l.foldl step s = ({ s with out := s.out ++ os } : State).modPort p g := by
  induction l generalizing s with
  | nil =>
    refine ⟨[], fun x => x, fun x => ⟨x.txFrames, x.shake.frames, rfl⟩, ?_⟩
    have h : vmod s.fab.ports p (fun x => x) = s.fab.ports := vmod_id _ _ _ fun _ => rfl
    simp [modPort, h]
  | cons a l ih =>
    obtain ⟨o, g₁, hg₁, ho⟩ := hs s a
    obtain ⟨os, g₂, hg₂, hl⟩ := ih (step s a)
    refine ⟨o :: os, fun x => g₂ (g₁ x), fun x => ?_, ?_⟩
    · obtain ⟨t₁, k₁, e₁⟩ := hg₁ x
      obtain ⟨t₂, k₂, e₂⟩ := hg₂ (g₁ x)
      refine ⟨t₂, k₂, ?_⟩
      show g₂ (g₁ x) = _
      rw [e₂, e₁]
    · rw [List.foldl_cons, hl, ho]
      simp [modPort, vmod_vmod]

/-- R206, R253: sending a handshake message sends frames, counts them and notes the message, and changes nothing else. -/
theorem sendShake_eq (s : State) (p : Nat) (op : BitVec 8) (msg : List Byte) :
    ∃ (os : List Out) (g : Port → Port), (∀ x, ∃ (t : Cnt64) (k : Nat), g x =
        { x with txFrames := t, shake := { x.shake with frames := k, sent := x.shake.sent ++ [msg] } }) ∧
      s.sendShake p op msg = ({ s with out := s.out ++ os } : State).modPort p g := by
  obtain ⟨os, g, hg, h⟩ := shake_fold p
    (fun s i =>
      let k := (s.port p).shake.frames
      let parts := Bytes.chunks 512 (Bytes.fit ((max 1 msg.length + 15) / 16 * 16) msg)
      let f : Frame :=
        { blankFrame 3 true op with
          dst := neighbour s.dim s.node p, src := s.node, epoch := s.epoch, last := i + 1 == parts.length
          offset := BitVec.ofNat 48 (512 * i), frno := BitVec.ofNat 64 k, seq := BitVec.ofNat 12 k, payload := parts.getD i [] }
      (s.modPort p fun x => { x with txFrames := Word.satInc x.txFrames, shake := { x.shake with frames := k + 1 } }).emit
        (.frame (Fin.ofNat 8 p) f (f.wire none)))
    (fun s i => ⟨_, _, fun x => ⟨_, _, rfl⟩, rfl⟩)
    (List.range (Bytes.chunks 512 (Bytes.fit ((max 1 msg.length + 15) / 16 * 16) msg)).length) s
  refine ⟨os, fun x => { g x with shake := { (g x).shake with sent := (g x).shake.sent ++ [msg] } }, fun x => ?_, ?_⟩
  · obtain ⟨t, k, e⟩ := hg x
    exact ⟨t, k, by simp [e]⟩
  · unfold sendShake
    simp only at h ⊢
    rw [h]
    simp [modPort, vmod_vmod]

/-- The port's place in the handshake stays. -/
theorem sendShake_handshake (s : State) (p q : Nat) (op : BitVec 8) (msg : List Byte) (h : p < 8) :
    ((s.sendShake p op msg).port q).handshake = (s.port q).handshake := by
  obtain ⟨os, g, hg, e⟩ := s.sendShake_eq p op msg
  rw [e, port_modPort _ _ _ _ h]
  split <;> rename_i hq
  · subst hq
    obtain ⟨t, k, e⟩ := hg (({ s with out := s.out ++ os } : State).port p)
    rw [e]
    rfl
  · rfl

end Sys2Proof.Machine.State
end

