-- ==== Sys2Proof/Laws/Flash.lean ====
section
/-!
SUPPORT. What parity gives back.
-/
namespace Sys2Proof.Machine

/-- R158, R160: a page rebuilt from the parity page and the six other data pages of its stripe is the page. -/
theorem rebuiltByte_eq (bytes : List Byte) (k i : Nat) (h : k < 7) : rebuiltByte bytes k i = pageByte bytes k i := by
  unfold rebuiltByte parityByte
  generalize pageByte bytes = f
  interval_cases k <;> simp [List.range_succ] <;> ext j <;> simp <;>
    cases (f 0 i)[j] <;> cases (f 1 i)[j] <;> cases (f 2 i)[j] <;> cases (f 3 i)[j] <;> cases (f 4 i)[j] <;> cases (f 5 i)[j] <;>
      cases (f 6 i)[j] <;> rfl

end Sys2Proof.Machine
end

