-- ==== Sys2Proof/Laws/Mailbox.lean ====
section
/-!
SUPPORT. Laws of the mailbox's shared operations: what marking, completing and refusing a command and letting its stream go on change, and
what follows from a command's being the one that may start.
-/
namespace Sys2Proof.Machine.State

/-! ## Everything but the queues stays -/

theorem markStarted_frame (s : State) (q : Nat) (f : Flight) : s.markStarted q f = { s with queues := (s.markStarted q f).queues } := rfl

theorem complete_frame (s : State) (q : Nat) (f : Flight) (st : BitVec 8) (d : BitVec 16) (r0 : BitVec 32) (r1 : BitVec 64) :
    s.complete q f st d r0 r1 = { s with queues := (s.complete q f st d r0 r1).queues } := rfl

theorem advance_frame (q : Nat) : ∀ (k : Nat) (s : State), advance q k s = { s with queues := (advance q k s).queues }
  | 0, _ => rfl
  | k + 1, s => by
    unfold advance
    simp only []
    split
    · rfl
    · split
      · rfl
      · split
        · rfl
        · split
          · rw [advance_frame q k, complete_frame]
          · split
            · split
              · rfl
              · rw [advance_frame q k, complete_frame]
            · rfl

/-- Letting a stream go on changes the queues and nothing else. -/
theorem stream_frame (s : State) (q : Nat) : s.stream q = { s with queues := (s.stream q).queues } := advance_frame q _ s

/-- Completing a command changes the queues and nothing else. -/
theorem finish_frame (s : State) (q : Nat) (f : Flight) (st : BitVec 8) (d : BitVec 16) (r0 : BitVec 32) (r1 : BitVec 64) :
    s.finish q f st d r0 r1 = { s with queues := (s.finish q f st d r0 r1).queues } := by
  unfold finish
  rw [stream_frame, complete_frame]

theorem refuse_frame (s : State) (q : Nat) (f : Flight) (st : BitVec 8) (d : Nat) :
    s.refuse q f st d = { s with queues := (s.refuse q f st d).queues } := finish_frame _ _ _ _ _ _ _

theorem finishTag_frame (s : State) (t : Option (QueueId × Tag)) (st : BitVec 8) (d : Nat) (r0 : BitVec 32) (r1 : BitVec 64) :
    s.finishTag t st d r0 r1 = { s with queues := (s.finishTag t st d r0 r1).queues } := by
  unfold finishTag
  split
  · rfl
  · split
    · exact finish_frame _ _ _ _ _ _ _
    · rfl

/-! ## The other queues stay -/

theorem queue_modQueue_ne (s : State) {q p : Nat} (f : HostQ → HostQ) (h : q ≠ p) : (s.modQueue q f).queue p = s.queue p := by
  show vget _ (vmod s.queues q f) p = _
  rw [vget_vmod_ne _ _ _ h]
  rfl

theorem queue_advance_ne {q p : Nat} (h : q ≠ p) : ∀ (k : Nat) (s : State), (advance q k s).queue p = s.queue p
  | 0, _ => rfl
  | k + 1, s => by
    unfold advance
    simp only []
    split
    · rfl
    · split
      · rfl
      · split
        · rfl
        · split
          · rw [queue_advance_ne h k, complete, queue_modQueue_ne _ _ h]
          · split
            · split
              · rfl
              · rw [queue_advance_ne h k, complete, queue_modQueue_ne _ _ h]
            · rfl

theorem queue_stream_ne {q p : Nat} (h : q ≠ p) (s : State) : (s.stream q).queue p = s.queue p := queue_advance_ne h _ _

theorem queue_finish_ne {q p : Nat} (h : q ≠ p) (s : State) (f : Flight) (st : BitVec 8) (d : BitVec 16) (r0 : BitVec 32) (r1 : BitVec 64) :
    (s.finish q f st d r0 r1).queue p = s.queue p := by
  unfold finish
  rw [queue_stream_ne h, complete, queue_modQueue_ne _ _ h]

/-! ## A command that may start -/

/-- It has not started, its checks passed, and the device is READY. -/
theorem mayStart_facts {s : State} {q : Nat} {f : Flight} {host : Bool} (h : s.mayStart q f host = true) :
    s.bar.mode = .ready ∧ front (s.queue q) = some f ∧ f.started = false ∧ f.refused = none ∧ (host = true → s.ideStall = false) := by
  unfold mayStart at h
  simp only [Bool.and_eq_true, beq_iff_eq, Option.isNone_iff_eq_none, Bool.not_eq_true', Bool.and_eq_false_iff] at h
  obtain ⟨⟨⟨⟨⟨h1, h2⟩, h3⟩, _⟩, _⟩, h6⟩ := h
  refine ⟨h1, h2, ?_, h3, fun hh => ?_⟩
  · have := List.find?_some h2
    simpa using this
  · rcases h6 with h6 | h6
    · rw [hh] at h6; cases h6
    · exact h6

/-- What may start with host accesses may start without them. -/
theorem mayStart_false {s : State} {q : Nat} {f : Flight} (h : s.mayStart q f true = true) : s.mayStart q f false = true := by
  unfold mayStart at h ⊢
  simp only [Bool.true_and, Bool.false_and, Bool.not_false, Bool.and_true] at h ⊢
  exact (Bool.and_eq_true_iff.1 h).1

/-- The queue of a command in flight is one of the eight. -/
theorem flightOf_lt {s : State} {t : Tag} {q : Nat} {f : Flight} (h : s.flightOf t = some (q, f)) : q < 8 := by
  unfold flightOf at h
  obtain ⟨k, hk, hf⟩ := List.exists_of_findSome?_eq_some h
  simp only [Option.map_eq_some_iff, Prod.mk.injEq] at hf
  obtain ⟨_, _, rfl, _⟩ := hf
  simpa using hk

/-- The command that holds a tag is among those of its queue. -/
theorem flightOf_mem {s : State} {t : Tag} {q : Nat} {f : Flight} (h : s.flightOf t = some (q, f)) :
    f ∈ (s.queue q).flights ∧ f.tag = t := by
  unfold flightOf at h
  obtain ⟨k, _, hf⟩ := List.exists_of_findSome?_eq_some h
  simp only [Option.map_eq_some_iff, Prod.mk.injEq] at hf
  obtain ⟨g, hg, rfl, rfl⟩ := hf
  exact ⟨List.mem_of_find?_eq_some hg, by simpa using List.find?_some hg⟩

/-! ## Running a command -/

/-- A command that the machine runs: its body runs from the state in which it is marked started, and its stream goes on. -/
theorem runCmd_eq {s : State} {t : Tag} {opc q : Nat} {f : Flight} (h : CommandAt s t opc q f)
    (body : State → Nat → Flight → State) : s.runCmd t opc false body = (body (s.markStarted q f) q f).stream q := by
  obtain ⟨h1, h2, h3⟩ := h
  simp [runCmd, h1, h2, mayStart_false h3]

/-- A command whose host accesses the host answers: its body runs with the host's bytes in place. -/
theorem runHostCmd_eq {s : State} {t : Tag} {opc q : Nat} {f : Flight} {x : Env} (h : CommandAt s t opc q f) (hx : x.hostErr = none)
    (body : State → Nat → Flight → State) : s.runHostCmd t opc x body = (body ((s.markStarted q f).withEnv x) q f).stream q := by
  obtain ⟨h1, h2, h3⟩ := h
  simp [runHostCmd, runCmd, h1, h2, h3, hx]

/-- A command that is not in flight under this tag and code does nothing. -/
theorem runCmd_other {s : State} {t : Tag} {opc : Nat} (host : Bool) (body : State → Nat → Flight → State)
    (h : ∀ q f, s.flightOf t = some (q, f) → f.opc ≠ opc ∨ s.mayStart q f host = false) : s.runCmd t opc host body = s := by
  unfold runCmd
  split
  · rfl
  · rename_i q f hf
    split
    · rename_i hc
      simp only [Bool.and_eq_true, beq_iff_eq] at hc
      rcases h q f hf with h | h
      · exact absurd hc.1 h
      · rw [h] at hc; simp at hc
    · rfl

end Sys2Proof.Machine.State
end

