-- ==== Sys2Proof/Laws/Tbl.lean ====
section
/-!
SUPPORT. Laws of sparse tables: reading back what was written, leaving other keys alone, and the canonical form, which every
operation on a table keeps.
-/
namespace Sys2Proof.Tbl

variable {α : Type}

/-- Every key of a list is above `k`. -/
def above (k : Nat) (l : List (Nat × α)) : Prop := ∀ e ∈ l, k < e.1

/-- A rising list with an entry in front: every later key is above it, and the rest rises. -/
theorem risingIn_cons {k : Nat} {v : α} {l : List (Nat × α)} :
    risingIn ((k, v) :: l) = true ↔ above k l ∧ risingIn l = true := by
  induction l generalizing k v with
  | nil => simp [risingIn, above]
  | cons e l ih =>
    obtain ⟨j, u⟩ := e
    simp only [risingIn, Bool.and_eq_true, decide_eq_true_eq]
    constructor
    · rintro ⟨h, hr⟩
      refine ⟨?_, hr⟩
      intro e he
      rcases List.mem_cons.1 he with rfl | he
      · exact h
      · exact Nat.lt_trans h ((ih.1 hr).1 e he)
    · rintro ⟨h, hr⟩
      exact ⟨h (j, u) (by simp), hr⟩

theorem mem_putIn {k : Nat} {v : α} {l : List (Nat × α)} {e : Nat × α} (h : e ∈ putIn k v l) : e = (k, v) ∨ e ∈ l := by
  induction l with
  | nil => simpa [putIn] using h
  | cons f l ih =>
    obtain ⟨j, u⟩ := f
    simp only [putIn] at h
    split at h
    · simpa using h
    · split at h
      · rcases List.mem_cons.1 h with rfl | h
        · exact .inl rfl
        · exact .inr (List.mem_cons_of_mem _ h)
      · rcases List.mem_cons.1 h with rfl | h
        · exact .inr (by simp)
        · exact (ih h).imp id (List.mem_cons_of_mem _)

theorem mem_dropIn {k : Nat} {l : List (Nat × α)} {e : Nat × α} (h : e ∈ dropIn k l) : e ∈ l := by
  induction l with
  | nil => simpa [dropIn] using h
  | cons f l ih =>
    obtain ⟨j, u⟩ := f
    simp only [dropIn] at h
    split at h
    · exact List.mem_cons_of_mem _ h
    · split at h
      · exact h
      · rcases List.mem_cons.1 h with rfl | h
        · simp
        · exact List.mem_cons_of_mem _ (ih h)

/-- Storing a value keeps the keys rising. -/
theorem putIn_rising (k : Nat) (v : α) {l : List (Nat × α)} (h : risingIn l = true) : risingIn (putIn k v l) = true := by
  induction l with
  | nil => rfl
  | cons f l ih =>
    obtain ⟨j, u⟩ := f
    have hc := risingIn_cons.1 h
    simp only [putIn]
    split
    · rename_i hk
      exact risingIn_cons.2 ⟨fun e he => by
        rcases List.mem_cons.1 he with rfl | he
        · exact hk
        · exact Nat.lt_trans hk (hc.1 e he), h⟩
    · split
      · rename_i hk
        subst hk
        exact risingIn_cons.2 hc
      · refine risingIn_cons.2 ⟨fun e he => ?_, ih hc.2⟩
        rcases mem_putIn he with rfl | he
        · simp only; omega
        · exact hc.1 e he

/-- Removing a key keeps the keys rising. -/
theorem dropIn_rising (k : Nat) {l : List (Nat × α)} (h : risingIn l = true) : risingIn (dropIn k l) = true := by
  induction l with
  | nil => rfl
  | cons f l ih =>
    obtain ⟨j, u⟩ := f
    have hc := risingIn_cons.1 h
    simp only [dropIn]
    split
    · exact hc.2
    · split
      · exact h
      · exact risingIn_cons.2 ⟨fun e he => hc.1 e (mem_dropIn he), ih hc.2⟩

/-- The key just written reads as the value written. -/
theorem findIn_putIn (k : Nat) (v : α) (l : List (Nat × α)) : findIn k (putIn k v l) = some v := by
  induction l with
  | nil => simp [putIn, findIn]
  | cons f l ih =>
    obtain ⟨j, u⟩ := f
    simp only [putIn]
    split
    · simp [findIn]
    · split
      · simp [findIn]
      · rename_i h1 h2
        simp [findIn, h1, h2, ih]

/-- Writing one key leaves what another reads. -/
theorem findIn_putIn_ne {k i : Nat} (v : α) (hne : i ≠ k) {l : List (Nat × α)} (h : risingIn l = true) :
    findIn i (putIn k v l) = findIn i l := by
  induction l with
  | nil => simp [putIn, findIn, hne]
  | cons f l ih =>
    obtain ⟨j, u⟩ := f
    have hc := risingIn_cons.1 h
    simp only [putIn]
    split
    · rename_i hk
      by_cases hi : i < k
      · simp [findIn, hne, hi, show i ≠ j by omega, show i < j by omega]
      · simp [findIn, hne, hi]
    · split
      · rename_i hk
        subst hk
        simp only [findIn]
        simp [hne]
      · simp only [findIn]
        rw [ih hc.2]

theorem findIn_above {k : Nat} {l : List (Nat × α)} (h : above k l) : findIn k l = none := by
  cases l with
  | nil => rfl
  | cons f l =>
    obtain ⟨j, u⟩ := f
    have hj : k < j := h (j, u) (by simp)
    simp [findIn, hj, show k ≠ j by omega]

/-- A removed key is not listed. -/
theorem findIn_dropIn (k : Nat) {l : List (Nat × α)} (h : risingIn l = true) : findIn k (dropIn k l) = none := by
  induction l with
  | nil => rfl
  | cons f l ih =>
    obtain ⟨j, u⟩ := f
    have hc := risingIn_cons.1 h
    simp only [dropIn]
    split
    · rename_i hk
      subst hk
      exact findIn_above hc.1
    · split
      · rename_i h1 h2
        simp [findIn, h1, h2]
      · rename_i h1 h2
        simp [findIn, h1, h2, ih hc.2]

/-- Removing one key leaves what another reads. -/
theorem findIn_dropIn_ne {k i : Nat} (hne : i ≠ k) {l : List (Nat × α)} (h : risingIn l = true) :
    findIn i (dropIn k l) = findIn i l := by
  induction l with
  | nil => rfl
  | cons f l ih =>
    obtain ⟨j, u⟩ := f
    have hc := risingIn_cons.1 h
    simp only [dropIn]
    split
    · rename_i hk
      subst hk
      simp only [findIn, hne, if_false]
      split
      · rename_i hlt
        exact findIn_above fun e he => Nat.lt_trans hlt (hc.1 e he)
      · rfl
    · split
      · rfl
      · simp only [findIn]
        rw [ih hc.2]

/-! ## Tables -/

@[simp] theorem find?_put (t : Tbl α) (k : Nat) (v : α) : (t.put k v).find? k = some v := findIn_putIn k v t.entries

theorem find?_put_ne {t : Tbl α} {k i : Nat} (v : α) (hne : i ≠ k) (h : t.rising = true) :
    (t.put k v).find? i = t.find? i := findIn_putIn_ne v hne h

@[simp] theorem rising_empty : (Tbl.empty : Tbl α).rising = true := rfl

theorem rising_put {t : Tbl α} (k : Nat) (v : α) (h : t.rising = true) : (t.put k v).rising = true := putIn_rising k v h

theorem rising_drop {t : Tbl α} (k : Nat) (h : t.rising = true) : (t.drop k).rising = true := dropIn_rising k h

@[simp] theorem find?_empty (k : Nat) : (Tbl.empty : Tbl α).find? k = none := rfl

@[simp] theorem get_empty (d : α) (k : Nat) : get d (Tbl.empty : Tbl α) k = d := rfl

/-- The canonical form is rising keys and no stored default. -/
theorem wf_iff [DecidableEq α] {d : α} {t : Tbl α} :
    t.wf d = true ↔ t.rising = true ∧ ∀ e ∈ t.entries, e.2 ≠ d := by
  simp [wf, rising, List.all_eq_true]

theorem rising_of_wf [DecidableEq α] {d : α} {t : Tbl α} (h : t.wf d = true) : t.rising = true := (wf_iff.1 h).1

@[simp] theorem wf_empty [DecidableEq α] (d : α) : (Tbl.empty : Tbl α).wf d = true := rfl

/-- A write keeps the canonical form. -/
theorem wf_set [DecidableEq α] {d : α} {t : Tbl α} (k : Nat) (v : α) (h : t.wf d = true) : (t.set d k v).wf d = true := by
  obtain ⟨hr, hd⟩ := wf_iff.1 h
  unfold set
  split
  · exact wf_iff.2 ⟨rising_drop k hr, fun e he => hd e (mem_dropIn he)⟩
  · rename_i hv
    refine wf_iff.2 ⟨rising_put k v hr, fun e he => ?_⟩
    rcases mem_putIn he with rfl | he
    · exact hv
    · exact hd e he

theorem rising_set [DecidableEq α] {d : α} {t : Tbl α} (k : Nat) (v : α) (h : t.rising = true) : (t.set d k v).rising = true := by
  unfold set
  split
  · exact rising_drop k h
  · exact rising_put k v h

/-- What a write of a table with a default reads as afterwards. -/
theorem get_set [DecidableEq α] {d : α} {t : Tbl α} (k i : Nat) (v : α) (h : t.rising = true) :
    (t.set d k v).get d i = if i = k then v else t.get d i := by
  unfold set get
  split
  · rename_i hv
    subst hv
    split
    · rename_i hi
      subst hi
      simp [find?, drop, findIn_dropIn i h]
    · rename_i hi
      simp only [find?, drop]
      rw [findIn_dropIn_ne hi h]
  · split
    · rename_i hi
      subst hi
      simp
    · rename_i hi
      rw [find?_put_ne v hi h]

/-- Two tables in canonical form that read alike everywhere are the same table. -/
theorem findIn_ext {l m : List (Nat × α)} (hl : risingIn l = true) (hm : risingIn m = true)
    (h : ∀ k, findIn k l = findIn k m) : l = m := by
  induction l generalizing m with
  | nil =>
    cases m with
    | nil => rfl
    | cons f m =>
      have := h f.1
      simp [findIn] at this
  | cons e l ih =>
    obtain ⟨k, v⟩ := e
    cases m with
    | nil =>
      have := h k
      simp [findIn] at this
    | cons f m =>
      obtain ⟨j, u⟩ := f
      have hl' := risingIn_cons.1 hl
      have hm' := risingIn_cons.1 hm
      have hk := h k
      have hj := h j
      have hkj : k = j := by
        rcases Nat.lt_trichotomy k j with hlt | heq | hgt
        · simp [findIn, hlt, show k ≠ j by omega] at hk
        · exact heq
        · simp [findIn, hgt, show j ≠ k by omega] at hj
      subst hkj
      simp [findIn] at hk
      subst hk
      congr 1
      refine ih hl'.2 hm'.2 fun i => ?_
      have hi := h i
      simp only [findIn] at hi
      by_cases h1 : i = k
      · subst h1
        rw [findIn_above hl'.1, findIn_above hm'.1]
      · by_cases h2 : i < k
        · rw [findIn_above fun e he => Nat.lt_trans h2 (hl'.1 e he), findIn_above fun e he => Nat.lt_trans h2 (hm'.1 e he)]
        · simpa [h1, h2] using hi

theorem risingIn_filter (p : Nat × α → Bool) {l : List (Nat × α)} (h : risingIn l = true) : risingIn (l.filter p) = true := by
  induction l with
  | nil => rfl
  | cons f l ih =>
    obtain ⟨j, u⟩ := f
    have hc := risingIn_cons.1 h
    rw [List.filter_cons]
    split
    · exact risingIn_cons.2 ⟨fun e he => hc.1 e (List.mem_filter.1 he).1, ih hc.2⟩
    · exact ih hc.2

theorem rising_keep {t : Tbl α} (p : Nat → α → Bool) (h : t.rising = true) : (t.keep p).rising = true := risingIn_filter _ h

theorem risingIn_mapVals (f : Nat → α → α) {l : List (Nat × α)} (h : risingIn l = true) :
    risingIn (l.map fun p => (p.1, f p.1 p.2)) = true := by
  induction l with
  | nil => rfl
  | cons e l ih =>
    obtain ⟨j, u⟩ := e
    have hc := risingIn_cons.1 h
    refine risingIn_cons.2 ⟨fun e he => ?_, ih hc.2⟩
    obtain ⟨x, hx, rfl⟩ := List.mem_map.1 he
    exact hc.1 x hx

theorem rising_mapVals {t : Tbl α} (f : Nat → α → α) (h : t.rising = true) : (t.mapVals f).rising = true := risingIn_mapVals f h

end Sys2Proof.Tbl
end

