-- ==== Sys2Proof/Laws/Memory.lean ====
section
/-!
SUPPORT. Laws of the memories: every operation on a scratchpad, on DRAM, on host memory and on the object map keeps the canonical
form (`State.memWf`).
-/
namespace Sys2Proof.Machine

/-! ## Writing bytes -/

/-- A byte writer that keeps a property of the byte list keeps it over any number of bytes. -/
theorem Mem.putBytes_keeps (p : Tbl Byte → Prop) (wr : Tbl Byte → Nat → Byte → Tbl Byte)
    (hw : ∀ t k b, p t → p (wr t k b)) (bs : List Byte) :
    ∀ (m : Mem) (k : Nat), p m.bytes →
      p (Mem.putBytes (fun m k b => { m with bytes := wr m.bytes k b }) m k bs).bytes := by
  induction bs with
  | nil => exact fun m k h => h
  | cons b bs ih => exact fun m k h => ih _ _ (hw _ _ _ h)

/-- Writing bytes leaves the poison marks alone. -/
theorem Mem.putBytes_poison (wr : Tbl Byte → Nat → Byte → Tbl Byte) (bs : List Byte) :
    ∀ (m : Mem) (k : Nat), (Mem.putBytes (fun m k b => { m with bytes := wr m.bytes k b }) m k bs).poison = m.poison := by
  induction bs with
  | nil => exact fun m k => rfl
  | cons b bs ih => exact fun m k => ih _ _

/-- A fold keeps what each of its steps keeps. -/
theorem foldl_keeps {α β : Type} (p : β → Prop) (f : β → α → β) (hf : ∀ b a, p b → p (f b a)) (l : List α) :
    ∀ b, p b → p (l.foldl f b) := by
  induction l with
  | nil => exact fun b h => h
  | cons a l ih => exact fun b h => ih _ (hf b a h)

/-! ## Scratchpads -/

theorem Core.memWf_iff {k : Core} : k.memWf = true ↔ k.scratch.bytes.wf 0 = true ∧ k.scratch.poison.wf false = true := by
  simp [Core.memWf]

/-- A write of cells keeps a scratchpad's canonical form. -/
theorem Core.memWf_writeScratch {k : Core} (a : Nat) (cs : List Cell) (h : k.memWf = true) : (k.writeScratch a cs).memWf = true := by
  obtain ⟨hb, hp⟩ := Core.memWf_iff.1 h
  refine Core.memWf_iff.2 ⟨?_, ?_⟩
  · exact Mem.putBytes_keeps (fun t => t.wf 0 = true) (fun t k b => t.set 0 k b) (fun t k b ht => Tbl.wf_set k b ht) _ _ _ hb
  · exact foldl_keeps (fun t : Tbl Bool => t.wf false = true) _ (fun t u ht => Tbl.wf_set u _ ht) _ _ hp

theorem Core.memWf_writeLines {k : Core} (l : Nat) (bs : List Byte) (h : k.memWf = true) : (k.writeLines l bs).memWf = true :=
  Core.memWf_writeScratch _ _ h

namespace State

/-! ## The parts of the canonical form -/

theorem memWf_iff {s : State} : s.memWf = true ↔
    s.dram.bytes.rising = true ∧ s.dram.poison.rising = true ∧ s.host.bytes.rising = true ∧ s.host.poison.rising = true ∧
    s.objs.rising = true ∧ ∀ k ∈ s.cores.toList, k.memWf = true := by
  simp only [memWf, Bool.and_eq_true, List.all_eq_true, and_assoc]

/-- Only these four fields matter. -/
theorem memWf_of_eq {s t : State} (h : s.memWf = true) (hd : t.dram = s.dram) (hh : t.host = s.host) (ho : t.objs = s.objs)
    (hc : t.cores = s.cores) : t.memWf = true := by
  rw [memWf_iff] at h ⊢
  rw [hd, hh, ho, hc]
  exact h

/-- A change of one core keeps the form if it keeps that core's. -/
theorem memWf_modCore {s : State} (c : Nat) (f : Core → Core) (h : s.memWf = true) (hf : ∀ k, k.memWf = true → (f k).memWf = true) :
    (s.modCore c f).memWf = true := by
  obtain ⟨h1, h2, h3, h4, h5, h6⟩ := memWf_iff.1 h
  refine memWf_iff.2 ⟨h1, h2, h3, h4, h5, ?_⟩
  intro k hk
  by_cases hc : c < 176
  · simp only [modCore, vmod, hc, dif_pos, Vector.toList_set] at hk
    rcases List.mem_or_eq_of_mem_set hk with hk | rfl
    · exact h6 k hk
    · exact hf _ (h6 _ (by simp))
  · simp only [modCore, vmod, hc, dif_neg, not_false_iff] at hk
    exact h6 k hk

/-! ## DRAM -/

/-- A write of cells keeps it. -/
theorem memWf_dramWrite {s : State} (a : Nat) (cs : List Cell) (h : s.memWf = true) : (s.dramWrite a cs).memWf = true := by
  obtain ⟨h1, h2, h3, h4, h5, h6⟩ := memWf_iff.1 h
  refine memWf_iff.2 ⟨?_, ?_, h3, h4, h5, h6⟩
  · exact Mem.putBytes_keeps (fun t => t.rising = true) (fun t k b => t.put k b) (fun t k b ht => Tbl.rising_put k b ht) _ _ _ h1
  · exact foldl_keeps (fun t : Tbl Bool => t.rising = true) _ (fun t u ht => Tbl.rising_put u _ ht) _ _ h2

/-! ## Host memory -/

theorem memWf_hostPut {s : State} (a : Nat) (bs : List Byte) (h : s.memWf = true) : (s.hostPut a bs).memWf = true := by
  obtain ⟨h1, h2, h3, h4, h5, h6⟩ := memWf_iff.1 h
  refine memWf_iff.2 ⟨h1, h2, ?_, ?_, h5, h6⟩
  · exact Mem.putBytes_keeps (fun t => t.rising = true) (fun t k b => t.put k b) (fun t k b ht => Tbl.rising_put k b ht) _ _ _ h3
  · have := Mem.putBytes_poison (fun t k b => t.put k b) bs s.host a
    simp only [hostPut, this, h4]

theorem memWf_emit {s : State} (o : Out) (h : s.memWf = true) : (s.emit o).memWf = true := memWf_of_eq h rfl rfl rfl rfl

theorem memWf_hostWrite {s : State} (a : Nat) (cs : List Cell) (h : s.memWf = true) : (s.hostWrite a cs).memWf = true := by
  refine foldl_keeps (fun s : State => s.memWf = true) _ (fun s u hs => ?_) _ _ h
  simp only []
  split
  · exact memWf_emit _ hs
  · exact memWf_hostPut _ _ hs

theorem memWf_withEnv {s : State} (x : Env) (h : s.memWf = true) : (s.withEnv x).memWf = true :=
  foldl_keeps (fun s : State => s.memWf = true) _ (fun _ _ hs => memWf_hostPut _ _ hs) _ _ h

/-! ## ECC errors, loads and stores -/

theorem memWf_freeCopy {s : State} (a : Nat) (h : s.memWf = true) : (s.freeCopy a).memWf = true := memWf_of_eq h rfl rfl rfl rfl

theorem memWf_poisonRange {s : State} (a n : Nat) (h : s.memWf = true) : (s.poisonRange a n).memWf = true := by
  obtain ⟨h1, h2, h3, h4, h5, h6⟩ := memWf_iff.1 h
  exact memWf_iff.2 ⟨h1, foldl_keeps (fun t : Tbl Bool => t.rising = true) _ (fun t u ht => Tbl.rising_put _ _ ht) _ _ h2, h3, h4, h5, h6⟩

theorem memWf_objs {s : State} (t : Tbl Obj) (h : s.memWf = true) (ht : t.rising = true) : ({ s with objs := t } : State).memWf = true := by
  obtain ⟨h1, h2, h3, h4, _, h6⟩ := memWf_iff.1 h
  exact memWf_iff.2 ⟨h1, h2, h3, h4, ht, h6⟩

theorem memWf_mapObjs {s : State} (f : Nat → Obj → Obj) (h : s.memWf = true) : ({ s with objs := s.objs.mapVals f } : State).memWf = true :=
  memWf_objs _ h (Tbl.rising_mapVals _ (memWf_iff.1 h).2.2.2.2.1)

theorem memWf_dramUe {s : State} (u : Nat) (h : s.memWf = true) : (s.dramUe u).memWf = true := by
  have keep (l : List Nat) (t : State) (ht : t.memWf = true) : (l.foldl freeCopy t).memWf = true :=
    foldl_keeps (fun s : State => s.memWf = true) _ (fun _ _ hs => memWf_freeCopy _ hs) _ _ ht
  have spoil (l : List (Nat × Nat)) (t : State) (ht : t.memWf = true) : (l.foldl (fun s p => s.poisonRange p.1 p.2) t).memWf = true :=
    foldl_keeps (fun s : State => s.memWf = true) _ (fun _ _ hs => memWf_poisonRange _ _ hs) _ _ ht
  have h0 : ({ s with dram := { s.dram with poison := s.dram.poison.put (u / 64 * 64) true } } : State).memWf = true := by
    obtain ⟨h1, h2, h3, h4, h5, h6⟩ := memWf_iff.1 h
    exact memWf_iff.2 ⟨h1, Tbl.rising_put _ _ h2, h3, h4, h5, h6⟩
  unfold dramUe
  exact memWf_mapObjs _ (spoil _ _ (keep _ _ (memWf_of_eq h0 (by simp [pulse]) (by simp [pulse]) (by simp [pulse]) (by simp [pulse]))))

theorem memWf_meetEcc {s : State} (x : Env) (a n : Nat) (h : s.memWf = true) : (s.meetEcc x a n).memWf = true := by
  refine foldl_keeps (fun s : State => s.memWf = true) _ (fun s e hs => ?_) _ _ h
  simp only []
  split
  · exact hs
  · split
    · split
      · exact memWf_dramUe _ hs
      · exact memWf_of_eq hs rfl rfl rfl rfl
    · refine memWf_modCore _ _ hs fun k hk => ?_
      split
      · obtain ⟨hb, hp⟩ := Core.memWf_iff.1 hk
        exact Core.memWf_iff.2 ⟨hb, Tbl.wf_set _ _ hp⟩
      · exact hk
    · exact hs

theorem memWf_load {s : State} (x : Env) (rs : Tbl Region) (a n : Nat) (h : s.memWf = true) : (s.load x rs a n).2.memWf = true := by
  have hm := memWf_meetEcc x a n h
  unfold load
  simp only []
  split
  · exact memWf_of_eq hm rfl rfl rfl rfl
  · exact hm
  · split
    · exact memWf_of_eq hm rfl rfl rfl rfl
    · exact hm
  · exact hm

theorem memWf_store {s : State} (rs : Tbl Region) (a : Nat) (cs : List Cell) (h : s.memWf = true) : (s.store rs a cs).memWf = true := by
  unfold store
  split
  · exact memWf_dramWrite _ _ (memWf_of_eq h rfl rfl rfl rfl)
  · exact memWf_modCore _ _ h fun k hk => Core.memWf_writeScratch _ _ hk
  · exact memWf_hostWrite _ _ h
  · exact h

/-! ## The object map, and the machine after reset -/

/-- Putting and removing an object keeps the map rising. -/
theorem memWf_putObj {s : State} (oid : Nat) (o : Obj) (h : s.memWf = true) : ({ s with objs := s.objs.put oid o } : State).memWf = true :=
  memWf_objs _ h (Tbl.rising_put _ _ (memWf_iff.1 h).2.2.2.2.1)

theorem memWf_dropObj {s : State} (oid : Nat) (h : s.memWf = true) : ({ s with objs := s.objs.drop oid } : State).memWf = true :=
  memWf_objs _ h (Tbl.rising_drop _ (memWf_iff.1 h).2.2.2.2.1)

/-- The memories of the machine right after reset are in their canonical form. -/
theorem memWf_reset : State.reset.memWf = true := by
  refine memWf_iff.2 ⟨rfl, rfl, rfl, rfl, rfl, ?_⟩
  intro k hk
  simp only [State.reset, tabulate, Vector.toList, List.mem_map, List.mem_range] at hk
  obtain ⟨c, _, rfl⟩ := hk
  rfl

end State
end Sys2Proof.Machine
end

