-- ==== Sys2Proof/WellFormed.lean ====
section
/-!
DEFINITION. Well-formed commands: the operands that the outside world can give. The types bound most operands; the checks here
bound the rest (lengths of lists that stand for a fixed number of units, addresses, sizes of blocks).
-/
namespace Sys2Proof

/-- A host memory chunk lies within the 64-bit address space; an ECC error names the first byte of a 64-byte unit of the
48-bit device address space (R146, R153). -/
def Env.wf (x : Env) : Bool :=
  x.host.all (fun p => decide (p.1 + p.2.length ≤ 2 ^ 64)) &&
  x.ecc.all (fun h => decide (h.unit % 64 = 0 ∧ h.unit < 2 ^ 48))

/-- LEN of a frame is a multiple of 16 up to 512, in COLL frames from 16 to 528 (R210). -/
def Frame.wf (f : Frame) : Bool :=
  f.payload.length % 16 == 0 &&
  (if f.type = 6 then decide (16 ≤ f.payload.length ∧ f.payload.length ≤ 528) else decide (f.payload.length ≤ 512))

/-- A digest message names at most 4,096 shards (R104, R140). -/
def PeerDigests.wf (p : PeerDigests) : Bool := decide (p.digests.length ≤ 4096)

/-- A start-up unit belongs to a class of Table 10-3. -/
def UnitId.wf (u : UnitId) : Bool := decide (u.cls.toNat ≤ 0x0A)

/-- One reading for each compute die (R394). -/
def PowerReading.wf (r : PowerReading) : Bool := r.compute.length == 22

/-- One temperature for each die, DIMM channel and flash die (Table 11-7). -/
def Temperatures.wf (t : Temperatures) : Bool := t.dies.length == 40 && t.dimms.length == 16 && t.flash.length == 4

/-- The operands of a command are ones that the outside world can give. -/
def Instr.wf : Instr → Bool
  | .operationFetch _ x | .ldsLastRow _ x | .accldLastLine _ x | .anchPlaced _ x | .quantDone _ x | .moveVisible _ _ x
  | .stepGrant _ x | .scalePassExecute _ x | .stepSubmit _ x | .sepSegment _ x | .objGenerationCommit _ x
  | .deferredTakesEffect _ x | .almanacDelivery _ x | .collective _ x | .reshard _ x | .reshardAbandon _ x | .skimQuery _ x
  | .skimScanDone _ x | .serveSubmit _ x | .commandFetch _ x | .identify _ x | .telemetry _ x | .logRead _ x | .headings _ x
  | .objWrite _ x | .objRead _ x | .objPromote _ x | .jobLoad _ x | .dma _ x | .restore _ x | .exportState _ x | .claim _ x
  | .transfer _ x | .release _ x | .policy _ x | .debugUnlock _ x | .debugLock _ x => x.wf
  | .ack _ f | .nak _ f | .credit _ f | .keyUpdate _ f | .openMsg _ f | .openAck _ f | .stale _ f | .close _ f | .removed _ f
  | .qcredit _ f | .data _ f | .postFrame _ f | .coll _ f | .sealFrame _ f | .mcast _ f => f.wf
  | .digestExchangeDone _ ps => ps.all PeerDigests.wf
  | .fix _ ps x => ps.all PeerDigests.wf && x.wf
  | .startupAttempt st u _ => decide (1 ≤ st.val) && u.wf
  | .startupWatchdog u _ => u.wf
  | .helmSample r => r.wf
  | .thermalCheck t => t.wf
  | .pcieLinkChange up w _ => !up || (w == 1 || w == 2 || w == 4 || w == 8)
  | .ownerBlock b => decide (b.length ≤ 4096)
  | _ => true

end Sys2Proof
end

