-- ==== Sys2Proof/Tests/Slice0.lean ====
section
/-!
SUPPORT. Small tests: ill-formed commands that the checks refuse, words of core operations written out from Tables 1-9 to 1-18,
and, for each statement with hypotheses, a state and operands that meet them, with what the command then does as the spec says it.
-/
namespace Sys2Proof.Tests
open Sys2Proof Sys2Proof.Machine

set_option Elab.async false

/-! ## Helpers -/

/-- Nothing comes from outside. -/
def quiet : Env := { host := [], hostErr := none, ecc := [] }

/-- The state that a command leaves; the state before it where it stops. -/
def after (i : Instr) (s : State) : State := match exec i s with | .next t => t | _ => s

/-- A command answers a next state. -/
def goes (i : Instr) (s : State) : Bool := match exec i s with | .next _ => true | _ => false

/-- A powered module in READY: 8 GB in each of eight channels. -/
def up : State :=
  let s := State.reset
  { s with
    bar := { s.bar with mode := .ready, linkUp := true, cfgServed := true }
    power := { s.power with p40v := true, standby := true, rails := true, dimmRail := true, flashRail := true, wpN := false
                            perst := false }
    mems := Vector.replicate 4 { (s.memDie 0) with dimmGB := 8, populated := 3, inService := 3 } }

/-- Core 0 in RUN in a phase, with operations fetched from operation address 0. -/
def fetched (s : State) (phase : BitVec 3) (ops : List CoreOp) : State :=
  s.modCore 0 fun k =>
    { k with
      regs := { k.regs with mode := .run, phase := phase }
      pipe := { k.pipe with fetch := ops.zipIdx.map fun p => { addr := p.2, word := encodeOp p.1, bad := none }
                            fetchPc := ops.length } }

/-- Core 0 of a powered module runs these operations. -/
def busy (ops : List CoreOp) : State := fetched up 1 ops

/-- `CoreIssues` as a check. -/
def issues (s : State) (c : Nat) (op : CoreOp) (pc : Nat) (rest : List Fetched) : Bool :=
  decide ((s.core c).regs.mode = .run) && (s.core c).pipe.held.isNone && (s.core c).pipe.faulting.isNone &&
  (match (s.core c).pipe.fetch with
    | f :: r => decide (r = rest ∧ f.addr = pc ∧ f.bad = none) && (match decodeOp f.word with | .ok o => decide (o = op) | _ => false)
    | [] => false) && (s.core c).room op && (s.core c).issueFault op == none

theorem issues_sound {s : State} {c : Nat} {op : CoreOp} {pc : Nat} {rest : List Fetched} (h : issues s c op pc rest = true) :
    CoreIssues s c op pc rest := by
  simp only [issues, Bool.and_eq_true, decide_eq_true_eq, beq_iff_eq, Option.isNone_iff_eq_none] at h
  obtain ⟨⟨⟨⟨⟨h1, h2⟩, h3⟩, h4⟩, h5⟩, h6⟩ := h
  refine ⟨⟨h1, h2, h3, ?_⟩, h5, h6⟩
  split at h4
  · next f r hf =>
    simp only [Bool.and_eq_true, decide_eq_true_eq] at h4
    obtain ⟨⟨rfl, h8, h9⟩, h10⟩ := h4
    split at h10
    · next o ho => exact ⟨f, hf, h8, h9, by rw [ho]; simpa using h10⟩
    · simp at h10
  · simp at h4

/-! ## Words of core operations, written out from Tables 1-9 to 1-18 -/

/-- The operation that 128 bits decode to. -/
def opOf (w : BitVec 128) : Option CoreOp := match decodeOp w with | .ok o => some o | .error _ => none

/-- The cause with which 128 bits are refused. -/
def badOf (w : BitVec 128) : Option CoreCause := match decodeOp w with | .ok _ => none | .error e => some e

theorem test_word_nop : opOf 0x00000000000000000000000000000000 = some (.nop) := by decide
theorem test_word_end : opOf 0x01000000000000000000000000000000 = some (.endOp) := by decide
theorem test_word_sync : opOf 0x02000000000000000000000000000000 = some (.sync) := by decide
theorem test_word_jump : opOf 0x0300000000000000000000000005ffff = some (.jump 0x5FFFF) := by decide
theorem test_word_phase : opOf 0x04000000000000000000000000000007 = some (.phase 7) := by decide
theorem test_word_wait : opOf 0x080000000000000000000000013fffff = some (.wait true 63 0xFFFF) := by decide
theorem test_word_post : opOf 0x090000000000000000000000af050002 = some (.post 0xAF 5 2) := by decide
theorem test_word_lds : opOf 0x10b234555e6c90000000000000000000 = some (.lds { bank := true, fmt := .g8, addr := 0x12345, saddr := 0x0ABCD, post := some 9 }) := by decide
theorem test_word_accld : opOf 0x11a00020ffffc0000000000000000000 = some (.accld { narrow := true, dir := false, addr := 0x10001, taddr := 0x00FFF, post := some 62 }) := by decide
theorem test_word_anch : opOf 0x18c01fffffff00018000000000000000 = some (.anch { scan := true, anchor := 0x200, saAddr := 0x1FFFF, saLines := 4095, sbAddr := 3, sbLines := 0 }) := by decide
theorem test_word_pass : opOf 0x20b8c103f00080008000600040000000 = some (.pass { mode := .statCol, bank := true, clr := true, fmtA := .h16, fmtB := .f8, sxe := true, post := some 1, steps := 64, aAddr := 0x10, saAddr := 0x20, bAddr := 0x30, sbAddr := 0x40 }) := by decide
theorem test_word_drain : opOf 0x28c00038002000120000000000000000 = some (.drain { dir := true, form := .h16, addr := 7, saddr := 8, taddr := 9, post := none }) := by decide
theorem test_word_quant : opOf 0x302e000000100010000c000984000000 = some (.quant { ifmt := .narrow, ofmt := .g8, rows := 4096, src := 1, dst := 2, sdst := 3, taddr := 4, post := some 33 }) := by decide
theorem test_word_move : opOf 0x40ffffffffc080000000004085ff1000 = some (.move { inbound := true, len := 65536, laddr := 0x7FFFC0, raddr := 0x800000000040, post := some 2, remote := some (0xFF, 4) }) := by decide

/-- R50: the opcode 0x05 stands in no row of Table 1-9. -/
theorem test_word_illegal_opcode : badOf 0x05000000000000000000000000000000 = some .illegalOpcode := by decide
/-- R50: a reserved bit of NOP, bit 0, is not zero. -/
theorem test_word_reserved_bit : badOf 0x00000000000000000000000000000001 = some .illegalField := by decide
/-- Table 1-12: FMT = 0b11 is no format. -/
theorem test_word_bad_format : badOf 0x10600000000000000000000000000000 = some .illegalField := by decide
/-- Table 1-15: BANK of an outer-product PASS is zero. -/
theorem test_word_outer_bank : badOf 0x20200000000000000000000000000000 = some .illegalField := by decide
/-- Table 1-15: STEPS of a stationary PASS is at most 63; here it is 64. -/
theorem test_word_stationary_steps : badOf 0x20400004000000000000000000000000 = some .illegalField := by decide
/-- Table 1-17: ROWS is at least 1. -/
theorem test_word_quant_rows : badOf 0x30040000000000000000000000000000 = some .illegalField := by decide

/-! ## Ill-formed commands -/

/-- A frame with nothing in it. -/
def frame0 (type : BitVec 4) (payload : List Byte) : Frame :=
  { type := type, lowlat := false, vc := false, seq := 0, ack := 0, dst := 0, src := 0, cred := 0, pool := 0, stream := 0, epoch := 0,
    verdict := false, last := false, poison := false, enc := true, keyphase := false, op := 0, offset := 0, frno := 0,
    payload := payload, rsv := false, fecBad := false, fecFixed := 0, crcOk := true, tagOk := true }

theorem test_wf_host_past_end : (Instr.identify 0 { quiet with host := [(2 ^ 64 - 1, [0, 0])] }).wf = false := by decide
theorem test_wf_host_at_end : (Instr.identify 0 { quiet with host := [(2 ^ 64 - 1, [0])] }).wf = true := by decide
theorem test_wf_ecc_unit : (Instr.operationFetch 0 { quiet with ecc := [{ unit := 32, ue := true }] }).wf = false := by decide
theorem test_wf_ecc_address : (Instr.operationFetch 0 { quiet with ecc := [{ unit := 2 ^ 48, ue := true }] }).wf = false := by decide
theorem test_wf_frame_multiple : (Instr.data 0 (frame0 4 (Bytes.zeros 17))).wf = false := by decide
theorem test_wf_frame_length : (Instr.data 0 (frame0 4 (Bytes.zeros 528))).wf = false := by decide +kernel
theorem test_wf_coll_length : (Instr.coll 0 (frame0 6 (Bytes.zeros 528))).wf = true := by decide +kernel
theorem test_wf_coll_empty : (Instr.coll 0 (frame0 6 [])).wf = false := by decide
theorem test_wf_digests :
    (Instr.digestExchangeDone 0 [{ node := 0, step := 0, digests := List.replicate 4097 0 }]).wf = false := by decide +kernel
theorem test_wf_fix_digests :
    (Instr.fix 0 [{ node := 0, step := 0, digests := List.replicate 4097 0 }] quiet).wf = false := by decide +kernel
theorem test_wf_unit : (Instr.startupAttempt 1 { cls := 0x0B, idx := 0 } { ok := true, cause := 0, detail := 0 }).wf = false := by decide
theorem test_wf_step_zero : (Instr.startupAttempt 0 { cls := 0, idx := 0 } { ok := true, cause := 0, detail := 0 }).wf = false := by decide
theorem test_wf_watchdog_unit : (Instr.startupWatchdog { cls := 0x0B, idx := 0 } false).wf = false := by decide
theorem test_wf_helm_dies : (Instr.helmSample { input := 0, dimm := 0, flash := 0, other := 0, compute := [] }).wf = false := by decide
theorem test_wf_temperatures : (Instr.thermalCheck { dies := List.replicate 40 0, dimms := List.replicate 16 0, flash := [] }).wf = false := by
  decide
theorem test_wf_link_width : (Instr.pcieLinkChange true 3 5).wf = false := by decide
theorem test_wf_owner_block : (Instr.ownerBlock (Bytes.zeros 4097)).wf = false := by decide +kernel


/-! ## Chapter 1: the Churn core -/

def lds0 : LdsOp := { bank := true, fmt := .f8, addr := 64, saddr := 128, post := some 3 }
def accld0 : AccldOp := { narrow := true, dir := false, addr := 64, taddr := 320, post := some 3 }
def anch0 : AnchOp := { scan := false, anchor := 5, saAddr := 0, saLines := 0, sbAddr := 0, sbLines := 0 }
def pass0 : PassOp :=
  { mode := .outer, bank := false, clr := true, fmtA := .f8, fmtB := .f8, sxe := false, post := some 3, steps := 1, aAddr := 0,
    saAddr := 1, bAddr := 2, sbAddr := 3 }
def drain0 : DrainOp := { dir := false, form := .narrow, addr := 512, saddr := 0, taddr := 1024, post := some 4 }
def quant0 : QuantOp := { ifmt := .h16, ofmt := .h16, rows := 1, src := 0, dst := 8, sdst := 0, taddr := 0, post := some 4 }
def move0 : MoveOp := { inbound := false, len := 64, laddr := 0, raddr := 0x10000000000, post := none, remote := none }
/-- A tile that a PASS opened. -/
def tile1 : Tile := State.newTile 1 false []
/-- Change core 0. -/
def core0 (s : State) (f : Core → Core) : State := s.modCore 0 f

/-- R20: NOP has no effect beyond its issue. -/
theorem test_nop : CoreIssues (busy [.nop]) 0 .nop 0 [] ∧
    (after (.nop 0) (busy [.nop])).core 0 = ((busy [.nop]).core 0).took [] := ⟨issues_sound (by decide +kernel), by decide +kernel⟩
/-- R53, at the last operation address. -/
theorem test_jump : CoreIssues (busy [.jump 0x5FFFF, .nop]) 0 (.jump 0x5FFFF) 0 [⟨1, 0, none⟩] ∧
    ((after (.jump 0) (busy [.jump 0x5FFFF, .nop])).core 0).pipe.fetchPc = 0x5FFFF ∧
    ((after (.jump 0) (busy [.jump 0x5FFFF, .nop])).core 0).pipe.fetch = [] := ⟨issues_sound (by decide +kernel), by decide +kernel⟩
/-- R46: the semaphore holds exactly COUNT. -/
theorem test_wait_met :
    let s := core0 (busy [.wait false 63 2]) fun k => k.setSem 63 2
    CoreIssues s 0 (.wait false 63 2) 0 [] ∧ ((after (.wait 0) s).core 0).sem 63 = 0 ∧ ((after (.wait 0) s).core 0).pipe.held = none :=
  ⟨issues_sound (by decide +kernel), by decide +kernel⟩
/-- R46: one less than COUNT holds the WAIT. -/
theorem test_wait_held :
    let s := core0 (busy [.wait false 63 2]) fun k => k.setSem 63 1
    CoreIssues s 0 (.wait false 63 2) 0 [] ∧ ((after (.wait 0) s).core 0).sem 63 = 1 ∧
    (((after (.wait 0) s).core 0).pipe.held.map Held.op) = some (.wait false 63 2) := ⟨issues_sound (by decide +kernel), by decide +kernel⟩
/-- R26: END on a core with nothing in progress enters IDLE and sets DONE. -/
theorem test_end : CoreIssues (busy [.endOp]) 0 .endOp 0 [] ∧ ((after (.endOp 0) (busy [.endOp])).core 0).regs.mode = .idle ∧
    ((after (.endOp 0) (busy [.endOp])).core 0).regs.done = true ∧ ((after (.endOp 0) (busy [.endOp])).core 0).regs.doneCnt = 1 :=
  ⟨issues_sound (by decide +kernel), by decide +kernel⟩
/-- Table 1-4: SYNC waits for a QUANT in progress. -/
theorem test_sync :
    let s := core0 (busy [.sync]) fun k => { k with pipe := { k.pipe with quantQ := [{ seq := 0, pc := 0, tile := 0, op := quant0 }] } }
    CoreIssues s 0 .sync 0 [] ∧ (((after (.sync 0) s).core 0).pipe.held.map Held.op) = some .sync ∧
    (((after (.quantDone 0 quiet) (after (.sync 0) s)).core 0).pipe.held) = none := ⟨issues_sound (by decide +kernel), by decide +kernel⟩
/-- R44: PHASE writes CORE_PHASE. -/
theorem test_phase : CoreIssues (busy [.phase 7]) 0 (.phase 7) 0 [] ∧
    ((after (.phase 0) (busy [.phase 7])).core 0).regs.phase = 7 := ⟨issues_sound (by decide +kernel), by decide +kernel⟩
/-- R48: a POST to this core adds COUNT. -/
theorem test_post_self :
    let s := core0 (busy [.post 0xFF 5 2]) fun k => k.setSem 5 0xFFFD
    CoreIssues s 0 (.post 0xFF 5 2) 0 [] ∧ ((after (.post 0) s).core 0).sem 5 = 0xFFFF ∧
    ((after (.post 0) s).core 0).pipe.faulting = none := ⟨issues_sound (by decide +kernel), by decide +kernel⟩
/-- R48: a POST to another core is on its way until it is delivered. -/
theorem test_post_other :
    let s := after (.post 0) (busy [.post 0xAF 5 2])
    CoreIssues (busy [.post 0xAF 5 2]) 0 (.post 0xAF 5 2) 0 [] ∧ s.posts.length = 1 ∧ (s.core 0xAF).sem 5 = 0 ∧
    ((after (.remotePostDelivery 0) s).core 0xAF).sem 5 = 2 ∧ (after (.remotePostDelivery 0) s).posts = [] :=
  ⟨issues_sound (by decide +kernel), by decide +kernel⟩
/-- R24: the core keeps the latest LDS of a bank. -/
theorem test_lds_issue : CoreIssues (busy [.lds lds0]) 0 (.lds lds0) 0 [] ∧
    ((after (.lds 0) (busy [.lds lds0])).core 0).pipe.lastLds.find? 1 = some { seq := 0, pc := 0, tile := 0, op := lds0 } ∧
    ((after (.lds 0) (busy [.lds lds0])).core 0).pipe.loadQ.length = 1 := ⟨issues_sound (by decide +kernel), by decide +kernel⟩
/-- R23: ACCLD opens a tile. -/
theorem test_accld_issue : CoreIssues (busy [.accld accld0]) 0 (.accld accld0) 0 [] ∧
    (((after (.accld 0) (busy [.accld accld0])).core 0).arr.tiles.map Tile.id) = [1] := ⟨issues_sound (by decide +kernel), by decide +kernel⟩
/-- R33. -/
theorem test_anch_issue : CoreIssues (busy [.anch anch0]) 0 (.anch anch0) 0 [] ∧
    ((after (.anch 0) (busy [.anch anch0])).core 0).pipe.anchSince = true := ⟨issues_sound (by decide +kernel), by decide +kernel⟩
/-- R33, R52: a PASS with CLR = 1 after an ANCH opens a tile; without one it faults with NO_ANCHOR. -/
theorem test_pass_issue :
    let s := core0 (busy [.pass pass0]) fun k => { k with pipe := { k.pipe with anchSince := true } }
    CoreIssues s 0 (.pass pass0) 0 [] ∧ (((after (.pass 0) s).core 0).arr.tiles.map Tile.id) = [1] ∧
    ((after (.pass 0) s).core 0).pipe.anchSince = false ∧
    ((after (.pass 0) (busy [.pass pass0])).core 0).regs.faultCause = 0x07 := ⟨issues_sound (by decide +kernel), by decide +kernel⟩
/-- R52: a DRAIN ends the open tile. -/
theorem test_drain_issue :
    let s := core0 (busy [.drain drain0]) fun k => { k with arr := { k.arr with tileNext := 1, tiles := [tile1] } }
    CoreIssues s 0 (.drain drain0) 0 [] ∧ (((after (.drain 0) s).core 0).arr.tiles.map Tile.drained) = [true] :=
  ⟨issues_sound (by decide +kernel), by decide +kernel⟩
theorem test_quant_issue : CoreIssues (busy [.quant quant0]) 0 (.quant quant0) 0 [] ∧
    ((after (.quant 0) (busy [.quant quant0])).core 0).pipe.quantQ.length = 1 := ⟨issues_sound (by decide +kernel), by decide +kernel⟩
theorem test_move_issue : CoreIssues (busy [.move move0]) 0 (.move move0) 0 [] ∧
    ((after (.move 0) (busy [.move move0])).core 0).pipe.moveQ.length = 1 := ⟨issues_sound (by decide +kernel), by decide +kernel⟩
/-- A core 0 in RUN. -/
def running (f : Core → Core) : State := core0 (busy []) f
/-- Nothing is in progress. -/
theorem test_quiet : CoreQuiet (busy []) 0 := ⟨by decide +kernel, by decide +kernel⟩
/-- R42: a WAIT with BAR = 1 on core 1, whose stagger group is 1, is held 64 arith cycles more. -/
theorem test_wait_stagger :
    let s := up.modCore 1 fun k => { k with
      regs := { k.regs with mode := .run }
      pipe := { k.pipe with fetch := [⟨0, encodeOp (.wait true 0 0), none⟩], fetchPc := 1 } }
    CoreIssues s 1 (.wait true 0 0) 0 [] ∧ ((after (.wait 1) s).core 1).pipe.held.map Held.stagger = some (some 64) ∧
    ((after (.staggerRelease 1) ((after (.wait 1) s).modCore 1 fun k => { k with pipe := { k.pipe with
        held := k.pipe.held.map fun h => { h with stagger := some 0 } } })).core 1).pipe.held = none :=
  ⟨issues_sound (by decide +kernel), by decide +kernel⟩
/-- R16: fetch takes two operations where the buffer has room for both; the second lies past the last operation address. -/
theorem test_operation_fetch :
    let s := running fun k => { k with pipe := { k.pipe with fetchPc := 0x5FFFF } }
    (s.core 0).pipe.fetch.length ≤ 14 ∧ ((after (.operationFetch 0 quiet) s).core 0).pipe.fetch.map Fetched.bad = [none, some .addrRange] ∧
    ((after (.operationFetch 0 quiet) s).core 0).pipe.fetchPc = 0x60001 := by decide +kernel
/-- R19: an operation of a poisoned line faults when it would issue, with the core quiet at once. -/
theorem test_poisoned_operation :
    let s := after (.operationFetch 0 quiet) (running fun k => { k with scratch := { k.scratch with poison := k.scratch.poison.put 0 true } })
    (s.core 0).regs.mode = .fault ∧ (s.core 0).regs.faultCause = 0x0E ∧ (s.core 0).regs.faultPc = 0 := by decide +kernel
/-- R50: an illegal opcode faults the core when it settles, with its address. -/
theorem test_illegal_opcode_faults :
    let s := running fun k => { k with pipe := { k.pipe with fetch := [⟨7, 0x05#128 <<< 120, none⟩], fetchPc := 8 } }
    CoreQuiet s 0 ∧ (s.core 0).regs.faultCause = 0 ∧ ((s.settle 0).core 0).regs.faultPc = 7 ∧ ((s.settle 0).core 0).regs.faultCause = 1 :=
  ⟨⟨by decide +kernel, by decide +kernel⟩, by decide +kernel⟩
/-- R21: the last row of an LDS makes its bank valid. -/
theorem test_lds_last_row :
    let s := running fun k => { k with pipe := { k.pipe with loadQ := [{ seq := 0, pc := 0, tile := 0, op := .lds lds0 }] } }
    (s.core 0).portHeld = false ∧ (s.core 0).ldsFree 0 true = true ∧ (∀ l ∈ unread (s.core 0).pipe.loadBuf (ldsLines lds0), (s.core 0).scratch.poison.get false (64 * l) = false) ∧
    (((after (.ldsLastRow 0 quiet) s).core 0).bank true).valid = true ∧
    ((after (.ldsLastRow 0 quiet) s).core 0).pipe.unretired.map Unretired.post = [some 3] := by decide +kernel
/-- Groups that bring nothing land. -/
theorem lands_zeros (anchor : Int) : ∀ gs : List (Nat × List Val),
    (∀ g ∈ gs, ∃ d, Acc.zero.addGroup anchor g.2 = some (Acc.zero, d)) → (landGroups anchor Tbl.empty gs).isSome = true
  | [], _ => rfl
  | (i, ps) :: gs, h => by
    obtain ⟨d, hd⟩ := h (i, ps) (by simp)
    have ih := lands_zeros anchor gs fun g hg => h g (by simp [hg])
    have h1 : (Tbl.empty : Tbl Acc).get Acc.zero i = Acc.zero := rfl
    have h2 : (Tbl.empty : Tbl Acc).set Acc.zero i Acc.zero = Tbl.empty := by simp [Tbl.set, Tbl.drop, Tbl.empty, Tbl.dropIn]
    unfold landGroups
    rw [h1, hd]
    simp only [h2]
    revert ih
    cases landGroups anchor Tbl.empty gs <;> simp
/-- A scratchpad that nothing has written reads as zeros. -/
theorem scratch_zeros (k : Core) (h : k.scratch = Mem.empty) (a n : Nat) : cellBytes (k.readScratch a n) = List.replicate n 0 := by
  rw [List.eq_replicate_iff]
  simp [cellBytes, Core.readScratch, Mem.cells, Mem.byteAt, h, Mem.empty, Tbl.find?, Tbl.empty, Tbl.findIn]
/-- No line has been read. -/
theorem no_line (l : Nat) : (Tbl.empty : Tbl (List Byte)).find? l = none := rfl
/-- R86: a partial of zeros is loaded at its trailer's anchor, 0. -/
theorem test_accld_last_line :
    let s := running fun k => { k with
      pipe := { k.pipe with loadQ := [{ seq := 0, pc := 0, tile := 1, op := .accld accld0 }] }, arr := { k.arr with tiles := [tile1] } }
    (s.core 0).accldFree 0 = true ∧ (loadPartial (s.core 0) Tbl.empty accld0 (trailerAnchor (viewLine (s.core 0) Tbl.empty 320))).isSome = true := by
  refine ⟨by decide +kernel, ?_⟩
  have ha : trailerAnchor (viewLine ((running fun k => { k with
      pipe := { k.pipe with loadQ := [{ seq := 0, pc := 0, tile := 1, op := .accld accld0 }] }, arr := { k.arr with tiles := [tile1] } }).core 0) Tbl.empty
        320) = 0 := by decide +kernel
  unfold loadPartial
  rw [ha]
  apply lands_zeros
  intro g hg
  simp only [List.mem_map, List.mem_range] at hg
  obtain ⟨i, -, rfl⟩ := hg
  exact ⟨0, by
    simp only [partialVal, no_line]
    rw [scratch_zeros _ rfl]
    decide +kernel⟩
/-- R33: the immediate anchor becomes pending. -/
theorem test_anch_placed :
    let s := running fun k => { k with pipe := { k.pipe with anchQ := some { seq := 0, pc := 0, tile := 0, op := anch0 } } }
    (s.core 0).arr.pend = none ∧ ((after (.anchPlaced 0 quiet) s).core 0).arr.pend = some (.imm 5) := by decide +kernel
/-- R78: SCAN takes the largest scale codes of both sides, here 0x81 and none (127). -/
theorem test_anch_scan :
    let s := running fun k => { (k.writeScratch 0 [(0x81, false), (0xFF, false)]) with pipe := { k.pipe with
      anchQ := some { seq := 0, pc := 0, tile := 0, op := { anch0 with scan := true, saAddr := 0, saLines := 1, sbAddr := 4, sbLines := 0 } } } }
    ((after (.anchPlaced 0 quiet) s).core 0).arr.pend = some (.scan 2) := by decide +kernel
/-- R40: a grant with nothing ready pays for a dummy step. -/
theorem test_grant_dummy :
    let s := running fun k => { k with arr := { k.arr with credit := 8 } }
    State.nextStep (s.core 0) = none ∧ ((after (.stepGrant 0 quiet) s).core 0).arr.credit = 0 := by decide +kernel
/-- R11: a granted step of a begun pass broadcasts its vectors. -/
theorem test_grant_step :
    let s := running fun k => { k with
      arr := { k.arr with credit := 15, tiles := [tile1] }
      pipe := { k.pipe with arrayQ := [{ seq := 0, pc := 0, tile := 1, op := pass0, begun := true, next := 0, sub := 0, sa := [], sb := [], redo := false }] } }
    (∀ l ∈ stepLines pass0 0 ++ [1, 3], (s.core 0).scratch.poison.get false (64 * l) = false) ∧
    ((after (.stepGrant 0 quiet) s).core 0).arr.credit = 7 ∧ ((after (.stepGrant 0 quiet) s).core 0).arr.flying.map StepVec.k = [0] ∧
    ((after (.stepGrant 0 quiet) s).die 0).realSteps.get 0 1 = 1 := by decide +kernel
def vec1 : StepVec :=
  { tile := 1, seq := 0, pc := 0, k := 2, mode := .statRow, bank := false
    stat := { seq := 0, fmt := .f8, valid := true, vals := Tbl.empty.put 0 (.num true 5 0) }, a := [.num false 3 0], b := [], lds := none }
/-- R12, R72: a stationary-row step lands: accumulator (2, 0) takes 3 * -5 at anchor 0. -/
theorem test_contribution_lands :
    let s := running fun k => { k with arr := { k.arr with
      tiles := [{ tile1 with active := true }], flying := [vec1] } }
    (landGroups 0 (s.core 0).arr.acc (stepGroups vec1)).isSome = true ∧
    ((after (.contributionLands 0) s).core 0).arr.flying = [] ∧
    (((after (.contributionLands 0) s).core 0).arr.acc.get Acc.zero 128).w = -15 := by decide +kernel
/-- R12: an outer-product step of zeros lands. -/
theorem test_outer_lands : (landGroups 0 Tbl.empty (stepGroups { vec1 with mode := .outer, a := [] })).isSome = true := by
  unfold stepGroups
  apply lands_zeros
  intro g hg
  simp only [List.mem_map, List.mem_range] at hg
  obtain ⟨i, -, rfl⟩ := hg
  exact ⟨0, by simp only [vecAt, vec1, List.getD_nil]; decide +kernel⟩
/-- R29, R32: a capture closes the tile and gives TILE_SEQ 1. -/
theorem test_drain_capture :
    let d : Issued DrainOp := { seq := 1, pc := 1, tile := 1, op := drain0 }
    let s := running fun k => { k with
      arr := { k.arr with tiles := [{ tile1 with active := true, drained := true }] }
      pipe := { k.pipe with drainQ := [d], unretired := [{ seq := 0, pc := 0, tile := some 1, bank := none, post := some 3 }] } }
    (s.core 0).captureFree d = true ∧ s.probeOf 0 1 = none ∧ ((after (.drainCapture 0) s).core 0).arr.tileSeq = 1 ∧
    ((after (.drainCapture 0) s).core 0).sem 3 = 1 ∧ ((after (.drainCapture 0) s).core 0).pipe.drainQ = [] := by decide +kernel
/-- R32 (Table 1-7): anchor -1, one replay, wide and by columns, TILE_SEQ 258. -/
theorem test_trailer :
    (trailer { tile1 with anchor := -1, replays := 1, wide := true } true 258).take 12 = [0xFF, 0xFF, 1, 0x0C, 0, 0, 0, 0, 2, 1, 0, 0] ∧
    (trailer tile1 false 1).length = 64 := by decide +kernel
/-- A core whose shadow is full meets the premise of DRAIN_STREAM_DONE. -/
theorem test_drain_stream_premise :
    ((running fun k => { k with arr := { k.arr with shadow := some (
      { acc := Tbl.empty, anchor := 0, trailer := [], entry := { seq := 1, pc := 1, tile := 1, op := drain0 }, left := [] } : Shadow) } }).core
      0).arr.shadow.isSome = true := by decide +kernel
/-- R87: a QUANT of one row of zeros completes, and a poisoned input line faults it. -/
theorem test_quant_done :
    let s := running fun k => { k with pipe := { k.pipe with quantQ := [{ seq := 0, pc := 0, tile := 0, op := quant0 }] } }
    (s.core 0).portHeld = false ∧ (∀ l ∈ unread (s.core 0).pipe.quantBuf (State.quantIn quant0), (s.core 0).scratch.poison.get false (64 * l) = false) ∧ ((after (.quantDone 0 quiet) s).core 0).sem 4 = 1 ∧
    ((after (.quantDone 0 quiet) (core0 s fun k => { k with scratch := { k.scratch with poison := k.scratch.poison.put 0 true } })).core 0).regs.faultCause
      = 0x0E := by decide +kernel
/-- R47: a post that finds 0xFFFF faults the core that issued it. -/
theorem test_post_overflow :
    let s := running fun k => k.setSem 4 0xFFFF
    ((s.retirePost 0 3 9 (some 4)).core 0).sem 4 = 0xFFFF ∧ ((s.retirePost 0 3 9 (some 4)).core 0).pipe.faulting = some (3, .semOvf, 9) ∧
    (((running fun k => k.setSem 4 0xFFFE).retirePost 0 3 9 (some 4)).core 0).sem 4 = 0xFFFF ∧
    (((running fun k => { k with pipe := { k.pipe with faulting := some (3, .align, 9) } }).retirePost 0 3 9 (some 4)).core 0).sem 4 = 0 := by decide +kernel
/-- R48: a remote post that would pass 0xFFFF leaves 0xFFFF and faults the poster, here core 0. -/
theorem test_remote_post_overflow :
    let s := { (running id).modCore 7 (fun k => k.setSem 1 0xFFFE) with
                 posts := [{ target := 7, sem := 1, count := 2, source := some (0, 4, 4), holds := false }] }
    ((after (.remotePostDelivery 0) s).core 7).sem 1 = 0xFFFF ∧ ((after (.remotePostDelivery 0) s).core 0).regs.faultCause = 0x0B := by
  decide +kernel
def heldWait (n : BitVec 16) (waited : Nat) : Held := { seq := 0, pc := 5, op := .wait false 2 n, waited := waited, stagger := none }
/-- R46: the held WAIT goes on when its semaphore reaches COUNT. -/
theorem test_wait_satisfied :
    let s := running fun k => { (k.setSem 2 3) with pipe := { k.pipe with held := some (heldWait 3 9) } }
    ((after (.waitSatisfied 0) s).core 0).pipe.held = none ∧ ((after (.waitSatisfied 0) s).core 0).sem 2 = 0 := by decide +kernel
/-- R49: with EXP = 1 a WAIT faults after 2^16 arith cycles, and not one earlier. -/
theorem test_wait_timeout :
    let s (n : Nat) := running fun k => { k with
      regs := { k.regs with wdog := 1 }, pipe := { k.pipe with held := some (heldWait 3 n) } }
    ((after (.waitTimeout 0) (s 65536)).core 0).regs.faultCause = 0x0C ∧ ((after (.waitTimeout 0) (s 65536)).core 0).regs.faultPc = 5 ∧
    ((after (.waitTimeout 0) (s 65535)).core 0).pipe.held = some (heldWait 3 65535) := by decide +kernel
/-- R39: at a boundary in level 0 with nothing ready the level stays 0; after 64 idle cycles level 2 falls to 1. -/
theorem test_level_boundary :
    let s := running fun k => { k with arr := { k.arr with level := 2, cycle4 := 4, idleFor := 64 } }
    ((after (.levelBoundary 0) (running id)).core 0).arr.level = 0 ∧ ((after (.levelBoundary 0) s).core 0).arr.level = 1 := by
  decide +kernel
/-- R147: a core of no job has no map, so its MOVE is refused with MESH_ERROR. -/
theorem test_mesh_refusal :
    let s := running fun k => { k with pipe := { k.pipe with moveQ := [{ seq := 0, pc := 3, op := move0, moved := 0 }] } }
    s.moveAllowed 0 move0 = false ∧ ((after (.meshRefusal 0 0) s).core 0).regs.faultCause = 0x0F ∧
    ((after (.meshRefusal 0 0) s).core 0).regs.faultPc = 3 := by decide +kernel
/-- Table 1-20: HALT_REQ faults a running core with HALTED at the first operation not issued. -/
theorem test_halt_req : ((after (.haltReq 0) (busy [.nop])).core 0).regs.faultCause = 0x10 ∧
    ((after (.haltReq 0) (busy [.nop])).core 0).regs.mode = .fault ∧ (up.core 0).regs.mode ≠ .run := by decide +kernel
/-- Table 1-20: START runs an IDLE core from CORE_START.PC; CLEAR then START are the way out of FAULT. -/
theorem test_start_clear :
    let s := up.modCore 0 fun k => { k with regs := { k.regs with startPc := 0x40 } }
    ((after (.start 0) s).core 0).regs.mode = .run ∧ ((after (.start 0) s).core 0).pipe.fetchPc = 0x40 ∧
    ((after (.clear 0) (after (.haltReq 0) (after (.start 0) s))).core 0).regs.mode = .idle ∧
    ((after (.clear 0) (after (.haltReq 0) (after (.start 0) s))).core 0).regs.faultCause = 0 := by decide +kernel
/-- R424: one cycle past 2^48 - 1 sets WRAPPED. -/
theorem test_busy_wrap :
    let s := running fun k => { k with regs := { k.regs with busy := BitVec.allOnes 48 } }
    ((after (.coreBusyWrap 0) s).core 0).regs.busy = 0 ∧ ((after (.coreBusyWrap 0) s).core 0).regs.wrapped = true := by decide +kernel
/-- R35: the LDS that a replay issues again reloads its bank. -/
theorem test_lds_again :
    let s := running fun k => { k with arr := { k.arr with
      tiles := [tile1], replay := some { tile := 1, items := [.lds { seq := 0, pc := 0, tile := 0, op := lds0 }], target := 1, banks := Tbl.empty, buf := Tbl.empty } } }
    (∀ l ∈ ldsLines lds0, (s.core 0).scratch.poison.get false (64 * l) = false) ∧
    (((after (.ldsLastRow 0 quiet) s).core 0).bank true).valid = true ∧
    ((after (.ldsLastRow 0 quiet) s).core 0).pipe.unretired = [] := by decide +kernel
/-- R26: a DRAIN captures a tile that its ACCLD has not loaded; the ACCLD retires with it. -/
theorem test_drain_capture_loading :
    let d : Issued DrainOp := { seq := 1, pc := 1, tile := 1, op := drain0 }
    let s := running fun k => { k with
      arr := { k.arr with tiles := [{ tile1 with drained := true }] }
      pipe := { k.pipe with drainQ := [d], loadQ := [{ seq := 0, pc := 0, tile := 1, op := .accld accld0 }] } }
    (s.core 0).captureFree d = true ∧ ((after (.drainCapture 0) s).core 0).arr.tileSeq = 1 ∧
    ((after (.drainCapture 0) s).core 0).sem 3 = 1 ∧ ((after (.drainCapture 0) s).core 0).pipe.loadQ = [] := by decide +kernel
/-- R461: in the arith cycle of a fault a lower code replaces its cause, and a higher one does not; so in FAULT entered this cycle. -/
theorem test_same_cycle :
    let s (now : Bool) := running fun k => { k with pipe := { k.pipe with faulting := some (5, .semOvf, 9), faultNow := now } }
    let f := running fun k => { k with regs := { k.regs with mode := .fault, faultCause := 0x0B, faultPc := 9 }, pipe := { k.pipe with faultNow := true } }
    (((s true).markFault 0 4 .align 3).core 0).pipe.faulting = some (4, .align, 3) ∧
    (((s true).markFault 0 6 .meshError 3).core 0).pipe.faulting = some (5, .semOvf, 9) ∧
    (((s false).markFault 0 4 .align 3).core 0).pipe.faulting = some (4, .semOvf, 9) ∧
    ((f.markFault 0 4 .align 3).core 0).regs.faultCause = 0x04 ∧ ((f.markFault 0 4 .meshError 3).core 0).regs.faultCause = 0x0B := by
  decide +kernel
/-- R461: a MOVE that a fault of this cycle took from its queue still counts as refused. -/
theorem test_race :
    let p : CorePipe := { (up.core 0).pipe with
      moveQ := [{ seq := 4, pc := 7, op := move0, moved := 0 }], anchQ := some { seq := 1, pc := 1, tile := 0, op := anch0 } }
    let s := running fun k => { k with pipe := { k.pipe with faulting := some (1, .halted, 2), faultNow := true }, was := some (p, k.arr) }
    s.moveAllowed 0 move0 = false ∧ (s.core 0).pipe.moveQ[0]? = none ∧
    ((after (.meshRefusal 0 0) s).core 0).pipe.faulting = some (1, .meshError, 7) := by decide +kernel
/-- R48: a MOVE's remote post to this core overflows as a POST does; to another core it starts on its way. -/
theorem test_core_post :
    let s := running fun k => { (k.setSem 4 0xFFFF) with pipe := { k.pipe with unretired := [{ seq := 0, pc := 0, tile := some 1, bank := none, post := none }] } }
    ((s.corePost 0 3 9 0xFF 4 1 false).core 0).sem 4 = 0xFFFF ∧ ((s.corePost 0 3 9 0 4 1 false).core 0).pipe.faulting = some (3, .semOvf, 9) ∧
    (s.corePost 0 3 9 0xFF 5 1 false).core 0 = (s.core 0).setSem 5 1 ∧ (s.corePost 0 3 9 7 4 1 false).posts.map RemotePost.target = [7] := by
  decide +kernel

/-! ## A job -/

def params0 : Params :=
  { eInit := 0, eMin := 0xF0, eMax := 0x10, rule := 0, growth := 2, stallLim := 2, digestInt := 1, throughput := 0, partials := 0,
    gateSem := 7, clip := 0, seed := 0, beta1 := 0, beta2 := 0, tokens := 0, smooth := 0, micro := 1, park := [1, 1, 1, 1], rsvZero := true }
def train0 : TrainState :=
  { step := 4, t := 0, skipped := 0, clean := 0, consec := 0, lsExp := 0, rule := 0, seed := 0, version := 4, diverged := 0 }
/-- A job on compute die 0 whose one core is core 0; its map holds the first MiB of DRAM and core 0's scratchpad. -/
def job0 : Job :=
  { id := 0x100, queue := 0, dies := 1, slot := 0, digest := 0, params := params0
    windows := [{ base := 0, len := 0x100000 }, { base := 0x100000000000, len := 0x600000 }, { base := 0x200000000000, len := 0x1000 }]
    regions := Tbl.empty.put 0 { declLen := 0x1000, declPerm := 3, mapped := true, hbase := 0x8000, len := 0x1000, perm := 3 }
    streams := [{ core := 0, startPc := 0, stepLine := 100, loadLine := 0, dataOff := 0, dataLen := 0 }]
    shards := [], schedule := [], toPlace := [], copies := [], newest := false, older := false, replicas := [0], budgets := []
    train := train0, gradExp := 0, steps := [], submitted := false, stopped := false, clearing := false, sBar := 0, tBar := 0, bCrit := 0
    soundStep := 0, objects := [], pins := [], fixSent := none }
def run0 : StepRun :=
  { n := 5, queue := 0, tag := 9, lr := 0, micro := 1, lsExp := 0, gated := false, contributed := false, stage := .passes, cause := none
    causeAt := 0, latched := false, final := none, seals := [], lsq := 0, gsq := 0, poisoned := false, tornDown := false, sealAt := 0 }
/-- The powered module with the job. -/
def jobbed : State :=
  { up with jobs := [job0], alm := { up.alm with slots := vmod up.alm.slots 0 fun x => { x with valid := true, job := 0x100, step := 4 } } }
/-- The same with clean bytes listed in DRAM from an address on. -/
def holding (s : State) (a : Nat) (bs : List Byte) : State := s.dramWrite a (cleanCells bs)

/-- R147, R55: a MOVE out of the scratchpad that the map permits: 64 bytes into DRAM, the first and the last checked, and the byte
after them unlisted. -/
theorem test_move_out :
    let mv := { move0 with raddr := 0x80 }
    let s := jobbed.modCore 0 fun k => { (k.writeScratch 0 (cleanCells ([0xAB] ++ Bytes.zeros 62 ++ [0xCD]))) with
      regs := { k.regs with mode := .run }, pipe := { k.pipe with moveQ := [{ seq := 0, pc := 0, op := mv, moved := 0 }] } }
    let t := after (.moveVisible 0 0 quiet) s
    s.moveAllowed 0 mv = true ∧ s.memWf = true ∧ s.slotsFree (s.moveSlots mv) = true ∧ (s.core 0).was = none ∧
    s.placeOf 0x80 = .dram 0 0x80 true ∧ t.dram.bytes.find? 0x80 = some 0xAB ∧
    t.dram.bytes.find? 0xBF = some 0xCD ∧ t.dram.bytes.find? 0xC0 = none ∧ (t.core 0).pipe.moveQ = [] := by decide +kernel
/-- R148, R153: to host memory a unit with poison is not written, a clean one is; the remote post and then the core's own follow. -/
theorem test_move_host :
    let mv := { move0 with len := 128, raddr := 0x200000000000, post := some 3, remote := some (0xFF, 4) }
    let s := jobbed.modCore 0 fun k => { (k.writeScratch 0 (List.replicate 64 (0x11, true) ++ List.replicate 64 (0x22, false))) with
      regs := { k.regs with mode := .run }, pipe := { k.pipe with moveQ := [{ seq := 0, pc := 0, op := mv, moved := 0 }] } }
    let t := after (.moveVisible 0 0 quiet) s
    s.moveAllowed 0 mv = true ∧ s.memWf = true ∧ s.slotsFree (s.moveSlots mv) = true ∧
    (s.placeOf 0x200000000000).isMem = true ∧ t.host.bytes.find? 0x8000 = none ∧ t.host.bytes.find? 0x8040 = some 0x22 ∧
    (t.core 0).sem 4 = 1 ∧ (t.core 0).sem 3 = 1 := by decide +kernel
/-- R27: the mesh unit moves a piece a cycle, and what is left is visible at the end; a poisoned byte marks the unit that takes it. -/
theorem test_move_pieces :
    let mv := { move0 with len := 128, raddr := 0x100000000040 }
    let s := jobbed.modCore 0 fun k => { (k.writeScratch 0x1000 (List.replicate 128 (0x11, true))) with
      regs := { k.regs with mode := .run }, pipe := { k.pipe with moveQ := [{ seq := 0, pc := 0, op := { mv with laddr := 0x1000 }, moved := 64 }] } }
    let t := after (.moveVisible 0 0 quiet) s
    s.moveAllowed 0 { mv with laddr := 0x1000 } = true ∧ (t.core 0).readScratch 0x40 1 = [(0, false)] ∧
    (t.core 0).readScratch 0x80 1 = [(0x11, true)] ∧ (t.core 0).readScratch 0xBF 1 = [(0x11, true)] := by decide +kernel
/-- The same the other way, up to the scratchpad's last byte. -/
theorem test_move_in :
    let mv := { move0 with inbound := true, laddr := 0x5FFFC0, raddr := 0x80 }
    let s := holding (jobbed.modCore 0 fun k => { k with
      regs := { k.regs with mode := .run }, pipe := { k.pipe with moveQ := [{ seq := 0, pc := 0, op := mv, moved := 0 }] } }) 0x80
      ([0xAB] ++ Bytes.zeros 62 ++ [0xCD])
    let t := after (.moveVisible 0 0 quiet) s
    s.moveAllowed 0 mv = true ∧ s.memWf = true ∧ mv.laddr + mv.len ≤ scratchBytes ∧ (s.core 0).scratch.bytes.wf 0 = true ∧
    (t.core 0).readScratch 0x5FFFC0 1 = [(0xAB, false)] ∧ (t.core 0).readScratch 0x5FFFFF 1 = [(0xCD, false)] := by decide +kernel

/-! ## Chapter 2 -/

/-- Tables 2-1 to 2-4: F8 0x7F is 480, G8 0x7B is 57344; 1.0 in N32, F8 and G16; a NaN in each goes to the canonical one. -/
theorem test_formats :
    (NumFmt.f8.decode 0x7F).same (.num false 480 0) = true ∧ (NumFmt.g8.decode 0x7B).same (.num false 57344 0) = true ∧
    (NumFmt.n32.decode 0x3F800000).same (.num false 1 0) = true ∧ NumFmt.f8.encode .nan = 0x80 ∧
    NumFmt.f8.encode (.num false 1 0) = 0x38 ∧ NumFmt.h16.encode (.num true 1 0) = 0xBF80 := by decide +kernel
/-- R69: 17 lies between the F8 codes of 16 and 18; the tie goes to the even one, 16. -/
theorem test_nearest :
    Val.magLe (.num false 17 0) (NumFmt.f8.decode NumFmt.f8.maxCode) = true ∧
    (NumFmt.f8.decode (NumFmt.f8.encode (.num false 17 0))).same (.num false 16 0) = true ∧
    NumFmt.f8.decode (NumFmt.f8.encode (.num false 17 0)) = .num false 8 1 := by decide +kernel
/-- R74, R75: three products in two groups, and in one in another order; one product lies below the window. -/
theorem test_reduction :
    Acc.zero.addGroup 0 [.num false 3 0, .num true 1 (-60)] = some ({ w := 3, st := .finite }, 1) ∧
    ({ w := 3, st := .finite } : Acc).addGroup 0 [.num true 5 1] = some ({ w := -7, st := .finite }, 0) ∧
    Acc.zero.addGroup 0 [.num true 5 1, .num true 1 (-60), .num false 3 0] = some ({ w := -7, st := .finite }, 1) := by decide +kernel
/-- Table 2-7: the largest finite W. -/
theorem test_wide_partial :
    Acc.wMax = 2 ^ 63 - 2 ∧ Acc.wideVal ({ w := Acc.wMax, st := .finite } : Acc).wideCode 0 = ({ w := Acc.wMax, st := .finite } : Acc).value 0 ∧
    ({ w := 1, st := .nan } : Acc).wideCode = 0x8000000000000000 := by decide +kernel

/-- R68: the queue of eight; the ninth submission is rejected with code 5. -/
theorem test_spu_submit :
    let s (n : Nat) := up.modSpu 3 fun u => { u with queue := List.replicate n 0x40 }
    ((after (.spuSubmit 3 0x80) (s 7)).spu 3).queue.length = 8 ∧ ((after (.spuSubmit 3 0x80) (s 8)).spu 3).lastCode = 5 ∧
    ((after (.spuSubmit 3 0x80) (s 8)).src 0x0E3).pulse = 1 ∧ ((after (.spuSubmit 3 0x80) (s 8)).spu 3).rejectCnt = 1 := by decide +kernel
/-- A scale-pass descriptor of one block: source at 0x1000, destination at 0x2000, scales at 0x3000. -/
def spuBytes (src blocks : Nat) : List Byte :=
  Bytes.ofNat 6 src ++ Bytes.ofNat 6 0x2000 ++ Bytes.ofNat 6 0x3000 ++ [0, 0xFF] ++ Bytes.ofNat 4 blocks ++ Bytes.zeros 8
/-- A unit whose queue holds the descriptor at 0x100 of the job's map, over 32 16-bit ones. -/
def spuReady (src blocks : Nat) : State :=
  (holding (holding jobbed 0x100 (spuBytes src blocks ++ Bytes.zeros 32)) 0x1000 ((List.replicate 32 [0x80, 0x3F]).flatten)).modSpu 0
    fun u => { u with queue := [0x100] }
/-- R66: 32 ones of H16 become F8 with one scale; the unit runs and the blocks are counted. -/
theorem test_scale_pass :
    let s := spuReady 0x1000 1
    let t := after (.scalePassExecute 0 quiet) s
    s.slotsFree [.dram 0] = true ∧ s.workAt 0x100 = 0x100 ∧ s.reach 0x100 0x100 32 false = true ∧
    (spuDescOf 0x100 (spuBytes 0x1000 1)).2 = true ∧ s.spuCheck 0x100 (spuDescOf 0x100 (spuBytes 0x1000 1)).1 true = 0 ∧
    (t.spu 0).running.isSome = true ∧ (t.spu 0).blocks = 1 ∧ (t.spu 0).queue = [] ∧
    t.dram.bytes.find? 0x2000 = t.dram.bytes.find? 0x201F ∧ (t.dram.bytes.find? 0x2000).isSome = true ∧
    ((after (.scalePassDone 0) t).spu 0).done = true := by decide +kernel
/-- R68: a source that is not a multiple of 64 has code 2, no block at all code 4, a source outside the map code 1. -/
theorem test_scale_pass_rejects :
    ((after (.scalePassExecute 0 quiet) (spuReady 0x1008 1)).spu 0).lastCode = 2 ∧
    ((after (.scalePassExecute 0 quiet) (spuReady 0x1000 0)).spu 0).lastCode = 4 ∧
    ((after (.scalePassExecute 0 quiet) (spuReady 0x200000 1)).spu 0).lastCode = 1 ∧
    ((after (.scalePassExecute 0 quiet) (up.modSpu 0 fun u => { u with queue := [0x0FFFFFFFFFFF] })).spu 0).lastCode = 1 := by decide +kernel

/-! ## Commands of queue 0 -/

/-- A descriptor: its code, JOB, and arguments (offset, length, value). -/
def descOf (opc job : Nat) (args : List (Nat × Nat × Nat)) : List Byte :=
  args.foldl (fun b a => b.take a.1 ++ Bytes.ofNat a.2.1 a.2.2 ++ b.drop (a.1 + a.2.1))
    (Bytes.ofNat 1 opc ++ [0, 0x34, 0x12, 0, 0] ++ Bytes.ofNat 2 job ++ Bytes.zeros 56)
/-- That command in flight with tag 9. -/
def flightOf (opc job : Nat) (args : List (Nat × Nat × Nat)) : Flight :=
  { n := 0, tag := 9, desc := descOf opc job args, started := false, refused := none }
/-- Queue 0 runs with that command in flight; its rings of 256 lie at 0x1000 and 0x2000. -/
def sent (s : State) (f : Flight) : State :=
  s.modQueue 0 fun h => { h with enable := true, enabled := true, sqBase := 1, cqBase := 2, sqLog2 := 8, cqLog2 := 8, fetchPos := 1
                                 tail := 1, fetched := 1, flights := [f] }
/-- `CommandAt` as a check. -/
def at9 (s : State) (opc : Nat) (f : Flight) : Bool :=
  s.flightOf 9 == some (0, f) && f.opc == opc && s.mayStart 0 f true
theorem at9_sound {s : State} {opc : Nat} {f : Flight} (h : at9 s opc f = true) : CommandAt s 9 opc 0 f := by
  simpa [at9, CommandAt, and_assoc] using h
/-- The records that wait in queue 0: status, detail, RESULT0 and RESULT1. -/
def answers (s : State) : List (BitVec 8 × BitVec 16 × BitVec 32 × BitVec 64) :=
  (s.queue 0).waiting.map fun r => (r.status, r.detail, r.r0, r.r1)

/-! ## Chapter 3 -/

/-- R106, R109, R110: STEP_SUBMIT of 4,096 microbatches begins step 5: the core runs, its step parameter line holds the number, and its
gate semaphore is posted. -/
theorem test_step_submit :
    let f := flightOf 0x24 0x100 [(12, 2, 4096)]
    let t := after (.stepSubmit 9 quiet) (sent jobbed f)
    CommandAt (sent jobbed f) 9 0x24 0 f ∧ (sent jobbed f).stepMayBegin job0 = true ∧ (t.jobs.map fun j => j.steps.map StepRun.n) = [[5]] ∧
    (t.core 0).regs.mode = .run ∧ (t.core 0).sem 7 = 1 ∧ ((t.core 0).line 100).take 8 = [5, 0, 0, 0, 0, 0, 0, 0] ∧ answers t = [] :=
  ⟨at9_sound (by decide +kernel), by decide +kernel⟩
/-- Table 7-10: one microbatch too many, and an HADDR that is not a multiple of 64. -/
theorem test_step_submit_refused :
    answers (after (.stepSubmit 9 quiet) (sent jobbed (flightOf 0x24 0x100 [(12, 2, 4097)]))) = [(0x21, 12, 0, 0)] ∧
    answers (after (.stepSubmit 9 quiet) (sent jobbed (flightOf 0x24 0x100 [(16, 8, 0x60)]))) = [(0x21, 16, 0, 0)] ∧
    answers (after (.stepSubmit 9 quiet) (sent jobbed (flightOf 0x24 0x100 [(24, 4, 4097)]))) = [(0x21, 24, 0, 0)] := by decide +kernel
/-- R106: while a step is in flight the next waits. -/
theorem test_step_submit_waits :
    let f := flightOf 0x24 0x100 []
    let s := sent { jobbed with jobs := [{ job0 with steps := [run0] }] } f
    CommandAt s 9 0x24 0 f ∧ s.stepMayBegin { job0 with steps := [run0] } = false ∧
    ((after (.stepSubmit 9 quiet) s).queue 0).flights = [f] := ⟨at9_sound (by decide +kernel), by decide +kernel⟩
/-- A job with step 5 in flight, submitted by the command of tag 9. -/
def stepping (j : Job) (r : StepRun) : State :=
  sent { jobbed with jobs := [{ j with steps := [r] }] } { flightOf 0x24 0x100 [] with started := true }
/-- A seal record. -/
def seal0 (v : Bool) : SealRec := { step := 5, verdict := v, lsq := 0, gsq := 0 }
/-- R115, R118: a latched seal with a set verdict voids the step: VOIDED, cause 0x02, one skipped step, the exponent one lower. -/
theorem test_seal_voids :
    let s := stepping job0 { run0 with latched := true, gated := true, seals := [(0, seal0 true)] }
    let t := after (.sealComplete 0x100) s
    (ranked job0.replicas).filterMap (fun n => ([(0, seal0 true)].find? fun p => p.1 == n).map (·.2)) = [seal0 true] ∧
    answers t = [(0x03, 0x02, 0xFF02, 5)] ∧ (t.jobs.map fun j => (j.train.skipped, j.train.lsExp, j.train.step, j.steps.length)) =
      [(1, 0xFF, 5, 0)] := by decide +kernel
/-- R118: a clear verdict applies the step; a seal that is not latched changes nothing. -/
theorem test_seal_applies :
    let s (l : Bool) := stepping job0 { run0 with latched := l, gated := true, seals := [(0, seal0 false)] }
    ((after (.sealComplete 0x100) (s true)).jobs.map fun j => (j.train.t, j.steps.map StepRun.final)) = [(1, [some false])] ∧
    ((after (.sealComplete 0x100) (s false)).jobs.map fun j => (j.train.t, j.steps.map StepRun.final)) = [(0, [none])] := by decide +kernel
/-- R118: growth after two applied steps; the floor E_MIN; the stall at two skipped steps in a row. -/
theorem test_loss_scale :
    ((State.endOfStep params0 { train0 with clean := 1 } false).1.lsExp, (State.endOfStep params0 { train0 with clean := 1 } false).1.clean)
      = (1, 0) ∧
    (State.endOfStep params0 { train0 with lsExp := 0xF0 } true).1.lsExp = 0xF0 ∧
    (State.endOfStep params0 { train0 with consec := 1 } true).2 = true ∧ (State.endOfStep params0 train0 true).2 = false := by decide +kernel
/-- An update descriptor of 64 parameters, FIRST and LAST: master at 0x10000, moments at 0x11000 and 0x12000, gradient at 0x13000, digest
at 0x14000; `opt` is byte 64. -/
def updBytes (opt : Nat) : List Byte :=
  Bytes.ofNat 6 0x10000 ++ Bytes.ofNat 6 0x11000 ++ Bytes.ofNat 6 0x12000 ++ Bytes.zeros 12 ++ Bytes.ofNat 6 0x13000 ++ Bytes.zeros 20 ++
  Bytes.ofNat 4 64 ++ Bytes.zeros 4 ++ Bytes.ofNat 1 opt ++ [0x30] ++ Bytes.zeros 20 ++ [0xFF, 0] ++ Bytes.ofNat 6 0x14000 ++ Bytes.zeros 34
def upd0 : UpdDesc := updDescOf (updBytes 0)
/-- The job with that descriptor as its one shard, on memory die 0, its list at 0x20000. -/
def shardJob : Job :=
  { job0 with shards := [{ num := 0, die := 0, listAddr := 0x20000, descs := [upd0], digest := 0, newDigest := 0, diverged := false
                           repair := none, finished := false }] }
/-- The same with these 64-byte units of DRAM known to be clean, whatever their bytes are. -/
def clean (s : State) (us : List Nat) : State :=
  { s with dram := { s.dram with poison := us.foldl (fun t u => t.put u false) s.dram.poison } }
/-- Separator 0 in IDLE with that list, its state and gradient readable. -/
def sepReady (r : StepRun) : State :=
  (clean (holding (stepping shardJob r) 0x20000 (updBytes 0)) [0x10000, 0x10040, 0x10080, 0x100C0, 0x10100, 0x11000, 0x11040, 0x12000,
    0x12040, 0x13000, 0x13040]).modSep 0 fun u => { u with list := 0x20000, listLen := 1, step := 5, t := 1 }
def updating : StepRun := { run0 with stage := .update, final := some false, gated := true, latched := true }
/-- R121, R131: GO takes the list's first descriptor; a second GO is ignored. -/
theorem test_go :
    let s := sepReady updating
    let t := after (.go 0) s
    (s.sep 0).mode = .idle ∧ (s.sepShard 0).any (fun p => s.shardReady p.1 p.2) = true ∧
    ((sepReady run0).sepShard 0).all (fun p => !(sepReady run0).shardReady p.1 p.2) = true ∧ s.mappedRange Tbl.empty 0x20000 128 false = true ∧ s.descBad 0 upd0 = false ∧ upd0.flash = false ∧
    upd0.opt = some .am ∧ (t.sep 0).mode = .run ∧ (t.sep 0).cur = some upd0 ∧ ((after (.go 0) t).sep 0).mode = .run := by decide +kernel
/-- R121, R131: the one segment is applied, the list is finished, DONE sets. -/
theorem test_sep_segment :
    let s := after (.go 0) (sepReady updating)
    let t := after (.sepSegment 0 quiet) s
    (s.sep 0).segIndex = 0 ∧ (s.applySeg quiet 0 upd0 0).1 = false ∧ upd0.segments = 1 ∧ (t.sep 0).mode = .idle ∧ (t.sep 0).done = true ∧
    (t.sep 0).doneCnt = 1 ∧ (t.jobs.map fun j => j.shards.map Shard.finished) = [[true]] := by decide +kernel
/-- Table 3-11: ABORT takes effect at the next segment boundary, without DONE; in IDLE it does nothing. -/
theorem test_abort :
    let s := after (.abort 0) (after (.go 0) (sepReady updating))
    (s.sep 0).abortReq = true ∧ ((after (.sepSegment 0 quiet) s).sep 0).mode = .idle ∧ ((after (.sepSegment 0 quiet) s).sep 0).done = false ∧
    ((after (.abort 0) (sepReady updating)).sep 0).abortReq = false := by decide +kernel
/-- The same descriptor with TIER = 1. -/
def updFlash : UpdDesc := { upd0 with flash := true }
/-- R134: a flash-tier segment that is not staged makes the Separator wait. -/
theorem test_sep_waits :
    let s := (sepReady updating).modSep 0 fun u => { u with mode := .run, cur := some updFlash }
    s.segReady 0 updFlash 0 = false ∧ ((after (.sepSegment 0 quiet) s).sep 0).mode = .wait := by decide +kernel
/-- A whole gradient collective of step 5 for the flash-tier descriptor. -/
def gradColl : Coll :=
  { id := 3, job := 0x100, op := .allReduce, group := [0], epoch := 0, ifmt := .g16, ofmt := .g16, root := 0, stream := 0, n := 64
    src := 0x13000, dst := 0x13000, grad := some updFlash, step := 5, contribs := [], arrivals := [], verdict := false, discard := false
    reduced := [], results := (List.range 128).foldl (fun t i => t.put i (if i % 2 = 0 then 0x80 else 0x3F)) Tbl.empty, parkedSegs := 0, throughput := false, progress := 0, tag := none, poisoned := false
    contributed := true, summed := true, gsq := 0 }
def parking (park : BitVec 32) : State :=
  let j := { shardJob with params := { params0 with park := [park, 1, 1, 1] }
                           shards := shardJob.shards.map fun sh => { sh with descs := [updFlash] }, steps := [run0] }
  ({ jobbed with jobs := [j] } : State).modFab fun f => { f with colls := [gradColl] }
/-- R135: with one free segment the gradient parks; R137: with none, and nothing parked that would drain, the step is voided with
PARK_ORDER. -/
theorem test_gradient_park :
    (parking 1).stoppedFor gradColl = false ∧ gradColl.whole (parking 1).node = true ∧ updFlash.segments = 1 ∧
    (((after (.gradientPark 0 3 0) (parking 1)).sep 0).parked.map fun p => p.grads.length) = [64] ∧
    ((after (.gradientPark 0 3 0) (parking 1)).sep 0).parkPeak = 1 ∧
    ((after (.gradientPark 0 3 0) (parking 0)).jobs.map fun j => j.steps.map StepRun.cause) = [[some 0x05]] := by decide +kernel
/-- R128: one adaptive-moment element with every moment zero and gradient 1 at learning rate 0 keeps its master. -/
theorem test_element :
    (updateElem (stepConsts (up.sep 0) upd0) upd0 none 0 { w := 0x3F80000000, m1 := 0, v2 := 0, ema := 0, g := 0x3F80 }).1.w =
      (0x3F80000000 : Nat) := by decide +kernel
/-- R129: 1 + 2^-33 lies a quarter unit above 1.0 in M40: a generator word whose low half is below 2^30 rounds up, 2^30 down; 1 + 2^-31 is
stored as it is. -/
theorem test_stochastic_rounding :
    Val.magLe (.num false (2 ^ 33 + 1) (-33)) (NumFmt.m40.decode NumFmt.m40.maxCode) = true ∧
    (NumFmt.m40.decode (srM40 (.num false (2 ^ 31 + 1) (-31)) 0)).same (.num false (2 ^ 31 + 1) (-31)) = true ∧
    (NumFmt.m40.decode (srM40 (.num false (2 ^ 33 + 1) (-33)) (2 ^ 30 - 1))).same (.num false (2 ^ 31 + 1) (-31)) = true ∧
    (NumFmt.m40.decode (srM40 (.num false (2 ^ 33 + 1) (-33)) (2 ^ 30))).same (.num false 1 0) = true := by decide +kernel
/-- R128: the premise of a DRAM-tier segment that writes only its outputs. -/
theorem test_segment_premise :
    (sepReady updating).memWf = true ∧ 0 < upd0.segments ∧ ((sepReady updating).applySeg State.noEnv 0 upd0 0).1 = false := by decide +kernel
/-- R138: the step commits when its shard is finished; one replica needs no digest exchange, so it completes OK. -/
theorem test_step_commit :
    let s := stepping { shardJob with shards := shardJob.shards.map fun sh => { sh with finished := true, newDigest := 7 } } updating
    let t := after (.stepCommit 0x100) s
    answers t = [(0, 0, 0, 5)] ∧ (t.jobs.map fun j => (j.train.step, j.train.version, j.shards.map Shard.digest)) = [(5, 6, [7])] ∧
    answers (after (.stepCommit 0x100) (stepping shardJob updating)) = [] := by decide +kernel
/-- R140: with a second replica the step waits for the exchange. -/
theorem test_step_commit_exchange :
    let j := { shardJob with replicas := [0, 1], shards := shardJob.shards.map fun sh => { sh with finished := true } }
    ((after (.stepCommit 0x100) (stepping j updating)).jobs.map fun j => j.steps.map StepRun.stage) = [[.exchange]] := by decide +kernel
/-- R141: with two replicas whose digests differ no majority stands: the shard is DIVERGED, and the event is logged; equal digests change
nothing. With three, the majority repairs. -/
theorem test_digest_exchange :
    let j := { shardJob with replicas := [0, 1] }
    let s := stepping j { updating with stage := .exchange }
    let t := after (.digestExchangeDone 0x100 [{ node := 1, step := 5, digests := [9] }]) s
    s.peersCover { j with steps := [{ updating with stage := .exchange }] } [{ node := 1, step := 5, digests := [9] }] = true ∧
    (t.jobs.map fun j => (j.shards.map Shard.diverged, j.train.diverged)) = [([true], 1)] ∧ t.log.retained.map Event.code = [0x0021] ∧
    answers t = [(0, 0, 0, 5)] ∧
    ((after (.digestExchangeDone 0x100 [{ node := 1, step := 5, digests := [0] }]) s).jobs.map fun j => j.shards.map Shard.diverged) =
      [[false]] := by decide +kernel
/-- R141: two of three replicas agree on 9; the replica of the lower node of the two repairs. -/
theorem test_majority :
    let t := (stepping shardJob updating).compareShard 0x100 5 0
      { num := 0, die := 0, listAddr := 0x20000, descs := [upd0], digest := 0, newDigest := 0, diverged := false, repair := none
        finished := false } [(2, 9), (1, 9)]
    (t.jobs.map fun j => j.shards.map Shard.repair) = [[some 1]] := by decide +kernel

/-! ## Chapter 4 -/

/-- R152, R153: a write of 64 bytes cleans its unit; one poisoned byte of a short write poisons its unit, up to the unit's last byte;
what was unlisted outside it stays so. -/
theorem test_dram_write :
    let t := jobbed.dramWrite 0x80 (cleanCells (Bytes.zeros 64))
    let u := t.dramWrite 0xFE [(1, false), (2, true)]
    jobbed.memWf = true ∧ t.dram.poison.find? 0x80 = some false ∧ u.dram.poison.find? 0xC0 = some true ∧ u.dram.poison.find? 0x100 = none ∧
    u.dram.bytes.find? 0xFF = some 2 ∧ u.dram.bytes.find? 0x100 = none ∧ u.dram.poison.find? 0x80 = some false := by decide +kernel
/-- R14: scratchpad bytes around the end of a write. -/
theorem test_scratch_write :
    let k := (up.core 0).writeScratch 0x3E [(1, false), (2, true)]
    (up.core 0).memWf = true ∧ k.readScratch 0x3E 1 = [(1, true)] ∧ k.readScratch 0x3F 1 = [(2, true)] ∧ k.readScratch 0x40 1 = [(0, false)] ∧
    (k.writeScratch 0 (cleanCells (Bytes.zeros 64))).readScratch 0x3F 1 = [(0, false)] := by decide +kernel
/-- R154, R155: a clean read moves on by 64; the last unit of the die begins the next pass. -/
theorem test_patrol_scrub :
    let s := up.modMem 2 fun d => { d with scrubPos := BitVec.ofNat 40 (d.capacity - 64) }
    (up.memDie 2).capacity ≠ 0 ∧ ((after (.patrolScrub 2 .clean) up).memDie 2).scrubPos = 64 ∧
    ((after (.patrolScrub 2 .clean) s).memDie 2).scrubPos = 0 ∧
    ((after (.patrolScrub 2 (.corrected 3)) up).memDie 2).ceCnt.get 0 3 = 1 := by decide +kernel
/-- R153, R193: an uncorrectable error poisons the unit, and the DRAM-home object that holds it. -/
theorem test_patrol_scrub_ue :
    let s := { up with objs := Tbl.empty.put 5 { Obj.new .dram 64 0x20000000040 with mode := .home }
                       mems := vmod up.mems 2 fun d => { d with scrubPos := 64 } }
    let t := after (.patrolScrub 2 .uncorrectable) s
    ((2 * dieSpan + (s.memDie 2).scrubPos.toNat) / 64 * 64 = 0x20000000040) ∧ t.dram.poison.find? 0x20000000040 = some true ∧
    (t.memDie 2).ue = true ∧ (t.memDie 2).ueAddr = 0x20000000040 ∧ (t.src 0x0E6).pulse = 1 ∧
    (t.obj? 5).map (fun o => o.mode) = some .poisoned := by decide +kernel
/-- R155: nothing before 24 h; at 24 h the event, and not again before 48 h. -/
theorem test_scrub_overdue :
    let s (h : Nat) := { up with devTime := h * 3600000000000 * 14 }
    (s 24).scrubHours 1 = 24 ∧ (s 23).scrubHours 1 < ((s 23).memDie 1).overdueHrs + 24 ∧
    ((after (.scrubOverdue 1) (s 23)).memDie 1).overdue = false ∧ ((after (.scrubOverdue 1) (s 24)).memDie 1).overdue = true ∧
    (after (.scrubOverdue 1) (s 24)).log.retained.map Event.code = [0x0070] ∧
    (after (.scrubOverdue 1) (after (.scrubOverdue 1) (s 24))).log.retained.length = 1 := by decide +kernel
/-- A flash-home object of one stripe unit, committed. -/
def flashObj : Obj := { Obj.new .flash unitBytes 0 with mode := .home, committed := true }
/-- R160, R192: a rebuilt unit counts; one that parity cannot rebuild makes the object POISONED. A unit past the end is none. -/
theorem test_parity_rebuild :
    let s := { up with objs := Tbl.empty.put 5 flashObj }
    ((after (.parityRebuild 5 0 true) s).flash 0).rebuildCnt = 1 ∧ ((after (.parityRebuild 5 1 true) s).flash 1).rebuildCnt = 0 ∧
    ((after (.parityRebuild 5 0 false) s).obj? 5).map (fun o => o.mode) = some .poisoned ∧
    ((after (.parityRebuild 5 0 false) s).flash 0).poison = true ∧
    (after (.parityRebuild 5 0 false) s).log.retained.map Event.code = [0x0033] := by decide +kernel
/-- R163, R164: collection stops at the die's blocks; wear never falls; the waiting write goes on when FLOOR is met exactly. -/
theorem test_flash_work :
    let s (fr : BitVec 32) := up.modFlash 1 fun d => { d with blocks := 1000, freeBlocks := fr, floor := 20, wearMax := 7, waiting := true }
    ((after (.flashBackgroundWork 1 (.collect 990)) (s 15)).flash 1).freeBlocks = 1000 ∧
    ((after (.flashBackgroundWork 1 (.wearLevel 5 3)) (s 15)).flash 1).wearMax = 7 ∧
    ((after (.flashBackgroundWork 1 .refresh) (s 15)).flash 1).refreshCnt = 0 ∧
    ((after (.flashBackgroundWork 1 .refresh) ((s 15).modFlash 1 fun d => { d with reads := Tbl.empty.put 9 100000 })).flash 1).refreshCnt = 1 ∧
    ((after (.flashWriteResume 1) (s 19)).flash 1).waiting = true ∧ ((after (.flashWriteResume 1) (s 20)).flash 1).waiting = false := by
  decide +kernel
/-- R157, R167: the lowest free identifier; one in use; an address that is not aligned; a host home that ends with the address space. -/
theorem test_obj_create :
    let s := { up with objs := Tbl.empty.put 1 flashObj }
    let g := flightOf 0x10 0xFFFF [(8, 4, 1), (16, 8, 64), (12, 1, 1)]
    let h := flightOf 0x10 0xFFFF [(16, 8, 64), (12, 1, 2), (24, 8, 0xFFFFFFFFFFFFFFC0)]
    CommandAt (sent s g) 9 0x10 0 g ∧ CommandAt (sent s h) 9 0x10 0 h ∧ answers (after (.objCreate 9) (sent s g)) = [(Status.inUse, 8, 0, 0)] ∧
    answers (after (.objCreate 9) (sent s h)) = [(0, 0, 2, 0)] ∧
    ((after (.objCreate 9) (sent s h)).obj? 2) = some (Obj.new .host 64 0xFFFFFFFFFFFFFFC0) ∧
    answers (after (.objCreate 9) (sent s (flightOf 0x10 0xFFFF [(16, 8, 64), (24, 8, 0x20)]))) = [(Status.mapViolation, 24, 0, 0)] :=
  ⟨at9_sound (by decide +kernel), at9_sound (by decide +kernel), by decide +kernel⟩
/-- A DRAM home at the start of die 1 is one die's DRAM outside the device area. -/
theorem test_obj_create_dram :
    let f := flightOf 0x10 0xFFFF [(16, 8, 64), (24, 8, 0x10000000000)]
    CommandAt (sent up f) 9 0x10 0 f ∧ ((sent up f).markStarted 0 f).oneDram 0x10000000000 64 = true ∧
    ((sent up f).markStarted 0 f).inArea 0x10000000000 64 = false := by
  refine ⟨at9_sound (by decide +kernel), by decide +kernel, ?_⟩
  by_cases h : Config.variant64 = true <;> simp only [State.inArea, State.areaBase, State.areaBytes, h] <;> decide +kernel
/-- A flash home that fits, and one of which no channel is left to hold any. -/
theorem test_obj_create_flash :
    let f := flightOf 0x10 0xFFFF [(16, 8, 1), (12, 1, 1)]
    let none := { up with flashes := Vector.replicate 4 { (up.flash 0) with channels := 0 } }
    CommandAt (sent up f) 9 0x10 0 f ∧
    ((sent up f).markStarted 0 f).flashUsed + Word.roundUp 1 unitBytes ≤ ((sent up f).markStarted 0 f).flashUsable ∧
    none.flashUsable = 0 := by
  refine ⟨at9_sound (by decide +kernel), ?_, ?_⟩
  all_goals
    simp only [State.flashUsable]
    generalize Config.variant64 = v
    cases v <;> decide +kernel
/-- Host memory as the command finds it: 64 bytes at 0x40. -/
def fed : Env := { host := [(0x40, List.replicate 64 (0x11 : Byte))], hostErr := none, ecc := [] }
/-- OBJ_WRITE of 64 bytes to object 5 from host address 0x40. -/
def write5 : Flight := flightOf 0x11 0xFFFF [(8, 4, 5), (24, 8, 64), (32, 8, 0x40)]
def withObj (o : Obj) (f : Flight) : State := sent { up with objs := Tbl.empty.put 5 o } f
/-- A host-home object of 64 bytes. -/
def hostObj : Obj := { Obj.new .host 64 0x1000 with mode := .home }
/-- R298: the write begins with the host's bytes; with a reference held it is deferred; at its commit the generation counts on. -/
theorem test_obj_write :
    let s := withObj hostObj write5
    let t := after (.objWrite 9 fed) s
    let u := after (.objGenerationCommit 5 fed) t
    CommandAt s 9 0x11 0 write5 ∧ s.sealedObj 5 hostObj = false ∧ hostObj.refs = 0 ∧ hostObj.writes = [] ∧ answers t = [] ∧
    (t.obj? 5).map (fun o => (o.refs, o.writes.map fun w => (w.began, w.bytes))) = some (1, [(true, List.replicate 64 0x11)]) ∧
    answers (after (.objWrite 9 fed) (withObj { hostObj with refs := 1 } write5)) = [(Status.deferred, 0, 0, 0)] ∧
    (u.obj? 5).map (fun o => (o.gen, o.len, o.refs, o.writes.length)) = some (1, 64, 0, 0) ∧ answers u = [(0, 0, 0, 0)] :=
  ⟨at9_sound (by decide +kernel), by decide +kernel, by decide +kernel, by decide +kernel, by decide +kernel⟩
/-- A write that has begun: 64 bytes of 0x11 at 0 of a flash object, deferred ones without a tag. -/
def begun (tag : Option (QueueId × Tag)) (began : Bool) : PendingWrite :=
  { whole := false, offset := 0, len := 64, haddr := 0x40, bytes := List.replicate 64 0x11, began := began, tag := tag }
/-- R159, R163: a flash write commits; one whose die waits does not; a deferred one tells the host. -/
theorem test_flash_commit :
    let s := { up with objs := Tbl.empty.put 5 { flashObj with refs := 1, writes := [begun none true] } }
    let w := s.modFlash 0 fun d => { d with waiting := true }
    (s.withEnv fed).flashReady 0 64 = true ∧ (w.withEnv fed).flashReady 0 64 = false ∧
    ((after (.objGenerationCommit 5 fed) s).obj? 5).map (fun o => (o.gen, o.data.find? 63, o.data.find? 64)) = some (1, some 0x11, none) ∧
    (after (.objGenerationCommit 5 fed) s).log.retained.map Event.code = [0x0032] ∧
    ((after (.objGenerationCommit 5 fed) w).obj? 5).map (fun o => o.gen) = some 0 := by decide +kernel
/-- R168: OBJ_DELETE and OBJ_EVICT at once and deferred, OBJ_WITHDRAW of a pending eviction, and an object that is none. -/
theorem test_obj_delete_evict :
    let d := flightOf 0x13 0xFFFF [(8, 4, 5)]
    let e := flightOf 0x15 0xFFFF [(8, 4, 5)]
    let w := flightOf 0x16 0xFFFF [(8, 4, 5)]
    let none6 := flightOf 0x16 0xFFFF [(8, 4, 6)]
    CommandAt (withObj hostObj d) 9 0x13 0 d ∧ CommandAt (withObj hostObj e) 9 0x15 0 e ∧ CommandAt (withObj hostObj w) 9 0x16 0 w ∧
    (after (.objDelete 9) (withObj hostObj d)).obj? 5 = none ∧
    answers (after (.objDelete 9) (withObj { hostObj with refs := 1 } d)) = [(Status.deferred, 0, 0, 0)] ∧
    ((after (.objEvict 9) (withObj { hostObj with mode := .resident, resident := some 0 } e)).obj? 5).map (fun o => o.mode) = some .home ∧
    answers (after (.objEvict 9) (withObj { hostObj with mode := .promoting, resident := some 0, refs := 1 } e)) = [(Status.deferred, 0, 0, 0)] ∧
    answers (after (.objEvict 9) (withObj hostObj e)) = [(0, 0, 0, 0)] ∧
    answers (after (.objWithdraw 9) (withObj { hostObj with evictPend := true } w)) = [(0, 0, 1, 0)] ∧
    answers (after (.objWithdraw 9) (withObj hostObj none6)) = [(Status.notFound, 8, 0, 0)] :=
  ⟨at9_sound (by decide +kernel), at9_sound (by decide +kernel), at9_sound (by decide +kernel), by decide +kernel, by decide +kernel,
    by decide +kernel⟩
/-- R148, R192, R298: OBJ_READ answers OK; with stripe unit 0 poisoned, POISONED at offset 0; while WRITING it waits. -/
theorem test_obj_read :
    let f := flightOf 0x12 0xFFFF [(8, 4, 5), (24, 8, 64), (32, 8, 0x80)]
    let s (o : Obj) := withObj o f
    CommandAt (s flashObj) 9 0x12 0 f ∧ (s flashObj).sealedObj 5 flashObj = false ∧ answers (after (.objRead 9 quiet) (s flashObj)) = [(0, 0, 0, 0)] ∧
    anyPoison (((s flashObj).markStarted 0 f).objCells quiet 5 flashObj 0 64).1 = false ∧
    answers (after (.objRead 9 quiet) (s { flashObj with bad := Tbl.empty.put 0 true })) = [(Status.poisoned, 0, 0, 0)] ∧
    answers (after (.objRead 9 quiet) (s { flashObj with mode := .writing })) = [] :=
  ⟨at9_sound (by decide +kernel), by decide +kernel⟩
/-- R298: OBJ_PROMOTE of an object in HOME, RESIDENT, PROMOTING and POISONED. -/
theorem test_obj_promote :
    let f := flightOf 0x14 0xFFFF [(8, 4, 5), (16, 6, 0x1000)]
    let s (o : Obj) := withObj o f
    CommandAt (s hostObj) 9 0x14 0 f ∧ (s hostObj).oneDram 0x1000 64 = true ∧
    ((after (.objPromote 9 quiet) (s hostObj)).obj? 5).map (fun o => (o.mode, o.resident, o.refs)) = some (.promoting, some 0x1000, 1) ∧
    answers (after (.objPromote 9 quiet) (s { hostObj with mode := .resident, resident := some 0x2000 })) = [(0, 0, 0, 0x2000)] ∧
    ((after (.objPromote 9 quiet) (s { hostObj with mode := .promoting, resident := some 0x2000 })).obj? 5).map (fun o => o.promoteTags.length) =
      some 1 ∧
    answers (after (.objPromote 9 quiet) (s { hostObj with mode := .poisoned })) = [(Status.poisoned, 0, 0, 0)] :=
  ⟨at9_sound (by decide +kernel), by decide +kernel⟩
/-- R168, R315: nothing while a reference is held; then the eviction, the oldest write, the delete. -/
theorem test_deferred :
    let s (o : Obj) := { up with objs := Tbl.empty.put 5 o }
    let go (o : Obj) := after (.deferredTakesEffect 5 fed) (s o)
    ((go { hostObj with refs := 1, evictPend := true }).obj? 5).map (fun o => o.evictPend) = some true ∧
    ((go { hostObj with evictPend := true, delPend := true }).obj? 5).map (fun o => (o.evictPend, o.delPend)) = some (false, true) ∧
    ((go { hostObj with delPend := true, writes := [begun none false] }).obj? 5).map (fun o => (o.delPend, o.refs)) = some (true, 1) ∧
    (go { hostObj with delPend := true }).obj? 5 = none := by decide +kernel
/-- A fetch of 64 bytes of DRAM into core 0's scratchpad, with its full semaphore 3. -/
def entry0 : AlmEntry :=
  { job := 0x100, kind := 0, srcObj := false, versioned := false, noAlloc := false, dlReport := false, gate := 0, notify := 1, len := 64
    step := 5, src := 0x80, offset := 0, dst := 0x100000000000, deadline := 100, fullCore := 0, fullSem := 3, emptyCore := 0, emptySem := 0
    seq := 0, rsvZero := true }
/-- The job in step 5 whose one entry waits; the step's clock stands at `clk`. -/
def entered (clk : BitVec 48) (es : List AlmEntry) (table : List Placed) : State :=
  let s := holding jobbed 0x80 (List.replicate 64 0x22)
  { s with jobs := [{ job0 with toPlace := es }]
           alm := { s.alm with en := true, table := table, nextId := 7
                               slots := vmod s.alm.slots 0 fun x => { x with valid := true, job := 0x100, step := 5, clk := clk } } }
def placed0 (launched : Bool) : Placed := { id := 3, e := entry0, gated := true, launched := launched, cancelled := false, tlate := false, rebuildFailed := false }
/-- R183: the entry takes the next identifier; with its launch time passed it counts as TLATE. -/
theorem test_almanac_place :
    let t := after (.almanacPlace 0x100) (entered 0 [entry0] [])
    let u := after (.almanacPlace 0x100) (entered 200 [entry0] [])
    (entered 0 [entry0] []).waitingEntries 0x100 = [entry0] ∧ (t.alm.table.map fun p => (p.id, p.tlate)) = [(7, false)] ∧ t.alm.nextId = 8 ∧
    t.alm.peak = 1 ∧ t.waitingEntries 0x100 = [] ∧ u.alm.tlate = true ∧ u.alm.tlateCnt = 1 ∧
    (after (.almanacPlace 0x100) (entered 0 [] [])).alm.nextId = 7 := by decide +kernel
/-- R180, R182: before its launch time the entry stays; then it launches, and its delivery fills the scratchpad, posts, and retires
it; past its deadline LATE sets. -/
theorem test_almanac_transfer :
    let s := entered 100 [] [placed0 false]
    let t := after (.almanacLaunch 3) s
    let u := after (.almanacDelivery 3 quiet) t
    let late := after (.almanacDelivery 3 quiet) (entered 101 [] [placed0 true])
    s.canLaunch (placed0 false) = true ∧ (entered 0 [] [{ placed0 false with e := { entry0 with deadline := 0xFFFF } }]).canLaunch
      { placed0 false with e := { entry0 with deadline := 0xFFFF } } = false ∧
    (t.alm.table.map fun p => p.launched) = [true] ∧ t.alm.launched = 1 ∧ t.entryRefused entry0 = none ∧ u.alm.table = [] ∧
    (u.core 0).sem 3 = 1 ∧ (u.core 0).readScratch 63 1 = [(0x22, false)] ∧ u.alm.late = false ∧ late.alm.late = true ∧ late.alm.lateCnt = 1 := by
  decide +kernel
/-- R185, R409: poisoned data sets POISON, which drives the Almanac's source high. -/
theorem test_almanac_poison :
    let s := (entered 0 [] [placed0 true]).dramWrite 0x80 [(0, true)]
    let t := after (.almanacDelivery 3 quiet) s
    s.entryRefused entry0 = none ∧ anyPoison (s.entryCells quiet entry0).1 = true ∧ t.alm.poison = true ∧ t.alm.poisonCnt = 1 ∧
    t.srcLine 0x0F8 = true := by decide +kernel
/-- R178: the new step moves the old one aside; while a previous step is held the write is ignored. -/
theorem test_alm_slot_step :
    let s := entered 44 [] [placed0 false]
    let t := after (.almSlotStep 0 6) s
    (t.almSlot 0).step = 6 ∧ (t.almSlot 0).clk = 0 ∧ (t.almSlot 0).pstep = 5 ∧ (t.almSlot 0).pclk = 44 ∧ (t.almSlot 0).pvalid = true ∧
    ((after (.almSlotStep 0 7) t).almSlot 0).step = 6 := by decide +kernel
/-- R186, R187: an entry of the step that has not launched leaves, one that has is marked and ends at the completion. -/
theorem test_alm_cancel :
    let s := entered 0 [] [placed0 false, { placed0 true with id := 4, e := { entry0 with dst := 0x10000000 } }, { placed0 false with id := 5, e := { entry0 with step := 6 } }]
    let s := { s with alm := { s.alm with cancelJob := 0x100 } }
    let t := after (.almCancelStep 5) s
    (s.alm.table.map (·.id)).Nodup ∧ (t.alm.table.map fun p => (p.id, p.cancelled)) = [(4, true), (5, false)] ∧ t.alm.cancelling = true ∧
    ((after .cancelComplete t).alm.table.map fun p => p.id) = [5] ∧ (after .cancelComplete t).alm.cancelling = false ∧
    ((after (.almCancelStep 0xFFFFFFFFFFFFFFFF) s).alm.table.map fun p => p.id) = [4] := by decide +kernel

/-! ## Chapter 5 -/

/-- R221, R222: from (0, 0) to (3, 1) of a 4 by 2 torus the shorter way takes two hops; at equal distance an even source goes up. -/
theorem test_routes :
    dimOk 0x1124 = true ∧ nodeOk 0x1124 0 = true ∧ nodeOk 0x1124 0xB = true ∧ nodeOk 0x1124 4 = false ∧
    walk 0x1124 0xB 0 16 0 = [3, 0xB] ∧ nextPort 0x1124 0 2 0 = some 0 ∧ nextPort 0x1124 1 3 1 = some 1 ∧ nextPort 0x1124 0 3 0 = some 1 := by
  decide +kernel
/-- A session under keys, confidential. -/
def session0 : Session :=
  { integrity := false, keyed := true, txKey := [1], rxKey := [2], txSalt := [], rxSalt := [], txKeys := 0, rxKeys := 0, keyFrames := 0
    keySince := 0, txPhase := false, rxPhase := false, oldRxKey := none }
/-- Node 0 of a ring of four, with port 0 in a state. -/
def ported (m : PortMode) : State :=
  let s := jobbed.modFab fun f => { f with engines := Vector.replicate 4 { (up.engine 0) with
    en := true, node := 0, dim := 0x1114, epoch := 7, ackFrames := 8, limit := 2, timeoutUs := 50, collTimeout := 100, mcHold := 10 } }
  s.modPort 0 fun x => { x with mode := m, peer := 1 }
def linked : State :=
  (ported .up).modPort 0 fun x =>
    { x with rehandshake := false, session := some session0, credits := { entries := [(0, 16384), (1, 16384), (2, 1024), (3, 1024)] } }
/-- The same state once the device clock stands at `ns`. -/
def at_ (s : State) (ns : Nat) : State := { s with devTime := 14 * ns }
/-- A frame from node 1 to this module, next in its order. -/
def frame1 (type : BitVec 4) (op : BitVec 8) : Frame :=
  { blankFrame type true op with
    src := 1, enc := true, epoch := 7, ack := 0xFFF, frno := if type.toNat < 3 then 0x8000000000000000 else 0 }
/-- `FrameGood` and `FrameNext` as checks. -/
def good (s : State) (p : Nat) (type : BitVec 4) (f : Frame) : Bool :=
  decide ((s.port p).mode = .up) && decide (f.type = type) && !f.fecBad && f.crcOk && f.tagOk && !f.rsv &&
  f.enc == !(match (s.port p).session with | some k => k.integrity | none => false)
theorem good_sound {s : State} {p : Nat} {type : BitVec 4} {f : Frame} (h : (good s p type f && State.numberOk (s.port p) f) = true) :
    FrameGood s p type f := by
  simp only [good, Bool.and_eq_true, decide_eq_true_eq, Bool.not_eq_true', beq_iff_eq, and_assoc] at h
  exact ⟨⟨h.1, h.2.1, h.2.2.1, h.2.2.2.1, h.2.2.2.2.1, h.2.2.2.2.2.1, h.2.2.2.2.2.2.1⟩, h.2.2.2.2.2.2.2⟩
/-- What has come once a good sequenced frame is accepted and has left the receive buffer. -/
def accepted (s : State) (p : Nat) (f : Frame) : State := ((creditsIn s p f).acceptSeq p f).owe p f.poolNo f.blocks
def next (s : State) (p : Nat) (type : BitVec 4) (f : Frame) : Bool :=
  good s p type f && State.numberOk (s.port p) f && decide (f.dst = (accepted s p f).node)
theorem next_sound {s : State} {p : Nat} {type : BitVec 4} {f : Frame} (h : next s p type f = true) :
    FrameNext s p type f (accepted s p f) := by
  rw [next, Bool.and_eq_true, decide_eq_true_eq] at h
  exact ⟨good_sound h.1, h.2, rfl⟩
/-- R203, R221: enabling engine 0 darkens its OFF ports; a dimension of one node leaves them OUT, UNUSED. -/
theorem test_opt_ctrl :
    let s := (ported .off).modPort 2 fun x => { x with mode := .off }
    ((after (.optCtrlEn 0) s).port 0).mode = .dark ∧ ((after (.optCtrlEn 1) s).port 2).mode = .out ∧
    ((after (.optCtrlEn 1) s).port 2).cause = 6 := by decide +kernel
/-- R202, R204: a probe starts TRAIN; all lanes, two lanes and no lane; the third failed attempt takes the port OUT. -/
theorem test_train :
    let s := ported .train
    let twice := s.modPort 0 fun x => { x with trainFails := 2 }
    ((after (.peerProbeSeen 0) (ported .dark)).port 0).mode = .train ∧ ((after (.trainDone 0 0xF) s).port 0).width = 3 ∧
    ((after (.trainDone 0 0xE) s).port 0).lanes = 0xC ∧ ((after (.trainDone 0 0xE) s).port 0).mode = .attest ∧
    ((after (.trainDone 0 0) s).port 0).trainFails = 1 ∧ ((after (.trainDone 0 0) twice).port 0).mode = .out ∧
    ((after (.trainDone 0 0) twice).port 0).cause = 1 := by decide +kernel
/-- R209, Table 5-2: loss of light, and the timers at their last and first nanosecond. -/
theorem test_port_ends :
    let r := ported .retrain
    let a := ported .attest
    ((after (.lossOfLight 0) linked).port 0).mode = .retrain ∧ ((after (.lossOfLight 0) a).port 0).mode = .dark ∧
    ((after (.retrainTimeout 0) (at_ r 99999999)).port 0).mode = .retrain ∧ ((after (.retrainTimeout 0) (at_ r 100000000)).port 0).mode = .dark ∧
    ((after (.attestTimeout 0) (at_ a 149999999)).port 0).mode = .attest ∧ ((after (.attestTimeout 0) (at_ a 150000000)).port 0).mode = .out ∧
    ((after (.wavelengthTuning 0) (at_ r 5)).engine 0).tuned = 5 := by decide +kernel
def shaking (n : Nat) : State := (ported .attest).modPort 0 fun x => { x with handshake := n }
def hello1 : HelloMsg := { node := 1, dim := 0x1114, port := 1, nonce := 0, integrity := false }
def evid (sec : BitVec 2) : EvidenceMsg := { body := [], sigOk := true, svn := 0, sec := sec, ownerDigest := 0 }
/-- A certificate chain or a public key, good or bad. -/
def msg (ok : Bool) : ShakeMsg := { body := [1], ok := ok }
/-- R205, R206: HELLO of the neighbour, of another node, and of the other protection mode. -/
theorem test_hello :
    (shaking 0).sec.policy.integrity = false ∧ neighbour (shaking 0).dim (shaking 0).node 0 = 1 ∧
    ((after (.hello 0 hello1) (shaking 0)).port 0).handshake = 1 ∧ ((after (.hello 0 { hello1 with node := 3 }) (shaking 0)).port 0).cause = 2 ∧
    ((after (.hello 0 { hello1 with integrity := true }) (shaking 0)).port 0).cause = 4 := by
  refine ⟨by decide +kernel, by decide +kernel, ?_, by decide +kernel, by decide +kernel⟩
  show (((((shaking 0).modPort 0 fun x => { x with peer := 1, peerNonce := 0 }).shakeTakes 0 (State.helloBytes hello1)).sendCerts 0).port
    0).handshake = 1
  rw [State.sendCerts, State.sendShake_handshake _ _ _ _ _ (by decide)]
  decide +kernel
/-- R206, R358: the other messages, good ones, each of which this module answers with its own. -/
theorem test_handshake :
    ((after (.certs 0 (msg true)) (shaking 1)).port 0).handshake = 2 ∧ ((after (.evidence 0 (evid 0)) (shaking 2)).port 0).handshake = 3 ∧
    ((after (.finish 0 true) (shaking 4)).port 0).mode = .up ∧ ((after (.finish 0 true) (shaking 4)).port 0).handshake = 4 := by
  refine ⟨?_, ?_, by decide +kernel, by decide +kernel⟩
  · show ((((shaking 1).shakeTakes 0 [1]).sendEvidence 0).port 0).handshake = 2
    rw [State.sendEvidence, State.sendShake_handshake _ _ _ _ _ (by decide)]
    decide +kernel
  · show ((((shaking 2).shakeTakes 0 []).sendKeyx 0).port 0).handshake = 3
    rw [State.sendKeyx, State.sendShake_handshake _ _ _ _ _ (by decide)]
    decide +kernel
/-- R206 to R208, R358: the other messages, bad ones. -/
theorem test_handshake_bad :
    ((after (.certs 0 (msg false)) (shaking 1)).port 0).cause = 3 ∧ ((after (.evidence 0 (evid 1)) (shaking 2)).port 0).cause = 4 ∧
    ((after (.keyx 0 (msg false)) (shaking 3)).port 0).cause = 3 ∧ ((after (.finish 0 false) (shaking 4)).port 0).mode = .out := by
  decide +kernel
/-- R358: of an owned module, a peer in debug is accepted only by policy. -/
theorem test_peer_accepted :
    let c (d : Bool) := { up.sec with mode := .owned, policy := { up.sec.policy with anyOwner := true, debugPeers := d } }
    peerAccepted (c false) (c false).policy (evid 1) = true ∧ peerAccepted (c false) (c false).policy (evid 2) = false ∧ peerAccepted (c true) (c true).policy (evid 2) = true ∧
    peerAccepted up.sec up.sec.policy (evid 0) = true := by decide +kernel
/-- R200, R201, R209: the external source comes and the UP port retrains; a completed retraining brings it up with its session, or runs
the handshake again. -/
theorem test_source :
    let s := linked.modFab fun f => { f with loop := true, engines := f.engines.map fun e => { e with elsAllow := true } }
    let t := after (.elsChange true true true) s
    let u := after (.retrainComplete 0 0xF) t
    (t.port 0).mode = .retrain ∧ (u.port 0).mode = .up ∧ (u.port 0).extSrc = true ∧ (u.port 0).session = some session0 ∧
    ((after (.retrainComplete 0 0xF) (ported .retrain)).port 0).mode = .attest ∧ ((after (.elsChange true false true) s).port 0).mode = .up := by
  decide +kernel
/-- One frame in the retry buffer. -/
def held1 : State := linked.modPort 0 fun x => { x with retry := [{ frno := 4, frame := blankFrame 5 true 0, wire := [7] }], txFrno := 5 }
/-- R211 to R218: ACK takes the frame out of the retry buffer, NAK of another sends it again, CREDIT returns credits up to the pool. -/
theorem test_unsequenced :
    FrameGood held1 0 0 (frame1 0 0) ∧ FrameGood held1 0 1 (frame1 1 0) ∧ FrameGood held1 0 2 (frame1 2 0) ∧
    ((after (.ack 0 { frame1 0 0 with ack := 4 }) held1).port 0).retry = [] ∧ ((after (.ack 0 (frame1 0 0)) held1).port 0).retry.length = 1 ∧
    ((after (.nak 0 (frame1 1 0)) held1).port 0).retryCnt = 1 ∧
    ((after (.credit 0 { frame1 2 0 with cred := 9, pool := 3 }) held1).port 0).credits.get 0 3 = 1024 :=
  ⟨good_sound (by decide +kernel), good_sound (by decide +kernel), good_sound (by decide +kernel), by decide +kernel⟩
/-- A credit of a stream is none of a pool. -/
theorem test_stream_credit :
    let f := { frame1 2 0x14 with stream := 6 }
    FrameGood linked 0 2 f ∧ f.streamCredit = true ∧ f.dst = (creditsIn linked 0 f).node ∧
    (after (.credit 0 f) linked).fab.early = [f] := ⟨good_sound (by decide +kernel), by decide +kernel⟩
/-- R239, R241, R242: OPEN is answered, OPEN_ACK opens the peer, CLOSE closes it, KEY_UPDATE is only accepted. -/
theorem test_control_frames :
    FrameNext linked 0 3 (frame1 3 0x07) (accepted linked 0 (frame1 3 0x07)) ∧
    (after (.openMsg 0 (frame1 3 0x07)) linked).out.length = 1 ∧ (after (.openAck 0 (frame1 3 0x08)) linked).fab.opened = [1] ∧
    (after (.close 0 (frame1 3 0x0A)) (linked.modFab fun f => { f with opened := [1, 3] })).fab.opened = [3] ∧
    ((after (.keyUpdate 0 (frame1 3 0x06)) linked).port 0).rxFrno = 1 := ⟨next_sound (by decide +kernel), by decide +kernel⟩
/-- A pipeline queue whose producer is core 0 here and whose consumer is on node 1, or the other way round. -/
def pipe0 (p c : BitVec 12) : PipeQ :=
  { job := 0x100
    rec_ := { qid := 6, pNode := p, cNode := c, pCore := 0, cCore := 0, entry := 64, depth := 4, outDepth := 2, pCredit := 1, pReady := 2
              cFull := 3, cFree := 4, cBase := 0x1000, pBase := 0x2000, rsvZero := true }
    credits := 4, peakUsed := 0, sent := 0, arrived := 0, got := 0, ready := false, cut := false, progress := 0, lost := false }
/-- R241, R242, R246, R250: STALE of this epoch and another, REMOVED, QCREDIT of this epoch and another. -/
theorem test_epoch_frames :
    let s := linked.modFab fun f => { f with queues := [pipe0 0 1], colls := [{ gradColl with grad := none, op := .allGather, group := [0, 1] }] }
    let q := { frame1 3 0x0C with stream := 6 }
    next s 0 3 (frame1 3 0x09) = true ∧ (after (.stale 0 (frame1 3 0x09)) s).fab.colls = [] ∧
    (after (.stale 0 { frame1 3 0x09 with epoch := 8 }) s).fab.colls.length = 1 ∧
    ((after (.qcredit 0 q) s).fab.queues.map fun z => z.credits) = [5] ∧
    ((after (.qcredit 0 { q with epoch := 6 }) s).fab.queues.map fun z => z.credits) = [4] ∧
    ((after (.qcredit 0 { q with epoch := 6 }) s).engine 0).staleCnt = 1 := by decide +kernel
/-- R250, R211: a whole entry reaches the consumer and posts; a POST frame posts; one of core 176 does not. -/
theorem test_data_post :
    let s := linked.modFab fun f => { f with queues := [pipe0 1 0] }
    let d := { frame1 4 0 with stream := 6, payload := Bytes.zeros 63 ++ [7] }
    let p (c : Byte) := { frame1 5 0 with payload := [c, 9, 3, 0] }
    next s 0 4 d = true ∧ next s 0 5 (p 0) = true ∧ ((after (.data 0 d) s).core 0).sem 3 = 1 ∧
    (after (.data 0 d) s).dram.bytes.find? 0x103F = some 7 ∧ ((after (.postFrame 0 (p 0)) s).core 0).sem 9 = 3 ∧
    goes (.postFrame 0 (p 176)) s = true := by decide +kernel
/-- R228, R234, R241, R242: a COLL frame before its collective waits; one of an abandoned epoch is answered STALE. -/
theorem test_coll_frame :
    let s := linked.modFab fun f => { f with abandoned := [6] }
    let c := { frame1 6 0x12 with payload := Bytes.zeros 32 }
    next s 0 6 c = true ∧ (after (.coll 0 c) s).fab.early = [c] ∧ ((after (.coll 0 { c with epoch := 6 }) s).engine 0).staleCnt = 1 ∧
    (after (.coll 0 { c with epoch := 6 }) s).out.length = 1 := by decide +kernel
/-- R235: a seal record of this step's number is taken; another number stops the job. -/
theorem test_seal_frame :
    let s := { linked with jobs := [{ job0 with replicas := [0, 1], steps := [run0] }] }
    let f (n : BitVec 64) := { frame1 7 0x12 with stream := 0x100, payload := State.sealBytes { step := n, verdict := true, lsq := 0, gsq := 0 } }
    next s 0 7 (f 5) = true ∧ ((after (.sealFrame 0 (f 5)) s).jobs.map fun j => j.steps.map fun r => r.seals.length) = [[1]] ∧
    ((after (.sealFrame 0 (f 6)) s).jobs.map fun j => j.stopped) = [true] := by decide +kernel
/-- R213, R216, R220, R242: an MCAST frame of another epoch, of the wrong number, with a bad CRC, with a bad tag. -/
theorem test_mcast_frame :
    let f := frame1 8 0x14
    next linked 0 8 f = true ∧ ((after (.mcast 0 { f with epoch := 6 }) linked).engine 0).staleCnt = 1 ∧
    ((after (.mcast 0 { f with frno := 1, seq := 1 }) linked).port 0).gap = true ∧
    ((after (.mcast 0 { f with crcOk := false }) linked).port 0).gap = true ∧ ((after (.mcast 0 { f with tagOk := false }) linked).port 0).authCnt = 1 ∧
    (after (.mcast 0 f) linked).fab.early = [f] := by decide +kernel
/-- R216 to R218, R208: the timers, each at its last nanosecond and its first. -/
theorem test_port_timers :
    let g := linked.modPort 0 fun x => { x with gap := true, sinceAck := 1 }
    ((after (.retryTimeout 0) (at_ held1 49999)).port 0).noProgress = 0 ∧ ((after (.retryTimeout 0) (at_ held1 50000)).port 0).noProgress = 1 ∧
    ((after (.retryTimeout 0) (at_ (held1.modPort 0 fun x => { x with noProgress := 1 }) 50000)).port 0).mode = .retrain ∧
    (after (.nakRepeat 0) (at_ g 9999)).out.length = 0 ∧ (after (.nakRepeat 0) (at_ g 10000)).out.length = 1 ∧
    ((after (.ackTimer 0) g).port 0).sinceAck = 0 ∧ ((after (.keyUpdateDue 0) (at_ linked 86399999999999)).port 0).keyphase = false ∧
    ((after (.keyUpdateDue 0) (at_ linked 86400000000000)).port 0).keyphase = true := by decide +kernel
/-- A collective of the host over this module alone: 4 bytes at 0x100, its contribution in. -/
def coll0 (done : Bool) : Coll :=
  { gradColl with op := .allGather, group := [0], ifmt := .bytes, ofmt := .bytes, n := 4, src := 0x100, dst := 0x200, grad := none, epoch := 7
                  reduced := [], contribs := if done then [{ node := 0, got := State.putData Tbl.empty 0 [1, 2, 3, 4] }] else []
                  tag := some (0, 9), contributed := true, read := [0] }
/-- R228, R238: a whole collective writes its output; one that is not, or engines that are stopped, change nothing; the timeout. -/
theorem test_collective_done :
    let s (d : Bool) := (sent linked (flightOf 0x27 0x100 [])).modFab fun f => { f with colls := [coll0 d] }
    let stopped := (s true).modEngine 0 fun e => { e with thermal := 2 }
    (coll0 true).whole 0 = true ∧ (coll0 false).whole 0 = false ∧ (s true).stoppedFor (coll0 true) = false ∧
    stopped.stoppedFor (coll0 true) = true ∧
    (after (.collectiveDone 3) (s true)).dram.bytes.find? 0x203 = some 4 ∧ answers (after (.collectiveDone 3) (s true)) = [(0, 0, 0, 0)] ∧
    (after (.collectiveDone 3) (s false)).fab.colls.length = 1 ∧ (after (.collectiveDone 3) stopped).fab.colls.length = 1 ∧
    answers (after (.collTimeout 3) (at_ (s false) 100000000)) = [(Status.fabricLost, 0xFF, 0, 0)] ∧
    ((after (.collTimeout 3) (at_ (s false) 100000000)).engine 0).timeoutCnt = 1 ∧ answers (after (.collTimeout 3) (at_ (s false) 99999999)) = [] := by
  decide +kernel
/-- R227 to R229: COLLECTIVE over this module alone contributes; R240: none starts while a RESHARD waits. -/
theorem test_collective :
    let f := flightOf 0x27 0x100 [(8, 1, 0x11), (9, 1, 2), (10, 1, 0x55), (16, 8, 4), (24, 6, 0x100), (32, 6, 0x200)]
    let s := sent (clean { linked with jobs := [{ job0 with groups := Tbl.empty.put 2 [0] }] } [0x100]) f
    let w := s.modFab fun b => { b with reshard := some (0, 8, []) }
    CommandAt s 9 0x27 0 f ∧ (0 : BitVec 12) ∈ ([0] : List (BitVec 12)) ∧ s.permitted 0x100 0x100 4 false = true ∧
    s.permitted 0x100 0x200 4 true = true ∧ ((after (.collective 9 quiet) s).fab.colls.map fun c => c.contributed) = [true] ∧
    (after (.collective 9 quiet) w).fab.colls = [] :=
  ⟨at9_sound (by decide +kernel), by decide, by decide +kernel⟩
/-- Two receivers of a stream rooted here lie behind one port: the branch point sends to the nearer. -/
theorem test_multicast :
    let f := flightOf 0x27 0x100 [(8, 1, 0x14), (9, 1, 2), (10, 1, 0x55), (14, 2, 6), (16, 8, 4), (24, 6, 0x100), (32, 6, 0x200), (40, 4, 16)]
    let s := sent (clean { linked with jobs := [{ job0 with groups := Tbl.empty.put 2 [0, 1] }] } [0x100]) f
    CommandAt s 9 0x27 0 f ∧ ((after (.collective 9 quiet) s).fab.streams.map fun k => (k.cap, k.branches.map fun b => (b.port, b.nodes))) =
      [(0x1000000, [(0, [1])])] := ⟨at9_sound (by decide +kernel), by decide +kernel⟩
/-- R240: a RESHARD whose layout does not fit is refused; here the premises of each of its clauses. -/
theorem test_reshard :
    let f := flightOf 0x29 0x100 [(16, 8, 0x40), (24, 4, 64)]
    let g := flightOf 0x29 0x100 [(8, 1, 1), (16, 8, 0x40), (24, 4, 64)]
    CommandAt (sent linked f) 9 0x29 0 f ∧ CommandAt (sent linked g) 9 0x29 0 g ∧ (sent linked f).fixOpen job0 = false ∧
    (sent linked f).fab.reshard = none ∧ Bytes.bit (f.arg 8 1) 0 = false ∧ Bytes.bit (g.arg 8 1) 0 = true ∧
    (((sent linked f).markStarted 0 f).withEnv fed).hostBytes (f.arg 16 8) (f.arg 24 4) = List.replicate 64 0x11 :=
  ⟨at9_sound (by decide +kernel), at9_sound (by decide +kernel), by decide +kernel⟩
/-- A stream rooted here, of 64 bytes at 0x100, whose one branch has no credit. -/
def stream0 : McStream :=
  { stream := 6, job := 0x100, root := 0, head := 0, cap := 0x1000000, replay := Tbl.empty, dst := 0, receiving := false, total := 64, src := 0x100
    avail := 64, group := [0, 1], holdFrom := some 0, joins := false
    branches := [{ port := 0, nodes := [1], credits := 0, pos := 0, lagging := false, gone := false }], tag := none }
/-- R245, R247: at OPT_MC_HOLD the stream goes on without its branch; a removed one rejoins at the head. -/
theorem test_streams :
    let s (k : McStream) := (clean linked [0x100]).modFab fun f => { f with streams := [k] }
    let gone := { stream0 with head := 64, branches := stream0.branches.map fun b => { b with gone := true } }
    let f := flightOf 0x28 0x100 [(8, 2, 6), (10, 2, 1)]
    CommandAt (sent (s gone) f) 9 0x28 0 f ∧
    ((after (.mcHoldExpire 6 0) (at_ (s stream0) 9999)).fab.streams.map fun k => k.head) = [0] ∧
    ((after (.mcHoldExpire 6 0) (at_ (s stream0) 10000)).fab.streams.map fun k => (k.head, k.branches.map fun b => b.lagging)) = [(64, [true])] ∧
    answers (after (.mcastRejoin 9) (sent (s gone) f)) = [(0, 0, 0, 64)] ∧
    ((after (.mcastRejoin 9) (sent (s gone) f)).fab.streams.map fun k => k.branches.map fun b => (b.gone, b.pos)) = [[(false, 64)]] :=
  ⟨at9_sound (by decide +kernel), by decide +kernel⟩
/-- R250: the producer sends when its core is ready and a queue credit is left, not otherwise; P_CREDIT waits until the entry has left. -/
theorem test_queue_entry_send :
    let s (open_ : Bool) (n : BitVec 16) := (clean linked [0x2000]).modFab (fun f => { f with queues := [pipe0 0 1], opened := if open_ then [1] else [] }) |>.modCore 0 fun k => k.setSem 2 n
    ((after (.queueEntrySend 6) (s true 1)).fab.queues.map fun z => (z.credits, z.sent)) = [(3, 1)] ∧
    ((after (.queueEntrySend 6) (s true 1)).core 0).sem 1 = 1 ∧ ((after (.queueEntrySend 6) (s true 1)).core 0).sem 2 = 0 ∧
    ((after (.queueEntrySend 6) (s false 1)).core 0).sem 1 = 0 ∧ ((after (.queueEntrySend 6) (s true 0)).fab.queues.map fun z => z.sent) = [0] := by decide +kernel
/-- R203: PORT takes port 0 OUT, retrains it, is refused for port 8 and for a port with a collective in flight. -/
theorem test_port_command :
    let f (p a : Nat) := flightOf 0x06 0xFFFF [(8, 1, p), (9, 1, a)]
    let s (f : Flight) := sent linked f
    let c := (s (f 0 0)).modFab fun b => { b with colls := [{ coll0 false with group := [0, 1] }] }
    CommandAt (s (f 0 0)) 9 0x06 0 (f 0 0) ∧ CommandAt (s (f 7 1)) 9 0x06 0 (f 7 1) ∧ CommandAt (s (f 8 0)) 9 0x06 0 (f 8 0) ∧
    ((after (.portTakeOut 9) (s (f 0 0))).port 0).cause = 8 ∧ ((after (.portRetrain 9) (s (f 0 1))).port 0).mode = .retrain ∧
    answers (after (.portTakeOut 9) (s (f 8 0))) = [(Status.invalidField, 8, 0, 0)] ∧ c.carriesColl 0 = true ∧
    answers (after (.portTakeOut 9) c) = [(Status.inUse, 8, 0, 0)] :=
  ⟨at9_sound (by decide +kernel), at9_sound (by decide +kernel), at9_sound (by decide +kernel), by decide +kernel⟩

/-! ## Chapter 6 -/

/-- A query on group 5: one vector of 64 ones in S16 at 0x1000, one segment whose record stands at 0x2000, results at 0x3000. -/
def queryBytes (job : Nat) : List Byte :=
  Bytes.ofNat 2 job ++ [4, 1] ++ Bytes.ofNat 2 64 ++ Bytes.ofNat 2 1 ++ [0x80, 0] ++ Bytes.ofNat 2 1 ++ Bytes.zeros 4 ++
  Bytes.ofNat 6 0x1000 ++ Bytes.zeros 6 ++ Bytes.ofNat 6 0x2000 ++ Bytes.ofNat 6 0x3000 ++ Bytes.zeros 16 ++ [0xFF] ++ Bytes.zeros 71
/-- Its segment: one vector at 0x4000 with identifier 7. -/
def segBytes : List Byte := Bytes.ofNat 6 0x4000 ++ Bytes.zeros 14 ++ Bytes.ofNat 4 1 ++ Bytes.ofNat 8 7
def ones64 : List Byte := (List.replicate 64 [0x80, 0x3F]).flatten
def group5 : Group :=
  { id := 5, queue := 0, image := 0x300, dies := 1, slot := 2, windows := job0.windows, regions := Tbl.empty, streams := [[(0, 40)]]
    requests := [], completed := 0, schedule := [], toPlace := [], clearing := false, objects := [], pins := [] }
/-- The group is loaded; the query, the segment record and the vectors stand in DRAM, and the Skimmers are enabled. -/
def grouped : State :=
  let row (a : Nat) (bs : List Byte) : List (Nat × Byte) := bs.zipIdx.map fun p => (a + p.2, p.1)
  let s := { up with dram := {
    bytes := { entries := row 0x1000 ones64 ++ row 0x2000 segBytes ++ row 0x4000 ones64 ++ row 0x5000 (queryBytes 5) }
    poison := { entries := [0x1000, 0x1040, 0x2000, 0x4000, 0x4040, 0x5000, 0x5040].map fun a => (a, false) } } }
  { s with groups := [group5], skms := s.skms.map fun u => { u with en := true } }
/-- Host memory with the same query at 0x40. -/
def hostQuery (job : Nat) : Env := { host := [(0x40, queryBytes job)], hostErr := none, ecc := [] }
def skim : Flight := flightOf 0x33 5 [(8, 8, 0x40)]
/-- R261: of three candidates the best two, in either order of arrival; the tie goes to the lower vector identifier. -/
theorem test_best_candidates :
    let d := { (queryDescOf (queryBytes 5)) with k := 2 }
    let c (v : BitVec 64) (x : BitVec 32) : Cand := { score := x, vid := v, seg := 0, pos := v.toNat }
    topCands d [c 1 0x3F800000, c 2 0x40000000, c 3 0x3F800000] = [c 2 0x40000000, c 1 0x3F800000] ∧
    topCands d [c 3 0x3F800000, c 1 0x3F800000, c 2 0x40000000] = [c 2 0x40000000, c 1 0x3F800000] ∧
    List.Perm [c 1 0x3F800000, c 2 0x40000000] [c 2 0x40000000, c 1 0x3F800000] ∧ NumFmt.n32.decode 0x3F800000 ≠ .nan := by decide +kernel
/-- R257, R258, R302: the query is queued at memory die 0's Skimmer; one of another JOB is refused. -/
theorem test_skim_query :
    let s := sent grouped skim
    let t := after (.skimQuery 9 (hostQuery 5)) s
    CommandAt s 9 0x33 0 skim ∧ (((s.markStarted 0 skim).withEnv (hostQuery 5)).queryCheck (hostQuery 5) 5 (queryBytes 5)).1 =
      .ok [segmentOf segBytes] [] ∧ (t.queries.map fun z => (z.id, z.todo)) = [(0, [0])] ∧ (t.skm 0).queue = [0] ∧
    answers (after (.skimQuery 9 (hostQuery 6)) s) = [(Status.invalidField, 0x8000, 0, 0)] :=
  ⟨at9_sound (by decide +kernel), by decide +kernel⟩
/-- R257: a query whose segment lies outside the map, and one whose object is WRITING. -/
theorem test_skim_query_check :
    let s := grouped
    let bad := holding s 0x2000 (Bytes.ofNat 6 0x200000)
    let obj := { (holding s 0x2000 (Bytes.ofNat 6 3 ++ Bytes.zeros 12 ++ [1])) with objs := Tbl.empty.put 3 (Obj.new .dram 4096 0x80000) }
    (bad.queryCheck quiet 5 (queryBytes 5)).1 = .bad Status.mapViolation 28 ∧ (obj.queryCheck quiet 5 (queryBytes 5)).1 = .waits := by
  decide +kernel
/-- R264: a pilot's descriptor at a device address is queued at the Skimmer that its write names, alone. -/
theorem test_skm_submit :
    grouped.mappedRange Tbl.empty 0x5000 128 false = true ∧ anyPoison (grouped.load State.noEnv Tbl.empty 0x5000 128).1 = false ∧
    ((after (.skmSubmit 0 0x5000) grouped).skm 0).queue = [0] ∧ ((after (.skmSubmit 0 0x5000) grouped).skm 1).queue = [] ∧
    ((after (.skmSubmit 1 0x5000) grouped).skm 1).queue = [0] := by decide +kernel
/-- R259, R262, R263: the Skimmer takes the query, scans its one vector (64 products of 1), and the merge answers one block, one vector;
the block holds identifier 7 with score 64. -/
theorem test_skimmer :
    let s := after (.skimQuery 9 (hostQuery 5)) (sent grouped skim)
    let t := after (.skimScanStart 0) s
    let u := after (.skimScanDone 0 quiet) t
    let v := after (.skimMergeDone 0) u
    s.skmNext (s.skm 0) = some 0 ∧ (t.skm 0).running = some 0 ∧ (t.skm 0).queue = [] ∧ (u.skm 0).done = true ∧ (u.skm 0).mode = .merge ∧
    (u.queries.map fun z => (z.todo, z.shares.map fun rs => rs.map fun r => (r.scanned, r.poisonVecs))) = [([], [[(1, 0)]])] ∧
    answers v = [(0, 0, 1, 1)] ∧ v.dram.bytes.find? 0x3040 = some 7 ∧
    [v.dram.bytes.find? 0x304A, v.dram.bytes.find? 0x304B] = [some 0x80, some 0x42] ∧ v.queries = [] := by decide +kernel
/-- A disabled Skimmer starts nothing. -/
theorem test_skimmer_disabled :
    let s := (after (.skimQuery 9 (hostQuery 5)) (sent grouped skim)).modSkm 0 fun u => { u with en := false }
    ((after (.skimScanStart 0) s).skm 0).running = none ∧ (after (.skimMergeDone 0) s).queries.length = 1 := by decide +kernel
/-- A request of one STREAM operation, without deadline. -/
def requestBytes (g : Nat) : List Byte := Bytes.ofNat 8 70 ++ [Bytes.byte g, 1] ++ Bytes.zeros 38
def hostRequest (g : Nat) : Env := { host := [(0x40, requestBytes g)], hostErr := none, ecc := [] }
/-- R274: the request joins its group; one that names another group is refused at byte 8; another queue's group is WRONG_QUEUE. -/
theorem test_serve_submit :
    let f := flightOf 0x32 5 [(8, 8, 0x40), (16, 2, 48)]
    let s := sent grouped f
    let other := { s with groups := [{ group5 with queue := 3 }] }
    CommandAt s 9 0x32 0 f ∧ ((after (.serveSubmit 9 (hostRequest 5)) s).groups.map fun g => g.requests.map fun r => (r.seq, r.ops.length)) =
      [[(70, 1)]] ∧ answers (after (.serveSubmit 9 (hostRequest 6)) s) = [(Status.invalidField, 0x8008, 0, 0)] ∧
    answers (after (.serveSubmit 9 (hostRequest 5)) other) = [(Status.wrongQueue, 3, 0, 0)] := ⟨at9_sound (by decide +kernel), by decide +kernel⟩
def op0 : ServeOp := { skim := false, dlOff := 0, arg := 0, started := false, overdue := false, startedAt := 0, stallAt := [] }
/-- A request of tag 9 with these operations. -/
def req0 (ops : List ServeOp) (running : Bool) : Request :=
  { queue := 0, tag := 9, seq := 70, accept := 0, ops := ops, cur := 0, running := running, query := none, reports := 0, failed := none }
def serving (r : Request) : State :=
  { sent grouped { flightOf 0x32 5 [] with started := true } with groups := [{ group5 with requests := [r] }] }
/-- R275: the first operation takes SEQ to the slot and starts the group's cores at their stream; a later one only starts them. -/
theorem test_serve_op_start :
    let t := after (.serveOpStart 5) (serving (req0 [op0] false))
    let u := after (.serveOpStart 5) (serving (req0 [op0] true))
    (serving (req0 [op0] false)).groupIdle group5 = true ∧ (t.almSlot 2).step = 70 ∧ (t.core 0).regs.mode = .run ∧
    (t.core 0).pipe.fetchPc = 40 ∧ (u.core 7).regs.mode = .run ∧ (u.almSlot 2).step ≠ 70 ∧
    ((after (.serveOpStart 5) (serving (req0 [{ op0 with started := true }] true))).core 0).regs.mode = .idle := by decide +kernel
/-- R275, R276: the next operation follows, or the request ends OK. -/
theorem test_serve_op_done :
    let o := { op0 with started := true }
    ((after (.serveOpDone 5) (serving (req0 [o, op0] true))).groups.map fun g => g.requests.map fun r => r.cur) = [[1]] ∧
    answers (after (.serveOpDone 5) (serving (req0 [o] true))) = [(0, 0, 0, 70)] ∧ State.opDeadline (req0 [o] true) o = none := by decide +kernel
/-- R277: at the deadline the report is written, once; a nanosecond before it is not. -/
theorem test_deadline_overdue :
    let s (ns : Nat) := at_ (serving (req0 [{ op0 with dlOff := 500 }] true)) ns
    (after (.deadlineOverdue 5 0) (s 499)).log.retained.length + (after (.deadlineOverdue 5 0) (s 499)).log.ring.length = 0 ∧
    ((after (.deadlineOverdue 5 0) (s 500)).groups.map fun g => g.requests.map fun r => r.reports) = [[1]] ∧
    ((after (.deadlineOverdue 5 0) (after (.deadlineOverdue 5 0) (s 500))).groups.map fun g => g.requests.map fun r => r.reports) = [[1]] := by
  decide +kernel
/-- R301: CANCEL finds the request that has not begun, or none. -/
theorem test_cancel :
    let f (n : Nat) := { flightOf 0x34 5 [(8, 8, n)] with tag := 8, n := 1 }
    let s (n : Nat) := (serving (req0 [op0] false)).modQueue 0 fun h => { h with flights := h.flights ++ [f n], fetched := 2 }
    (s 70).flightOf 8 = some (0, f 70) ∧ (s 70).mayStart 0 (f 70) true = true ∧
    answers (after (.cancel 8) (s 70)) = [(Status.stopped, 0, 0, 70), (0, 0, 1, 0)] ∧ answers (after (.cancel 8) (s 71)) = [(0, 0, 0, 0)] := by
  decide +kernel

/-! ## Chapter 7 -/

/-- Queue 2 with rings of these sizes, not enabled. -/
def ringed (sq cq : BitVec 4) : State := up.modQueue 2 fun h => { h with sqBase := 1, cqBase := 2, sqLog2 := sq, cqLog2 := cq }
/-- R285, R286: sizes 1 and 8 are legal, 9 is not; ENABLE = 0 with nothing in flight. -/
theorem test_queue_enable :
    let t := after (.qCtrlEnable 2) (ringed 1 8)
    let u := after (.qCtrlEnable 2) (ringed 9 8)
    (t.queue 2).enabled = true ∧ (t.queue 2).phase = true ∧ (t.src 0x10A).pulse = 1 ∧ (u.queue 2).enabled = false ∧ (u.queue 2).error = 3 ∧
    u.bar.icQerr = true ∧ ((after (.qCtrlEnable 2) t).queue 2).error = 0 ∧ ((after (.qCtrlDisable 2) t).queue 2).enabled = false := by
  decide +kernel
/-- R287: a doorbell of a queue that is off; the last legal place; one beyond. -/
theorem test_doorbells :
    let t := after (.qCtrlEnable 2) (ringed 2 2)
    ((after (.qSqTailDb 2 1) (ringed 2 2)).queue 2).igndbCnt = 1 ∧ ((after (.qSqTailDb 2 3) t).queue 2).tail = 3 ∧
    ((after (.qSqTailDb 2 4) t).queue 2).error = 1 ∧ ((after (.qCqHeadDb 2 3) t).queue 2).head = 3 ∧
    ((after (.qCqHeadDb 2 4) t).queue 2).errCnt = 1 ∧ ((after (.qCqHeadDb 2 4) (ringed 2 2)).queue 2).igndbCnt = 1 := by decide +kernel
/-- R282, R289: the coalescing timer, a masked vector, a cause that is enabled. -/
theorem test_host_interrupts :
    let s := (sent up (flightOf 1 0xFFFF [])).modQueue 0 fun h => { h with unsig := 1, imodTime := 5, vector := 4 }
    let m (b : Bool) := { s with bar := { s.bar with msix := s.bar.msix.put (4 * 4 + 3) (if b then 1 else 0), intEnable := 4, msixOn := true } }
    ((after (.imodTimer 0) (at_ s 4999)).queue 0).unsig = 1 ∧ ((after (.imodTimer 0) (at_ s 5000)).queue 0).unsig = 0 ∧
    (m true).bar.masked 4 = true ∧ (m false).bar.masked 4 = false ∧ ((m true).sendMsix 4).bar.msixPend = 0x10 ∧
    ((m false).sendMsix 4).out.length = 1 ∧ ((m false).raiseCause .qerr).bar.icQerr = true := by decide +kernel
/-- R354: once a stream has left Secure, the wait of a started command with a host access, and of a record, ends after its second; a FENCE
goes on. -/
theorem test_ide_wait :
    let i := { up with sec := { up.sec with linkIde := { up.sec.linkIde with left := true } } }
    let c := sent i { flightOf 1 0xFFFF [] with started := true }
    let r := i.modQueue 0 fun h => { h with enabled := true, waiting := [recordOf i (flightOf 1 0xFFFF []) 0 0 0 0] }
    c.ideStall = true ∧ (r.queue 0).error = 0 ∧ answers (after (.ideWaitTimeout 0 (some 9)) c) = [(Status.hostDmaError, 4, 0, 0)] ∧
    ((after (.ideWaitTimeout 0 none) r).queue 0).error = 2 ∧
    i.hostAccess 0 (flightOf 1 0xFFFF []) = true ∧ i.hostAccess 0 (flightOf 0x25 0x100 []) = false ∧
    answers (after (.ideWaitTimeout 0 (some 9)) (sent i { flightOf 0x25 0x100 [] with started := true })) = [] ∧
    ((i.modBar fun b => { b with msixOn := true, msix := b.msix.put 15 0 }).sendMsix 3).bar.msixWait = [3] := by decide +kernel
/-- R287, R290 to R292: the last place of a ring of four is fetched into the lowest free tag and the position wraps; a bad code waits for
its turn, which is now. -/
theorem test_command_fetch :
    let s := up.modQueue 0 fun h => { h with enable := true, enabled := true, sqBase := 1, cqBase := 2, sqLog2 := 2, cqLog2 := 2, fetchPos := 3 }
    let x (opc : Nat) : Env := { host := [(0x10C0, descOf opc 0xFFFF [(8, 8, 0x40)])], hostErr := none, ecc := [] }
    let t := after (.commandFetch 0 (x 1)) s
    s.tagFor 0 = some 0 ∧ s.ideStall = false ∧ s.sec.ownerHold = false ∧ (s.queue 0).fetchPos ≠ (s.queue 0).tail ∧
    (t.queue 0).fetchPos = 0 ∧ ((t.queue 0).flights.map fun f => (f.tag, f.refused)) = [(0, none)] ∧
    answers (after (.commandFetch 0 (x 0x7F)) s) = [(Status.invalidOpcode, 0, 0, 0)] ∧
    ((after (.commandFetch 0 { x 1 with hostErr := some 1 }) s).queue 0).error = 2 := by decide +kernel
/-- R288, R289: the record goes to the tail's slot and the phase turns where the ring wraps; a full ring holds it. -/
theorem test_record_post :
    let s (head : Nat) := up.modQueue 0 fun h => { h with enable := true, enabled := true, sqBase := 1, cqBase := 2, sqLog2 := 2, cqLog2 := 2
                                                          phase := true, cqTail := 3, head := head
                                                          waiting := [recordOf up (flightOf 1 0xFFFF []) 0 0 0 0] }
    let t := after (.cqRecordPost 0) (s 1)
    (t.queue 0).cqTail = 0 ∧ (t.queue 0).phase = false ∧ (t.queue 0).waiting = [] ∧ t.host.bytes.find? 0x2060 = some 0x34 ∧
    t.host.bytes.find? 0x207F = some 0 ∧ ((after (.cqRecordPost 0) (s 0)).queue 0).holdCnt = 1 ∧
    ((after (.cqRecordPost 0) (s 0)).queue 0).waiting.length = 1 := by decide +kernel
/-- R292, R319: a command that depends on a failed one completes SKIPPED with it. -/
theorem test_command_completes :
    let g := { flightOf 1 0xFFFF [(4, 1, 1)] with n := 1, tag := 8 }
    let s := (sent up (flightOf 1 0xFFFF [])).modQueue 0 fun h =>
      { h with flights := [{ flightOf 1 0xFFFF [] with started := true }, g], ended := Tbl.empty.put 0 Status.failed }
    answers (s.finish 0 (flightOf 1 0xFFFF []) Status.failed 7 0 0) = [(Status.failed, 7, 0, 0), (Status.skipped, 0, 0, 0)] := by decide +kernel
/-- R294, R392, R408: LOG_READ of an empty log, HEADINGS of a legal table and of one with a bad point, LOG_CLEAR by pilot 0, a page that
is none, an unaligned buffer. -/
theorem test_device_commands :
    let l := flightOf 0x03 0xFFFF [(8, 8, 0x40), (16, 4, 3), (24, 8, 12)]
    let h := flightOf 0x05 0xFFFF [(8, 8, 0x40), (16, 4, 64)]
    let c := flightOf 0x04 0xFFFF []
    let p := flightOf 0x02 0xFFFF [(8, 8, 0x40), (16, 4, 64), (20, 1, 7)]
    let i := flightOf 0x01 0xFFFF [(8, 8, 0x20)]
    CommandAt (sent up l) 9 0x03 0 l ∧ CommandAt (sent up h) 9 0x05 0 h ∧ CommandAt (sent up c) 9 0x04 0 c ∧
    CommandAt (sent up p) 9 0x02 0 p ∧ CommandAt (sent up i) 9 0x01 0 i ∧ answers (after (.logRead 9 quiet) (sent up l)) = [(0, 0, 0, 12)] ∧
    State.headingsBad (List.replicate 64 0) = none ∧ answers (after (.headings 9 { fed with host := [(0x40, Bytes.zeros 64)] }) (sent up h)) =
      [(0, 0, 0, 0)] ∧ answers (after (.headings 9 { fed with host := [(0x40, [16] ++ Bytes.zeros 63)] }) (sent up h)) =
      [(Status.invalidField, 0x8000, 0, 0)] ∧ answers (after (.logClear 9 0) (sent up c)) = [(0, 0, 0, 0)] ∧
    answers (after (.telemetry 9 quiet) (sent up p)) = [(Status.invalidField, 20, 0, 0)] ∧
    answers (after (.identify 9 quiet) (sent up i)) = [(Status.invalidField, 8, 0, 0)] :=
  ⟨at9_sound (by decide +kernel), at9_sound (by decide +kernel), at9_sound (by decide +kernel), at9_sound (by decide +kernel),
    at9_sound (by decide +kernel), by decide +kernel, by decide +kernel, by decide +kernel, by decide +kernel, by decide +kernel,
    by decide +kernel⟩
/-- A SERVING image of one die with an empty stream table. -/
def servingImage : List Byte :=
  Bytes.ofNat 4 0x4E524F46 ++ [1, 0, 1, 0] ++ Bytes.ofNat 8 320 ++ [1, 0, 0, 0, 1, 0, 0, 0] ++ Bytes.zeros 232 ++
  [0x0C, 0, 0, 0, 0, 0, 0, 0] ++ Bytes.ofNat 8 320 ++ Bytes.zeros 48
def load300 : Flight := flightOf 0x20 0x300 [(8, 8, 0x40), (16, 8, 320)]
def hostImage : Env := { host := [(0x40, servingImage)], hostErr := none, ecc := [] }
/-- R303 to R309: the image passes its checks (but for its semaphores and its stream table, which stand in formats that the spec does not give) and has room; an
identifier in use, and an image whose magic is wrong. -/
theorem test_job_load :
    let w := ((sent up load300).markStarted 0 load300).withEnv hostImage
    let taken := sent { up with jobs := [{ job0 with id := 0x300 }] } load300
    CommandAt (sent up load300) 9 0x20 0 load300 ∧ containerError servingImage 320 = none ∧ w.signatureError servingImage = none ∧
    w.hostBytes 0x40 320 = servingImage ∧ w.idTaken 0x300 = false ∧ taken.idTaken 0x300 = true ∧
    w.sharedErrorOf servingImage (fun c => decide (c < 8)) 0x06 = none ∧
    answers (after (.jobLoad 9 fed) (sent up load300)) = [(Status.imageInvalid, 0x1FF, 0, 0)] :=
  ⟨at9_sound (by decide +kernel), by decide +kernel⟩
theorem test_job_load_room :
    (((sent up load300).markStarted 0 load300).withEnv hostImage).roomError [] (fun m => if m = 0 then 320 else 0) = none := by
  simp only [State.roomError, State.areaFits, State.areaBytes]
  by_cases h : Config.variant64 = true <;> simp only [h] <;> decide +kernel
/-- R303: a training image of die 0 whose contents pass (they stand in formats that the spec does not give): its dies and its slot. -/
theorem test_job_load_training (b : List Byte) (w : State) (hw : w = ((sent up load300).markStarted 0 load300).withEnv hostImage)
    (_ : containerError b 320 = none) (_ : w.imageErrorOf b 1 = none) :
    w.anyTaken 1 = false ∧ w.freeSlot = some 0 ∧ w.idTaken 0x300 = false := by subst hw; decide +kernel
/-- R148, R308: JOB_REGION maps region 0, whole; not while a step is in flight. -/
theorem test_job_region :
    let f := flightOf 0x21 0x100 [(9, 1, 1), (16, 8, 0x7000), (24, 8, 0x1000)]
    let b := { sent jobbed f with jobs := [{ job0 with steps := [run0] }] }
    CommandAt (sent jobbed f) 9 0x21 0 f ∧ ((after (.jobRegion 9) (sent jobbed f)).jobs.map fun j => (j.regions.find? 0).map fun g => (g.hbase, g.perm)) =
      [some (0x7000, 1)] ∧ answers (after (.jobRegion 9) b) = [(Status.inUse, 6, 0, 0)] := ⟨at9_sound (by decide +kernel), by decide +kernel⟩
/-- R309: a stopped job is unloaded; one that is not is not. -/
theorem test_job_unload :
    let f := flightOf 0x23 0x100 []
    let s (b : Bool) := sent { jobbed with jobs := [{ job0 with stopped := b }] } f
    CommandAt (s true) 9 0x23 0 f ∧ (s true).stopOver { job0 with stopped := true } = true ∧ (s true).jobBusy { job0 with stopped := true } f = false ∧
    (after (.jobUnload 9) (s true)).jobs = [] ∧ answers (after (.jobUnload 9) (s false)) = [(Status.inUse, 6, 0, 0)] :=
  ⟨at9_sound (by decide +kernel), by decide +kernel⟩
/-- R309: GROUP_CREATE on die 0 of an image of one die; dies that are taken; every slot taken. -/
theorem test_group_create :
    let f := flightOf 0x30 5 [(8, 2, 0x300), (12, 4, 1)]
    let s (u : State) := sent { u with images := [{ id := 0x300, dies := 1, digest := 0, bytes := [] }] } f
    let full := { up with alm := { up.alm with slots := Vector.replicate 8 { (up.almSlot 0) with valid := true } } }
    CommandAt (s up) 9 0x30 0 f ∧ (s up).anyTaken 1 = false ∧ (s up).freeSlot = some 0 ∧ popcount (1 : BitVec 22) = 1 ∧
    answers (after (.groupCreate 9) (s jobbed)) = [(Status.inUse, 12, 0, 0)] ∧
    answers (after (.groupCreate 9) (s full)) = [(Status.noResource, 1, 0, 0)] := ⟨at9_sound (by decide +kernel), by decide +kernel⟩
/-- R308: GROUP_DESTROY of a group without and with a request. -/
theorem test_group_destroy :
    let f := flightOf 0x31 5 []
    let busy := { sent grouped f with groups := [{ group5 with requests := [req0 [op0] false] }] }
    CommandAt (sent grouped f) 9 0x31 0 f ∧ (after (.groupDestroy 9) (sent grouped f)).groups = [] ∧
    answers (after (.groupDestroy 9) (sent grouped f)) = [(0, 0, 0, 0)] ∧ answers (after (.groupDestroy 9) busy) = [(Status.inUse, 6, 0, 0)] :=
  ⟨at9_sound (by decide +kernel), by decide +kernel⟩
/-- R300: JOB_STOP stops the job, waits for the cancellation, and then answers the job's last step. -/
theorem test_job_stop :
    let f := flightOf 0x22 0x100 []
    let s := sent jobbed f
    let t := after (.jobStop 9) s
    CommandAt s 9 0x22 0 f ∧ (t.jobs.map fun j => j.stopped) = [true] ∧ answers t = [] ∧
    answers (after (.jobStop 9) (after .cancelComplete t)) = [(0, 0, 0, 4)] := ⟨at9_sound (by decide +kernel), by decide +kernel⟩

/-! ## Chapter 8 -/

/-- R316: a FENCE with nothing before it answers the failures since the last; behind a record that waits, or an earlier command, it
waits. -/
theorem test_fence :
    let f := flightOf 0x25 0x100 []
    let s := (sent jobbed f).modQueue 0 fun h => { h with fenceFails := 3 }
    let w := s.modQueue 0 fun h => { h with waiting := [recordOf s (flightOf 1 0xFFFF []) 0 0 0 0] }
    CommandAt s 9 0x25 0 f ∧ CommandAt w 9 0x25 0 f ∧ answers (after (.fence 9) s) = [(0, 0, 3, 0)] ∧
    ((after (.fence 9) s).queue 0).fenceFails = 0 ∧ ((after (.fence 9) w).queue 0).flights = [f] :=
  ⟨at9_sound (by decide +kernel), at9_sound (by decide +kernel), by decide +kernel⟩
/-- The job with its region mapped for both directions at host address 0x8000. -/
def regioned (j : Job) : State :=
  let g : Region := { declLen := 0x1000, declPerm := 3, mapped := true, hbase := 0x8000, len := 0x1000, perm := 3 }
  { jobbed with jobs := [{ j with regions := Tbl.empty.put 0 g }] }
/-- DMA of 64 bytes between offset `off` of the region and device address `a`. -/
def dma (dir off a : Nat) : Flight := flightOf 0x26 0x100 [(8, 1, dir), (16, 8, off), (24, 6, a), (32, 8, 64)]
/-- R299: outward the last 64 bytes of the region take the device's, inward the device takes the host's; a byte further is MAP_VIOLATION. -/
theorem test_dma :
    let s (f : Flight) := holding (sent (regioned job0) f) 0x40 (List.replicate 64 0x33)
    let o := dma 1 0xFC0 0x40
    let i := dma 0 0 0x40
    CommandAt (s o) 9 0x26 0 o ∧ CommandAt (s i) 9 0x26 0 i ∧ (s o).permitted 0x100 0x40 64 false = true ∧
    answers (after (.dma 9 quiet) (s o)) = [(0, 0, 0, 0)] ∧ (after (.dma 9 quiet) (s o)).host.bytes.find? 0x8FFF = some 0x33 ∧
    answers (after (.dma 9 quiet) (s (dma 1 0xFC1 0x40))) = [(Status.mapViolation, 16, 0, 0)] ∧
    answers (after (.dma 9 quiet) (s (dma 1 0 0x100000))) = [(Status.mapViolation, 24, 0, 0)] ∧
    (after (.dma 9 { fed with host := [(0x8000, List.replicate 64 0x11)] }) (s i)).dram.bytes.find? 0x7F = some 0x11 :=
  ⟨at9_sound (by decide +kernel), at9_sound (by decide +kernel), by decide +kernel, by decide +kernel, by decide +kernel, by decide +kernel,
    by decide +kernel, by decide +kernel⟩
/-- R299: a poisoned unit goes out as a poisoned TLP, and its offset is answered. -/
theorem test_dma_poison :
    let f := dma 1 0 0x40
    let s := (holding (sent (regioned job0) f) 0x40 (List.replicate 64 0x33)).dramWrite 0x40 [(0, true)]
    anyPoison (s.load quiet Tbl.empty 0x40 64).1 = true ∧ answers (after (.dma 9 quiet) s) = [(Status.poisoned, 0, 0, 0)] ∧
    (after (.dma 9 quiet) s).host.bytes.find? 0x8000 = none := by decide +kernel
/-- R143: EXPORT of the job's one shard answers 1 and its bytes; while a step is in flight it waits; a region that is too short. -/
theorem test_export :
    let f := flightOf 0x2C 0x100 [(14, 2, 1)]
    let s := sent (regioned shardJob) f
    let busy := sent (regioned { shardJob with steps := [run0] }) f
    let short := sent (regioned shardJob) (flightOf 0x2C 0x100 [(14, 2, 1), (16, 8, 0xFC0)])
    CommandAt s 9 0x2C 0 f ∧ CommandAt busy 9 0x2C 0 f ∧ (State.shardsUp shardJob).map (fun sh => sh.num) = [0] ∧
    shardLen { shardJob.shards.headD { num := 0, die := 0, listAddr := 0, descs := [upd0], digest := 0, newDigest := 0, diverged := false,
                                       repair := none, finished := false } with digest := 0 } false = 768 ∧
    (s.jobs.map fun j => regionHolds j.regions 0 0 768 true) = [true] ∧
    answers (after (.exportState 9 quiet) short) = [(Status.mapViolation, 16, 0, 0)] ∧ (after (.exportState 9 quiet) busy).out.length = 0 ∧
    ((after (.exportState 9 quiet) busy).queue 0).flights = [f] :=
  ⟨at9_sound (by decide +kernel), at9_sound (by decide +kernel), by decide +kernel⟩
/-- R331, R334, R335: FIX into the region; it waits for a step in flight and for the digests of its replicas; a diverged shard without a
source is refused. -/
theorem test_fix :
    let f := flightOf 0x2A 0x100 [(8, 1, 1)]
    let s (j : Job) := sent (regioned j) f
    let two := { job0 with replicas := [0, 1] }
    let div := { shardJob with shards := shardJob.shards.map fun sh => { sh with diverged := true } }
    CommandAt (s job0) 9 0x2A 0 f ∧ (s job0).fixPlaceError (((s job0).job? 0x100).getD job0) f (State.fixLen job0) true = none ∧
    (s job0).peersCover job0 [] = true ∧ (s two).peersCover two [] = false ∧
    answers (after (.fix 9 [] quiet) (s two)) = [] ∧ answers (after (.fix 9 [] quiet) (s { job0 with steps := [run0] })) = [] ∧
    answers (after (.fix 9 [] quiet) (s div)) = [(Status.failed, 0x0701, 0, 0)] ∧ answers (after (.fix 9 [] quiet) (s job0)) = [(0, 0, 0, 4)] :=
  ⟨at9_sound (by decide +kernel), by decide +kernel, by decide +kernel, by decide +kernel, by decide +kernel, by decide +kernel,
    by decide +kernel, by decide +kernel⟩
/-- A fix of no shard with step 77; `magic` is its first byte. -/
def fixBytes (magic : Byte) : List Byte :=
  [magic, 0x4C, 0x46, 0x58, 1, 0, 0, 0] ++ Bytes.zeros 8 ++ Bytes.ofNat 8 256 ++ Bytes.zeros 40 ++ Bytes.ofNat 8 77 ++ Bytes.zeros 184
def hostFix (magic : Byte) : Env := { host := [(0x8000, fixBytes magic)], hostErr := none, ecc := [] }
def restore0 : Flight := flightOf 0x2B 0x100 [(8, 1, 1)]
def restoring (sub : Bool) : State := sent (regioned { job0 with submitted := sub }) restore0
/-- R336: a job that has submitted a step, and a fix whose digest cannot be right. -/
theorem test_restore_refused :
    CommandAt (restoring false) 9 0x2B 0 restore0 ∧ CommandAt (restoring true) 9 0x2B 0 restore0 ∧ (restoring false).restoreWaits 9 = false ∧
    answers (after (.restore 9 (hostFix 0x47)) (restoring true)) = [(Status.inUse, 6, 0, 0)] ∧ State.fixDigestOk (fixBytes 0x46) = false ∧
    answers (after (.restore 9 (hostFix 0x46)) (restoring false)) = [(Status.failed, 0x0702, 0, 0)] :=
  ⟨at9_sound (by decide +kernel), at9_sound (by decide +kernel), by decide +kernel⟩
/-- R336: with a digest that is right, the fix of step 77 matches the job. -/
theorem test_restore (h : Config.sha384 ((fixBytes 0x47).take 128 ++ Bytes.zeros 48 ++ (fixBytes 0x47).drop 176) = 0) :
    State.fixDigestOk (fixBytes 0x47) = true ∧ State.fixMatches job0 (fixBytes 0x47) = true ∧
    (trainOf (Bytes.slice (fixBytes 0x47) 64 64)).step = 77 ∧ ((restoring false).restoreJob job0 (fixBytes 0x47)).jobs.map (fun j => j.train.step) =
      [77] := by
  refine ⟨?_, by decide +kernel⟩
  simp only [State.fixDigestOk, h]
  decide +kernel

/-! ## Chapter 9 -/

/-- A CLAIM block for serial number 0, epoch 0 and boot nonce 0, with an empty key and policy. -/
def claimBlock : List Byte := Bytes.ofNat 4 0x424E574F ++ [0, 0] ++ Bytes.ofNat 2 160 ++ Bytes.zeros 376
def claim0 (haddr : Nat) : Flight := flightOf 0x07 0xFFFF [(16, 8, haddr), (24, 4, 384)]
def claiming : State := sent { up with sec := { up.sec with nonce := 0, epochFuses := 0 } } (claim0 0x40)
/-- R342: what is no block is refused at its first byte; an unaligned address is refused. -/
theorem test_claim_refused :
    CommandAt claiming 9 0x07 0 (claim0 0x40) ∧ claiming.sec.changes = [] ∧
    answers (after (.claim 9 fed) claiming) = [(Status.invalidField, 0x8000, 0, 0)] ∧
    answers (after (.claim 9 fed) (sent up (claim0 0x20))) = [(Status.invalidField, 16, 0, 0)] ∧
    answers (after (.policy 9 fed) (sent up (flightOf 0x07 0xFFFF [(8, 1, 3), (16, 8, 0x40), (24, 4, 384)]))) =
      [(Status.invalidField, 0x8000, 0, 0)] := ⟨at9_sound (by decide +kernel), by decide +kernel⟩
/-- That command, started, as the change that is next. -/
def change0 : OwnerChange := { cmd := some (0, 0), block := claimBlock }
def changing (fs : List Flight) : State :=
  let s := sent claiming (claim0 0x40)
  { s with sec := { s.sec with changes := [change0] }
           queues := vmod s.queues 0 fun h => { h with flights := { claim0 0x40 with started := true } :: fs } }
/-- R342, R345: a block that its key has signed for this module passes the checks; nothing is loaded and nothing else is in flight, so it is
made; while another command is, it waits. -/
theorem test_claim_accepted (hs : Config.serial = 0) (hv : ∀ k m g, Config.sigVerifies k m g = true) :
    claiming.blockError 0 claimBlock 384 = none ∧ claiming.changeError 0 claimBlock = none ∧ State.mustWait 0 claimBlock = true ∧
    (claiming.markStarted 0 (claim0 0x40)).quiet = true ∧ (changing []).changeForm change0 = (0, 384) ∧
    (changing []).changeFlight change0 = some (0, { claim0 0x40 with started := true }) ∧ (changing []).changeWaits change0 = false ∧
    (changing [{ flightOf 0x24 0x100 [] with n := 1, tag := 3, started := true }]).changeWaits change0 = true := by
  refine ⟨?_, by decide +kernel⟩
  have h5 : claiming.blockKeys 0 claimBlock = [[Bytes.slice claimBlock 128 96]] := by decide +kernel
  have h1 : blockBad claimBlock 384 = none := by decide +kernel
  have h2 : claiming.ownerAllows 0 = true := by decide +kernel
  have h3 : Bytes.slice claimBlock 32 48 = State.digestBytes claiming.sec.nonce := by decide +kernel
  have h4 : Bytes.field claimBlock 4 1 = 0 ∧ Bytes.field claimBlock 8 8 = 0 ∧ Bytes.field claimBlock 24 4 = claiming.sec.epochFuses := by
    decide +kernel
  simp [State.blockError, h1, h2, h3, h4, h5, hs, hv]
/-- R345: one that its checks refuse answers its command, or OWNER_BLOCK over the sideband, and the next may follow. -/
theorem test_change_refused :
    let s := changing []
    let bad : OwnerChange := { change0 with block := [1] }
    let c := { s with sec := { s.sec with changes := [bad] } }
    let o := { s with sec := { s.sec with changes := [{ bad with cmd := none }] } }
    c.changeRefused bad = some (Status.invalidField, 0x8000) ∧ answers c.changesMove = [(Status.invalidField, 0x8000, 0, 0)] ∧
    c.changesMove.sec.changes = [] ∧ o.changesMove.out = o.out ++ [.mctp 0x04 [0x21, 0, 0, 0x80]] ∧ o.changesMove.sec.changes = [] := by
  decide +kernel
/-- R341, R344, R360, R362: what CLAIM, DEBUG_UNLOCK and DEBUG_LOCK leave. -/
theorem test_block_effects :
    let u : FlashDie := { (linked.flash 0) with tabA := Tbl.empty.put (unitKey 5 0) { pages := [], debug := true } }
    let s := { linked with objs := Tbl.empty.put 5 flashObj, flashes := vmod linked.flashes 0 fun _ => u }
    let y := s.applyBlock 0 claimBlock
    let d := s.applyBlock 4 ((Bytes.zeros 128) ++ [0x10] ++ Bytes.zeros 15)
    let l := d.debugLock s.sec.flashKeyGen
    s.objs.rising = true ∧ y.sec.mode = .owned ∧ y.sec.epochFuses = s.sec.epochFuses + 1 ∧ y.objs.entries = [] ∧ y.sec.ownerKey.length = 96 ∧
    y.bar.sec = 1 ∧ (y.port 0).mode = .retrain ∧ (y.port 0).session = none ∧ d.sec.mode = .debug ∧ d.sec.scope = 0x10 ∧ d.sec.jtagOpen = true ∧
    (d.obj? 5).isSome = true ∧ l.sec.mode = .owned ∧ l.sec.flashKeyGen = s.sec.flashKeyGen ∧ d.debugWritten 5 = true ∧
    l.obj? 5 = none := by decide +kernel
/-- R362: the escrow blob gives back the flash key of its generation. -/
theorem test_blob_keys (h : Config.escrowSeal 0 3 (Bytes.ofNat 4 0x57534345 ++ Bytes.zeros 44) = []) :
    let s := { up with sec := { up.sec with heldFlashKey := some 3, epochFuses := 0 } }
    s.blobKeys (Bytes.ofNat 4 0x57534345 ++ Bytes.zeros 316) = some 3 := by
  have h1 : (Bytes.ofNat 4 0x57534345 ++ Bytes.zeros 316).take 48 = Bytes.ofNat 4 0x57534345 ++ Bytes.zeros 44 := by decide +kernel
  have h2 : ((Bytes.ofNat 4 0x57534345 ++ Bytes.zeros 316).drop 48 == Bytes.fit 272 []) = true := by decide +kernel
  have h3 : Bytes.field (Bytes.ofNat 4 0x57534345 ++ Bytes.zeros 316) 0 4 = 0x57534345 ∧
      Bytes.field (Bytes.ofNat 4 0x57534345 ++ Bytes.zeros 316) 4 4 = 0 := by decide +kernel
  simp [State.blobKeys, h1, h3, h, h2, -List.cons_append, -List.append_eq]
/-- R341: RELEASE and POLICY. -/
theorem test_release_policy :
    let s := { up with sec := { up.sec with mode := .owned, ownerKey := [1] } }
    (s.applyBlock 2 (Bytes.zeros 128)).sec.mode = .unowned ∧ (s.applyBlock 2 (Bytes.zeros 128)).sec.ownerKey = [] ∧
    (s.applyBlock 3 (Bytes.zeros 128 ++ [4] ++ Bytes.zeros 63)).sec.policy.valLogAllow = true ∧
    (s.applyBlock 3 (Bytes.zeros 192)).sec.mode = .owned ∧ (s.applyBlock 1 (Bytes.zeros 288)).sec.ownerKey.length = 96 := by decide +kernel
/-- The responder on DOE with its version and algorithms settled, and these sessions. -/
def spdm (v a : Bool) (ks : List SpdmSession) : State :=
  { up with sec := { up.sec with versionSet := Vector.replicate 2 v, algsSet := Vector.replicate 2 a, sessions := ks } }
def sess (id : BitVec 16) (e : Bool) : SpdmSession := { ch := .doe, reqId := id, established := e, keyUpdates := 0 }
/-- The last thing that left the module over SPDM: its code. -/
def spdmCode (i : Instr) (s : State) : Option (BitVec 8 × List Byte) :=
  match (after i s).out.getLast? with | some (.spdm _ c b) => some (c, b) | _ => none
/-- R351: before READY nothing is answered; version, capabilities and algorithms follow one another. -/
theorem test_spdm_start :
    let off := { up with bar := { up.bar with mode := .booting } }
    off.spdmUp .doe = false ∧ up.spdmUp .doe = true ∧ spdmCode (.getVersion .doe) off = none ∧
    spdmCode (.getVersion .doe) up = some (0x04, [0, 0x13]) ∧ spdmCode (.getCapabilities .doe) up = some (0x7F, [4, 0]) ∧
    (spdmCode (.negotiateAlgorithms .doe true) (spdm true false [])).isSome = true ∧
    spdmCode (.negotiateAlgorithms .doe false) (spdm true false []) = some (0x7F, [1, 0]) ∧
    spdmCode (.getDigests .doe) (spdm true false []) = some (0x7F, [4, 0]) ∧ spdmCode (.spdmUnsupportedRequest .doe 0x55) up = some (0x7F, [7, 0x55]) := by
  decide +kernel
/-- R350, R351: slot 1 and measurement 13 are none; a fifth session over DOE is refused. -/
theorem test_spdm_requests :
    let s := spdm true true []
    let four := spdm true true [sess 1 true, sess 2 true, sess 3 true, sess 4 false]
    (vget false s.sec.versionSet (State.chanNo .doe) && vget false s.sec.algsSet (State.chanNo .doe)) = true ∧
    spdmCode (.getCertificate .doe 1) s = some (0x7F, [1, 0]) ∧ spdmCode (.challenge .doe 1 0) s = some (0x7F, [1, 0]) ∧
    spdmCode (.getMeasurements .doe 13 false 0) s = some (0x7F, [1, 0]) ∧ (s.measBlocks 12).isSome = true ∧ (s.measBlocks 0xFF).isSome = true ∧
    ((after (.keyExchange .doe 7) s).sec.sessions.map fun k => k.reqId) = [7] ∧ spdmCode (.keyExchange .doe 7) four = some (0x7F, [0xA, 0]) ∧
    ((after (.spdmFinish .doe 4 true) four).sec.sessions.map fun k => k.established) = [true, true, true, true] ∧
    (after (.spdmFinish .doe 4 false) four).sec.sessions.length = 3 := by decide +kernel
/-- R351, R353: within a session; IDE keys over DOE only. -/
theorem test_spdm_session :
    let s := spdm true true [sess 1 true]
    (s.session? .doe 1).isSome = true ∧ spdmCode (.heartbeat .doe 1) s = some (0x68, []) ∧ spdmCode (.heartbeat .doe 2) s = some (0x7F, [2, 0]) ∧
    ((after (.spdmKeyUpdate .doe 1) s).sec.sessions.map fun k => k.keyUpdates) = [1] ∧ (after (.endSession .doe 1) s).sec.sessions = [] ∧
    (after (.vendorDefinedRequest .doe 1 (.program false)) s).sec.linkIde.keyed = true ∧
    (after (.vendorDefinedRequest .mctp 1 (.program false)) s).sec.linkIde.keyed = false := by decide +kernel
/-- The code and first bytes of the last message over the sideband. -/
def mctp (i : Instr) (s : State) : Option (BitVec 8 × List Byte) :=
  match (after i s).out.getLast? with | some (.mctp c b) => some (c, b.take 4) | _ => none
/-- R349, R365, R366, R430: the sideband down and up; an image in slot 1 becomes active; addresses by the protocol in use. -/
theorem test_sideband :
    let off := { up with bar := { up.bar with mode := .booting, bootStep := 3 } }
    let img : FwImage := { signer := some 0, revokes := 0, svn := 2, fw := 3, digest := 0 }
    let t := after (.pldmFwUpdate true img) up
    off.sidebandUp = false ∧ up.sidebandUp = true ∧ up.boot.ladders.wf { consec := 0, floor := 0 } = true ∧ mctp .getState off = none ∧
    mctp .getState up = some (1, [1, 0, 0, 0]) ∧ mctp (.getLogbook 0 0) up = some (3, []) ∧ t.sec.activeSlot = true ∧
    t.slotImage 1 = img ∧ (after (.dynamicAddressAssignment true 8) up).power.sideAddr = some 8 ∧
    (after (.dynamicAddressAssignment false 9) (after (.dynamicAddressAssignment true 8) up)).power.sideAddr = some 8 := by decide +kernel
theorem test_get_power : (mctp .getPower up).isSome = true := by decide +kernel
/-- R366: a CLAIM block is refused; a RELEASE block whose body length is wrong is refused at its offset. -/
theorem test_owner_block :
    let rel := Bytes.ofNat 4 0x424E574F ++ [2, 0] ++ Bytes.ofNat 2 1 ++ Bytes.zeros 216
    up.sec.changes = [] ∧ mctp (.ownerBlock claimBlock) up = some (4, [0x21, 0, 4, 0x80]) ∧ mctp (.ownerBlock rel) up = some (4, [0x21, 0, 6, 0x80]) := by
  decide +kernel
/-- A RELEASE block of sequence number `n`. -/
def releaseBlock (n : Nat) : List Byte := Bytes.ofNat 4 0x424E574F ++ [2, 0, 0, 0] ++ Bytes.zeros 8 ++ Bytes.ofNat 8 n ++ Bytes.zeros 200
/-- A module with none of its vendor keys revoked has one. -/
theorem vendor_keys (s : State) (h : s.sec.revoked = 0)
    (hv : s.sec.vendorHashes = tabulate 4 fun k => Config.sha384 (Config.vendorKey k)) : ∃ k ks, s.vendorKeys = k :: ks := by
  have hm : Config.vendorKey 0 ∈ s.vendorKeys := by
    simp only [State.vendorKeys, List.mem_map, List.mem_filter]
    refine ⟨0, ⟨by decide, ?_⟩, rfl⟩
    have h0 : vget 0 (tabulate 4 fun k => Config.sha384 (Config.vendorKey k)) 0 = Config.sha384 (Config.vendorKey 0) := rfl
    rw [h, hv, h0]
    simp
  cases hk : s.vendorKeys with
  | nil => simp [hk] at hm
  | cons k ks => exact ⟨k, ks, rfl⟩
/-- A module whose owner releases it, or whose record is lost. -/
def releasing (lost : Bool) : State :=
  { up with bar := { up.bar with mode := if lost then .halted else .ready }
            sec := { up.sec with mode := .owned, epochFuses := 0, ownerSeq := 4, recordBad := lost, ownerKey := [1] } }
/-- R340, R342, R366: a RELEASE block that is signed passes, of an owned module by its owner, of one whose record is lost by the vendor. -/
theorem test_release_accepted (hs : Config.serial = 0) (hv : ∀ k m g, Config.sigVerifies k m g = true) (lost : Bool) :
    (releasing lost).sidebandUp = !lost ∧ (releasing lost).recordLost = lost ∧
    (releasing lost).blockError 2 (releaseBlock (if lost then 0 else 5)) 224 = none ∧
    (releasing lost).changeError 2 (releaseBlock 5) = none ∧ (releasing lost).quiet = true := by
  have h5 : ∃ k ks, (releasing lost).blockKeys 2 (releaseBlock (if lost then 0 else 5)) = [k :: ks] := by
    cases lost
    · exact ⟨[1], [], by decide +kernel⟩
    · obtain ⟨k, ks, h⟩ := vendor_keys (releasing true) rfl rfl
      exact ⟨k, ks, by rw [← h]; rfl⟩
  obtain ⟨k, ks, h5⟩ := h5
  have h1 : blockBad (releaseBlock (if lost then 0 else 5)) 224 = none := by cases lost <;> decide +kernel
  have h2 : (releasing lost).ownerAllows 2 = true := by cases lost <;> decide +kernel
  have h3 : Bytes.field (releaseBlock (if lost then 0 else 5)) 4 1 = 2 ∧ Bytes.field (releaseBlock (if lost then 0 else 5)) 8 8 = 0 ∧
      Bytes.field (releaseBlock (if lost then 0 else 5)) 24 4 = (releasing lost).sec.epochFuses := by cases lost <;> decide +kernel
  have h4 : (if (releasing lost).recordLost = true then Bytes.field (releaseBlock (if lost then 0 else 5)) 16 8 == 0
      else decide ((releasing lost).sec.ownerSeq.toNat < Bytes.field (releaseBlock (if lost then 0 else 5)) 16 8)) = true := by
    cases lost <;> decide +kernel
  refine ⟨by cases lost <;> decide +kernel, by cases lost <;> decide +kernel, ?_, by cases lost <;> decide +kernel⟩
  simp [State.blockError, h1, h2, h3, h4, h5, hs, hv, -Bool.if_true_left]

/-! ## Chapter 10 -/

/-- Start-up in step 5, which waits for compute die 3 only. -/
def booting : State := { up with bar := { up.bar with mode := .booting }, boot := { up.boot with step := 5, todo := [unitOf 0x01 3] } }
def ended (ok : Bool) (cause : BitVec 16) : AttemptResult := { ok := ok, cause := cause, detail := 0 }
/-- R370, R371: a failure counts one, a final cause up to the next multiple of 3; a success ends the step for the unit; another unit or step is none. -/
theorem test_startup_attempt :
    (booting.boot.todo.contains (unitOf 0x01 3) && booting.rungKind 5 (unitOf 0x01 3) == .try_) = true ∧
    booting.boot.waitPerst = false ∧ booting.boot.todo.contains (unitOf 0x01 4) = false ∧
    booting.judge 5 (unitOf 0x01 3) (ended true 0) = some (ended true 0) ∧
    ((after (.startupAttempt 5 (unitOf 0x01 3) (ended false 2)) booting).ladder 5 (unitOf 0x01 3)).consec = 1 ∧
    ((after (.startupAttempt 5 (unitOf 0x02 3) (ended false 0x0B)) { booting with boot := { booting.boot with todo := [unitOf 0x02 3] } }).ladder
      5 (unitOf 0x02 3)).consec = 3 ∧
    (after (.startupAttempt 5 (unitOf 0x01 3) (ended true 0)) booting).boot.step = 6 ∧
    nextThird 254 = 255 ∧ nextThird 3 = 6 := by decide +kernel
/-- R371: a die left out after its rung skips: three failures bring die 3 to the skip rung, and the other dies are in service. -/
theorem test_startup_skip :
    let s := { booting with dies := booting.dies.map fun d => { d with inService := true } }
    let t := after (.startupAttempt 5 (unitOf 0x01 3) (ended false 0x0B)) s
    (s.die 3).inService = true ∧ (t.die 3).inService = false ∧ (t.die 4).inService = true ∧ t.bar.degraded = true := by decide +kernel
/-- R349, R383: an image that does not verify, one below the fuses and one whose key is revoked; a step for which neither copy can be read. -/
theorem test_image_refused :
    let s (img : FwImage) := { booting with boot := { booting.boot with step := 4, todo := [unitOf 0x0A 0] }
                                            sec := { up.sec with rollFuses := 7, slots := Vector.replicate 2 img } }
    let bad : FwImage := { signer := none, revokes := 0, svn := 9, fw := 1, digest := 0 }
    let old : FwImage := { signer := some 1, revokes := 0, svn := 6, fw := 1, digest := 0 }
    let gone (s : State) : State := s.modSec fun c => { c with revoked := 2 }
    let dead (s : State) : State := s.modBoot fun b => { b with deadA := true, deadB := true }
    (s bad).judge 4 (unitOf 0x0A 0) (ended true 0) = some (ended false 8) ∧ (s old).judge 4 (unitOf 0x0A 0) (ended true 0) = some (ended false 9) ∧
    (s { old with svn := 7 }).judge 4 (unitOf 0x0A 0) (ended true 0) = some (ended true 0) ∧
    (gone (s { old with svn := 7 })).judge 4 (unitOf 0x0A 0) (ended true 0) = some (ended false 8) ∧
    (dead (s { old with svn := 7 })).judge 4 (unitOf 0x0A 0) (ended true 0) = some (ended false 0x0A) ∧
    ((s old).slotImage ((s old).bootSlot ((s old).rungOf 4 (unitOf 0x0A 0)))).svn.toNat < (s old).sec.rollFuses := by decide +kernel
/-- R373: the watchdog. -/
theorem test_startup_watchdog :
    ((after (.startupWatchdog (unitOf 0x01 3) false) booting).ladder 5 (unitOf 0x01 3)).consec = 1 ∧
    (after (.startupWatchdog (unitOf 0x01 3) true) booting).boot.resetType = 5 ∧ 3 ≤ booting.boot.step.toNat ∧
    ((after .watchdogHalf booting).src 0x157).pulse = (booting.src 0x157).pulse + 1 ∧
    ((after .watchdogHalf (after .watchdogHalf booting)).src 0x157).pulse = (booting.src 0x157).pulse + 1 := by decide +kernel
/-- R368, R378: the link falls, and comes up in READY after a skipped step 10. -/
theorem test_link_change :
    let s := { up with boot := { up.boot with skipped10 := true } }
    (up.power.rails && !up.power.perst && !up.power.tripped) = true ∧ (after (.pcieLinkChange false 16 6) up).bar.linkUp = false ∧
    (after (.pcieLinkChange false 16 6) up).bar.linkWidth = 0 ∧
    ((after (.pcieLinkChange true 16 6) s).boot.logB.getLast?.map fun r => (r.kind, r.step, r.result)) = some (2, 10, 0) ∧
    (after (.pcieLinkChange true 16 6) s).boot.skipped10 = false := by decide +kernel
/-- R329, R384: code 2 leaves its record and is recovered by a warm reset of type 4; code 4 is not. -/
theorem test_device_fatal :
    let f := after (.deviceFatal 2) up
    let g := after (.deviceFatal 4) up
    up.log.queued < 256 ∧ f.bar.mode = .fatal ∧ f.bar.fatalCode = 2 ∧ (f.queue 3).enabled = false ∧
    (f.log.held.map fun e => (e.code, e.host)) = [(0x0001, true)] ∧
    (after .fatalRecoveryReset f).boot.resetType = 4 ∧ (after .fatalRecoveryReset g).bar.mode = .fatal := by decide +kernel
/-- R297: RESET_DEVICE with its magic number and with another. -/
theorem test_reset_device :
    let f := flightOf 0x0F 0xFFFF [(8, 4, 0x54455352)]
    let g := flightOf 0x0F 0xFFFF [(8, 4, 0x54455351)]
    let s := sent { up with fab := { up.fab with loop := true } } f
    CommandAt s 9 0x0F 0 f ∧ CommandAt (sent up g) 9 0x0F 0 g ∧ f.arg 8 4 = 0x54455352 ∧ (s.queue 0).waiting = [] ∧ s.bar.d3 = false ∧
    ((s.queue 0).cqTail.toNat + 2 ^ (s.queue 0).cqLog2.toNat - (s.queue 0).head) % 2 ^ (s.queue 0).cqLog2.toNat + 1 <
      2 ^ (s.queue 0).cqLog2.toNat ∧
    (after (.resetDevice 9) s).boot.resetType = 2 ∧ answers (after (.resetDevice 9) (sent up g)) = [(Status.invalidField, 8, 0, 0)] :=
  ⟨at9_sound (by decide +kernel), at9_sound (by decide +kernel), by decide +kernel⟩
/-- R384: a warm reset of type 4 loses a loaded job and keeps an object that flash holds. -/
theorem test_warm_reset :
    let s := { jobbed with objs := Tbl.empty.put 5 flashObj, devTime := 77 }
    let t := s.warmReset 4
    s.jobs.length = 1 ∧ t.jobs.length = 0 ∧ (t.obj? 5).isSome = (flashObj.home == .flash && flashObj.committed) ∧ t.devTime = 77 ∧
    t.boot.starts = s.boot.starts + 1 ∧ t.bar.mode = .booting := by decide +kernel
/-- R385: in READY a function-level reset ends the job and returns to READY; in start-up it resets the function's registers only. -/
theorem test_function_level_reset :
    let s := { jobbed with bar := { jobbed.bar with intEnable := 0xF } }
    let b := { s with bar := { s.bar with mode := .booting } }
    (after .functionLevelReset s).jobs = [] ∧ (after .functionLevelReset s).bar.mode = .ready ∧ (after .functionLevelReset s).bar.intEnable = 0 ∧
    (after .functionLevelReset b).jobs.length = 1 ∧ (after .functionLevelReset b).bar.intEnable = 0 ∧
    ((after .functionLevelReset up).log.held.map fun e => (e.code, e.payload.take 1)) = [(0x0002, [6])] := by decide +kernel

/-! ## Chapter 11 -/

/-- The module with compute die 0 in service and changed so. -/
def die0 (f : ComputeDie → ComputeDie) : State := up.modDie 0 fun d => f { d with inService := true }
/-- R390, R391, R401: a droop and its end; a change waits until 1 µs after it. -/
theorem test_droop :
    let s := die0 id
    let d := after (.droop 0) s
    let e := after (.droopEnd 0) d
    s.power.rails = true ∧ (s.die 0).droopOn = false ∧ (d.die 0).droopOn = true ∧ d.helm.droopCnt = 1 ∧ (d.src 0x0C6).pulse = (s.src 0x0C6).pulse + 1 ∧
    (e.die 0).droopClear = e.ns + 1000 ∧ e.alertHeld 0 = false ∧ ((e.requestPoint 0 5).die 0).pendingPt = some 5 ∧
    ((e.requestPoint 0 5).die 0).change = none ∧ ((s.requestPoint 0 5).die 0).change = some (.slewUp 5) ∧
    (((die0 fun c => { c with point := 9 }).requestPoint 0 5).die 0).change = some (.relock 5) := by decide +kernel
/-- R390: the edges of a raising and of a lowering; a target that waits is asked for again. -/
theorem test_point_edges :
    let upw := after (.voltageSlewDone 0) (die0 fun c => { c with change := some (.slewUp 5) })
    let low := after (.relockDone 0) (die0 fun c => { c with point := 9, change := some (.relock 5), fabricClk := true })
    let two := after (.relockDone 0) (die0 fun c => { c with point := 3, change := some (.relock 5), pendingPt := some 7 })
    let held := after (.relockDone 0) ({ (die0 fun c => { c with change := some (.relock 5), fabricClk := true }) with
      power := { up.power with pinAlert := true } })
    let fin := after (.voltageSlewDone 0) (die0 fun c => { c with point := 5, change := some (.slewDown 5) })
    (upw.die 0).change = some (.relock 5) ∧ (upw.die 0).fabricClk = true ∧ (low.die 0).point = 5 ∧ (low.die 0).fabricClk = false ∧
    (low.die 0).change = some (.slewDown 5) ∧ (two.die 0).point = 5 ∧ (two.die 0).change = some (.slewUp 7) ∧ (held.die 0).point = 0 ∧
    (held.die 0).change = none ∧ (fin.die 0).change = none := by decide +kernel
/-- R404: the alert and its end; Helm begins to return the dies 1 ms later, and not a nanosecond before. -/
theorem test_alert :
    let s := die0 fun c => { c with point := 9 }
    let a := after .pwrAlertAssert s
    let b := after .pwrAlertDeassert a
    let w (ns : Nat) := after .alertRecovery { b with devTime := 14 * ns }
    s.helmRuns = true ∧ s.power.tripped = false ∧ s.power.pinAlert = false ∧ s.power.underAlert = false ∧ (a.die 0).point = 0 ∧
    (a.die 0).fabricClk = true ∧ a.helm.alertCnt = 1 ∧ b.power.alertWait = some 0 ∧ (b.die 0).fabricClk = true ∧ b.alerted = false ∧
    (w 999999).power.returning = none ∧ (w 1000000).power.returning = some 0 ∧ (w 1000000).power.alertWait = none := by decide +kernel
/-- Table 13-4: the undervoltage input, with and without the rails. -/
theorem test_undervoltage :
    let off := { up with power := { up.power with rails := false } }
    let s := die0 fun c => { c with point := 9 }
    off.power.standby = true ∧ (after .undervoltageAlert off).power.underAlert = true ∧ (after .undervoltageClear off).power.underAlert = false ∧
    s.alerted = false ∧ (after .undervoltageAlert s).alerted = true ∧ ((after .undervoltageAlert s).die 0).point = 0 ∧
    (after .undervoltageClear (after .undervoltageAlert s)).power.alertWait = some 0 := by decide +kernel
/-- R393, R394, R396, R397: a sample, the end of a window, a decision; before step 7 Helm does nothing. -/
theorem test_helm :
    let k := (die0 id).modCore 1 fun c => { c with regs := { c.regs with mode := .run, phase := 2 } }
    let r : PowerReading := { PowerReading.zero with input := 100 }
    let t := after (.helmSample r) k
    let w := after .helmWindow { t with devTime := 14000000 }
    let e := { up with bar := { up.bar with mode := .booting, bootStep := 6 } }
    k.helmRuns = true ∧ e.helmRuns = false ∧ t.helm.count = 1 ∧ t.helm.sum.input = 100 ∧ w.helm.last.input = 100 ∧ w.helm.lastCount = 1 ∧
    w.helm.count = 0 ∧ w.helm.windowAt = 1000000 ∧ (k.core 1).regs.mode = .run ∧ k.dieTarget 0 = (15, 2) ∧
    (after .helmWindow t).helm.count = 1 ∧ goes .helmDecision k = true := by decide +kernel
/-- R405: a compute die at 95 °C is throttled, and released below 92; 105 °C is critical; 3 °C below the limit it is no more. -/
theorem test_thermal :
    let at_ (t : Nat) : Temperatures := { dies := [t], dimms := [], flash := [] }
    let s := die0 fun c => { c with point := 9, chosen := 9 }
    let a := after (.thermalCheck (at_ 95)) s
    let b := after (.thermalCheck (at_ 93)) a
    s.helm.thermal.wf false = true ∧ a.helm.thermal.get false 0 = true ∧ (a.die 0).throttlePt = some 8 ∧ b.helm.thermal.get false 0 = true ∧
    (b.die 0).throttlePt = some 8 ∧ ((after (.thermalCheck (at_ 92)) b).die 0).throttlePt = none ∧
    ((after (.thermalCheck (at_ 95)) a).die 0).throttlePt = some 7 ∧ (b.helm.tempsSec.dies, b.helm.temps.dies) = ([95], [93]) ∧
    ((after (.thermalCheck (at_ 105)) s).die 0).critical = true ∧ (a.die 0).critical = false := by decide +kernel

/-! ## Chapter 12 -/

/-- Sources 0x100 and 0x101 wait for pilot 0, which listens. -/
def waits : State :=
  let one (s : State) (n : Nat) (p : BitVec 4) : State :=
    s.modSrc n fun x => { x with enable := true, targets := 1, prio := p, sense := 1, latched := true, nomod := true }
  (one (one up 0x100 6) 0x101 7).modPilot 0 fun q => { q with all := false, thresh := 3 }
/-- R411, R412, R413, R414: a claim takes the higher priority, the reads of one cycle in pilot order; completion ends it; a wrong completion is none. -/
theorem test_claim_interrupt :
    let t := waits.claimSource 0
    waits.bestSource 0 = some 0x101 ∧ t.out = waits.out ++ [.claim 0 0x101] ∧ (t.src 0x101).insvc = some 0 ∧ up.bestSource 1 = none ∧
    (up.claimSource 1).out = up.out ++ [.claim 1 0x3FF] ∧ ((after (.icComplete 0 0x101) t).src 0x101).insvc = none ∧
    ((after (.icComplete 1 0x101) t).src 0x101).insvc = some 0 := by decide +kernel
/-- R413: the reads of one control cycle in ascending pilot order at its end, whichever came first. -/
theorem test_claims_in_order :
    let two := after (.icClaim 0) (after (.icClaim 2) waits)
    let e := two.serveClaims
    (two.ic.claims, two.out) = ([2, 0], up.out) ∧
    (e.ic.claims, e.out, (e.pilot 2).spurCnt) = ([], [.claim 0 0x101, .claim 2 0x3FF], 1) := ⟨by decide +kernel, by decide +kernel⟩
/-- R414: an edge source that latched during its service is eligible at once; a LEVEL source whose line is high is pending again. -/
theorem test_complete_again :
    let t := (waits.claimSource 0).modSrc 0x101 fun x => { x with latched := true }
    let l := (up.modSrc 0x0F8 fun x => { x with sense := 0, enable := true, targets := 1, insvc := some 0, line := true })
    (t.src 0x101).insvc = some 0 ∧ (t.src 0x101).sense ≠ 0 ∧ (t.src 0x101).enable = true ∧ (t.src 0x101).targets.getLsbD 0 = true ∧
    (t.pilot 0).thresh.toNat < (t.src 0x101).prio.toNat ∧ (t.pilot 0).all = false ∧
    ((after (.icComplete 0 0x101) t).src 0x101).eligible 0 (t.pilot 0) = true ∧ (l.src 0x0F8).insvc = some 0 ∧ State.srcListed 0x0F8 = true ∧
    (l.src 0x0F8).pending = true ∧ ((after (.icComplete 0 0x0F8) l).src 0x0F8).pending = false := by
  decide +kernel
/-- R409, R413, R415, R416: software interrupts, moderation, sleep and wake. -/
theorem test_interrupt_rows :
    let m := up.modPilot 2 fun q => { q with modLeft := 1 }
    let z := waits.modPilot 0 fun q => { q with asleep := true }
    ((after (.icSwi 5) up).src 0x15C).pulse = 1 ∧ ((after (.icSwi 5) up).src 0x15D).pulse = 0 ∧ ((after (.icSwi 5) up).src 0x15E).pulse = 1 ∧
    (m.pilot 2).modLeft = 1 ∧ ((after (.moderationExpire 2) m).pilot 2).modLeft = 0 ∧ ((after (.waitForInterrupt 1) up).pilot 1).asleep = true ∧
    (z.src 0x100).pending = true ∧ ((after (.pilotWake 0) z).pilot 0).asleep = false ∧ ((after (.pilotWake 0) z).pilot 0).wakeCnt = 1 ∧
    ((after .trngHealthFailure up).src 0x155).pulse = 1 ∧
    (up.ic.srcs.toList.all fun x => !x.wakes 1) = true := by decide +kernel
/-- R410: a comparator that device time has reached, and one that it has not. -/
theorem test_comparator :
    let s := { up with ic := { up.ic with comparators := up.ic.comparators.put 2 1000 } }
    let r := { s with devTime := 14000 }
    s.ic.comparators.find? 2 = some 1000 ∧ r.ns = 1000 ∧ ((after (.deviceTimeCompare 2) r).src 0x15A).pulse = 1 ∧
    ((after (.deviceTimeCompare 2) { s with devTime := 13999 }).src 0x15A).pulse = 0 ∧
    ((after (.registerWrite (.comparator 1 2) 5) up).src 0x159).targets = 4 := by decide +kernel
/-- R420, R421, R423: with the input queue full a record is dropped; the bounds of the retained part and of the ring. -/
theorem test_event_log :
    let e : Event := { seq := 0, time := 0, code := 0, cls := 0, idx := 0, host := false, retained := true, pilot := 0, job := 0, payload := [] }
    let full := { up with log := { up.log with queued := 256 } }
    let at_ (a b : Nat) : State := { up with log := { up.log with queued := 255, retained := List.replicate a e, ring := List.replicate b e } }
    let ev (s : State) : State := s.event 0x0100 1 0 true 0 0xFFFF []
    (ev full).log.drops = 1 ∧ (ev full).log.held = [] ∧ (ev up).bar.icEvent = true ∧ (ev (at_ 1023 0)).log.retained.length = 1024 ∧
    (ev (at_ 1024 0)).log.ring.length = 1 ∧ (ev (at_ 1024 7167)).log.ring.length = 7168 ∧ (ev (at_ 1024 7168)).log.ring.length = 7168 ∧
    (ev (at_ 1024 7168)).log.overflow = 1 ∧ (ev (at_ 1024 7168)).log.queued = 256 := by decide +kernel
/-- R279, R281, R285: BAR0 before it is served, a write that is not aligned, INT_ENABLE, INT_CAUSE, a queue that is on. -/
theorem test_bar_write :
    let s := { up with bar := { up.bar with icState := true, icEvent := true } }
    let q := s.modQueue 2 fun h => { h with enabled := true }
    up.barServed = true ∧ ({ up with bar := { up.bar with cfgServed := false } } : State).barServed = false ∧
    (after (.registerWrite (.bar0 0x48 8) 0xB) s).bar.intEnable = 0xB ∧ (after (.registerWrite (.bar0 0x44 8) 0xB) s).bar.intEnable = 0 ∧
    (after (.registerWrite (.bar0 0x40 8) 0x8) s).bar.icEvent = false ∧ (after (.registerWrite (.bar0 0x40 8) 0x8) s).bar.icState = true ∧
    (q.queue 2).enabled = true ∧ ((after (.registerWrite (.bar0 0x1108 8) 0x4000) q).queue 2).cqBase = (q.queue 2).cqBase := by decide +kernel
/-- R8, R47, R131: a semaphore of a core that does not run, and of one that runs; SEP_LIST takes a write only in IDLE. -/
theorem test_semaphore_write :
    let a : Addr := BitVec.ofNat 48 (0x110000000000 + 0x1000 + 0x100 + 8 * 63)
    let w (s : State) := ((after (.registerWrite (.dev a) 0x12345) s).core 1).sem 63
    let k := up.modCore 1 fun c => { c with regs := { c.regs with mode := .run } }
    let v (s : State) := (after (.registerWrite (.dev (BitVec.ofNat 48 (0x110000300000 + 0x1000 + 0x10))) 0x40) s).sep 1
    0x110000000000 + 0x1000 + 0x100 + 8 * 63 = a.toNat ∧ up.placeOf a.toNat = .regs (0x1000 + 0x100 + 8 * 63) ∧ w up = 0x2345 ∧ w k = 0 ∧ k.core 1 ≠ up.core 1 ∧
    (v up).list = 0x40 ∧ (v (up.modSep 1 fun u => { u with mode := .wait })).list = 0 := by decide +kernel
/-- R363, R368: configuration requests before and after they are served; DOE Discovery. -/
theorem test_configuration :
    let off := { up with bar := { up.bar with cfgServed := false } }
    (after (.configurationRequest (.read 0)) off).out = off.out ++ [.config false 0] ∧ (after (.configurationRequest (.power true)) up).bar.d3 = true ∧
    (after (.doeDiscovery 2) up).out = up.out ++ [.doe 1 2 0] := by decide +kernel
/-- R279: a write, where the places of the MSI-X and power-management capabilities are the part's own. -/
theorem test_configuration_write : (after (.configurationRequest (.write 0x40 7)) up).out = up.out ++ [.config true 0] := by
  show ((if 0x40 = Config.msixCap then (up.modBar fun b => { b with cfg := b.cfg.set 0 0x40 7 }).writeMsixControl 7
    else if 0x40 = Config.pmCap + 4 then (up.modBar fun b => { b with cfg := b.cfg.set 0 0x40 7 }).modBar fun b => { b with d3 := true }
    else up.modBar fun b => { b with cfg := b.cfg.set 0 0x40 7 }).emit (.config true 0)).out = _
  split
  · decide +kernel
  · split <;> decide +kernel
/-- R363: the test port. -/
theorem test_jtag :
    let d := { up with sec := { up.sec with mode := .debug, jtagOpen := true, scope := 3 } }
    let a : Addr := 0x40
    (after (.jtagAccess (.shift true)) up).sec.bypass = true ∧ (up.sec.jtagOpen && up.sec.mode == .debug && up.sec.scope.getLsbD 1) = false ∧
    (d.sec.jtagOpen && d.sec.mode == .debug && d.sec.scope.getLsbD 1) = true ∧ d.placeOf 0x40 = .dram 0 64 true ∧ d.placeOf 0x47 = .dram 0 71 true ∧
    (after (.jtagAccess (.meshWrite a 0x1122)) d).dram.bytes.find? 0x41 = some 0x11 ∧ (after (.jtagAccess (.meshWrite a 0x1122)) up).dram.bytes.find? 0x41 = none ∧
    ((after (.jtagAccess (.pilotHalt 1)) d).pilot 1).halted = true := by decide +kernel
/-- R424, R425: a window sampled, lost, and sampled twice. -/
theorem test_telemetry_sample :
    let k := up.modCore 3 fun c => { c with regs := { c.regs with busy := 40, wrapped := true } }
    let s := { k with devTime := 14 * 2500000 }
    let t := after (.telemetrySample true) s
    s.windowEnd = 2000000 ∧ s.tlm.sampleAt < s.windowEnd ∧ s.tlm.busySums.wf 0 = true ∧ s.tlm.busyLast.wf 0 = true ∧
    t.tlm.sampleAt = 2000000 ∧ t.tlm.busySums.get 0 3 = 40 ∧ (t.core 3).regs.wrapped = false ∧
    (after (.telemetrySample false) s).tlm.lost = 1 ∧ (after (.telemetrySample false) t).tlm.lost = 0 := by decide +kernel

/-! ## Chapter 13 and the block -/

/-- Table 13-2: the input at the bounds of its range. -/
theorem test_input_power :
    let s := { State.reset with devTime := 5 }
    let p (mv : Nat) := after (.p40vApplied mv) s
    (p 33999).power.standby = false ∧ (p 34000).power.standby = true ∧ (p 34000).boot.step = 1 ∧ (p 34000).devTime = 0 ∧ (p 44000).boot.resetType = 0 ∧
    goes (.p40vApplied 44001) s = false ∧ goes (.p40vApplied 48000) s = false ∧ (p 48001).power.hotSwapOff = true ∧
    (after (.p40vApplied 48001) up).power.failing = true := by decide +kernel
/-- R437, R439: a power failure, its WP_N and the standby rail. -/
theorem test_power_fail :
    let f := after .powerFail jobbed
    let w := after .wpAssert f
    let z := after .standbyRailOff w
    jobbed.power.standby = true ∧ jobbed.power.failing = false ∧ f.power.failing = true ∧ f.power.rails = false ∧ f.jobs.length = 0 ∧
    f.power.flashRail = true ∧ w.power.flashRail = false ∧ w.power.wpN = true ∧ z.power.standby = false ∧
    (after .powerFail f).power.failing = true ∧ (after .hotSwapTurnOff up).power.hotSwapOff = true := by decide +kernel
/-- R406: the trip, and the end of it. -/
theorem test_therm_trip :
    let t := after .thermTrip up
    let z := after .standbyRailOff t
    up.power.tripped = false ∧ t.power.tripped = true ∧ t.power.rails = false ∧ t.power.standby = true ∧ t.out.head? = some (.pin "THERM_TRIP_N" false) ∧
    z.power.tripped = false ∧ z.out.getLast? = some (.pin "THERM_TRIP_N" true) := by decide +kernel
/-- R384, R438: PERST_N. -/
theorem test_perst :
    let t := after .perstAssert jobbed
    let w := { t with boot := { t.boot with waitPerst := true, step := 3 } }
    jobbed.power.perst = false ∧ t.power.perst = true ∧ t.boot.resetType = 1 ∧ t.boot.step = 1 ∧ t.jobs.length = 0 ∧ w.power.standby = true ∧
    (after .perstDeassert w).boot.waitPerst = false ∧ (after .perstDeassert w).bar.bootStep = 3 := by decide +kernel
/-- A step runs the command in front, and an empty queue is a tick. -/
theorem test_step :
    let s := { up with pending := [.icSwi 1] }
    let t (s : State) : State := match step s with | .next t => t | _ => s
    (t s).pending = [] ∧ ((t s).src 0x15C).pulse = 1 ∧ (t up).devTime = 10 ∧ (t State.reset).devTime = 0 ∧ up.pending = [] ∧
    up.power.standby = true ∧ State.reset.power.standby = false := by decide +kernel
/-- The hypotheses of the invariants hold of the powered module, which steps. -/
theorem test_invariants :
    up.memWf = true ∧ up.valLogOk = true ∧ (match step up with | .next t => t.memWf && t.valLogOk | _ => false) = true ∧
    (up.applyBlock 3 (Bytes.zeros 192)).sec.policy.valLogAllow = false ∧ up.sec.mode ≠ .debug := by decide +kernel

/-! ## Waiting, references and epochs -/

/-- Every read slot of memory die 0 is taken: 256 launched entries read from it. -/
def full (s : State) : State := { s with alm := { s.alm with table := List.replicate 256 (placed0 true) } }
/-- R172 (Table 4-9): with no read slot free a MOVE, a scale pass, a Separator, an OBJ_READ, an OBJ_PROMOTE and a DMA from its DRAM wait. -/
theorem test_no_slot :
    let o := { Obj.new .dram 64 0x40000 with mode := .home }
    let rd := flightOf 0x12 0xFFFF [(8, 4, 5), (24, 8, 64), (32, 8, 0x80)]
    let pr := flightOf 0x14 0xFFFF [(8, 4, 5), (16, 6, 0x1000)]
    let r := after (.objRead 9 quiet) (full (withObj o rd))
    let p := after (.objPromote 9 quiet) (full (withObj o pr))
    (full jobbed).slotsFree [.dram 0] = false ∧ (full jobbed).slotsFree ((full jobbed).moveSlots { move0 with inbound := true, raddr := 0x80 }) = false ∧
    ((after (.scalePassExecute 0 quiet) (full (spuReady 0x1000 1))).spu 0).queue = [0x100] ∧ at9 (full (withObj o rd)) 0x12 rd = true ∧
    at9 (full (withObj o pr)) 0x14 pr = true ∧ answers r = [] ∧ (r.queue 0).flights.map Flight.holds = [[5]] ∧ answers p = [] ∧
    (p.obj? 5).map (fun o => o.mode) = some .home ∧ p.refsOf 5 o = 1 := by decide +kernel
theorem test_separator_no_slot :
    let s := full (after (.go 0) (sepReady updating))
    (s.sep 0).mode = .run ∧ s.slotsFree [.dram 0] = false ∧ (after (.sepSegment 0 quiet) s).sep 0 = s.sep 0 := by decide +kernel
/-- R170: poisoned data that a MOVE brings in for the passes sets the step's verdict. -/
theorem test_move_poison :
    let mv := { move0 with inbound := true, laddr := 0, raddr := 0x80 }
    let s := ({ jobbed with jobs := [{ job0 with steps := [run0] }] }.modCore 0 fun k => { k with
      regs := { k.regs with mode := .run }, pipe := { k.pipe with moveQ := [{ seq := 0, pc := 0, op := mv, moved := 0 }] } }).dramWrite 0x80
        (List.replicate 64 (1, true))
    let t := after (.moveVisible 0 0 quiet) s
    s.moveAllowed 0 mv = true ∧ s.memWf = true ∧ s.slotsFree (s.moveSlots mv) = true ∧ (s.placeCell Tbl.empty (s.placeOf 0x80) 0).2 = true ∧
    (t.jobs.map fun j => j.steps.map StepRun.cause) = [[some 0x04]] ∧ (t.core 0).readScratch 0 1 = [(1, true)] := by decide +kernel
/-- R68, R191: a scale pass that meets poison voids the job's step, at whatever stage it is. -/
theorem test_scale_pass_poison :
    let s (st : Stage) := { (spuReady 0x1000 1).dramWrite 0x1000 [(0, true)] with jobs := [{ job0 with steps := [{ run0 with stage := st }] }] }
    let t (st : Stage) := after (.scalePassExecute 0 quiet) (s st)
    ((t .passes).spu 0).poison = true ∧ ((t .passes).jobs.map fun j => j.steps.map StepRun.cause) = [[some 0x04]] ∧
    ((s .update).job? 0x100).bind State.currentStep = some { run0 with stage := .update } := by decide +kernel
/-- R240: a digest exchange does not begin while a RESHARD waits. -/
theorem test_commit_before_reshard :
    let j := { shardJob with replicas := [0, 1], shards := shardJob.shards.map fun sh => { sh with finished := true } }
    let s := { stepping j updating with fab := { up.fab with reshard := some (0, 1, []), colls := [gradColl] } }
    s.fab.reshard.isSome = true ∧ s.commitReady { j with steps := [updating] } updating = true ∧
    ((after (.stepCommit 0x100) s).jobs.map fun j => j.steps.map StepRun.stage) = [[.update]] := by decide +kernel

/-- R193: an uncorrectable error drops a resident copy that holds the unit, and every unit of the copy is poisoned. -/
theorem test_copy_poisoned :
    let s := { up with objs := Tbl.empty.put 5 { hostObj with len := 128, mode := .resident, resident := some 0x40 }
                       mems := vmod up.mems 0 fun d => { d with scrubPos := 64 } }
    let t := after (.patrolScrub 0 .uncorrectable) s
    ((s.obj? 5).map fun o => o.copyHolds 0x40) = some true ∧ ((t.obj? 5).map fun o => (o.mode, o.resident)) = some (.home, none) ∧
    t.dram.poison.find? 0x40 = some true ∧ t.dram.poison.find? 0x80 = some true := by decide +kernel
/-- R437, R448: while WP_N is asserted, the flash rails are off or a power-fail sequence runs, no program and no erase begins; a page is
still rebuilt and counted. -/
theorem test_no_program :
    let s := ({ up with objs := Tbl.empty.put 5 flashObj }.modPower fun p => { p with wpN := true }).modFlash 1 fun d =>
      { d with blocks := 1000, freeBlocks := 15 }
    up.mayProgram = true ∧ s.mayProgram = false ∧ ((up.modPower fun p => { p with failing := true }).mayProgram) = false ∧
    ((up.modPower fun p => { p with flashRail := false }).mayProgram) = false ∧
    ((after (.flashBackgroundWork 1 (.collect 10)) s).flash 1).freeBlocks = 15 ∧ ((after (.parityRebuild 5 0 true) s).flash 0).rebuildCnt = 1 := by
  decide +kernel
/-- R192, R298, R361: a part of a POISONED object is refused and the whole of it begins; a part of a sealed object is refused. -/
theorem test_obj_write_poisoned :
    let w (flags : Nat) := flightOf 0x11 0xFFFF [(8, 4, 5), (12, 1, flags), (24, 8, 64), (32, 8, 0x40)]
    let p := { hostObj with mode := .poisoned }
    let part := withObj p (w 0)
    let whole := withObj p (w 1)
    let s := withObj { flashObj with len := 64 } (w 0)
    let s := s.modSec fun c => { c with mode := .debug }
    let s := s.modFlash 0 fun d => { d with tabA := d.tabA.put (unitKey 5 0) { pages := [], debug := false } }
    at9 part 0x11 (w 0) = true ∧ at9 whole 0x11 (w 1) = true ∧ answers (after (.objWrite 9 fed) part) = [(Status.poisoned, 0, 0, 0)] ∧
    ((after (.objWrite 9 fed) whole).obj? 5).map (fun o => (o.mode, o.refs)) = some (.writing, 1) ∧
    s.sealedObj 5 { flashObj with len := 64 } = true ∧ answers (after (.objWrite 9 fed) s) = [(Status.notPermitted, 9, 0, 0)] := by decide +kernel
/-- R166, R168: an object that a waiting command holds is deleted later, and nothing deferred on it takes effect meanwhile. -/
theorem test_waiting_holds :
    let d := flightOf 0x13 0xFFFF [(8, 4, 5)]
    let rd := { flightOf 0x12 0xFFFF [(8, 4, 5), (24, 8, 64), (32, 8, 0x80)] with tag := 8, n := 1, started := true, holds := [5] }
    let s := (withObj hostObj d).modQueue 0 fun h => { h with flights := [d, rd] }
    let t := after (.objDelete 9) s
    at9 s 0x13 d = true ∧ s.refsOf 5 hostObj = 1 ∧ hostObj.refs = 0 ∧ answers t = [(Status.deferred, 0, 0, 0)] ∧
    ((t.obj? 5).map fun o => o.delPend) = some true ∧ (after (.deferredTakesEffect 5 quiet) t).obj? 5 = t.obj? 5 := by decide +kernel
/-- R168: a promotion meets an eviction of the same control cycle: it answers the address that the copy had; the eviction then stays pending. -/
theorem test_evict_meets_promote :
    let f := flightOf 0x14 0xFFFF [(8, 4, 5), (16, 6, 0x1000)]
    let v (was : Option Nat) (pend : Bool) : Evict := { oid := 5, was := was, queue := 0, n := 7, pend := pend }
    let s (v : Evict) := { withObj hostObj f with evicts := [v] }
    let t (v : Evict) := after (.objPromote 9 quiet) (s v)
    at9 (s (v (some 0x2000) false)) 0x14 f = true ∧ (s (v (some 0x2000) false)).evictOf 5 = some (v (some 0x2000) false) ∧
    answers (t (v (some 0x2000) false)) = [(0, 0, 0, 0x2000)] ∧ (t (v (some 0x2000) false)).log.held = [] ∧
    ((t (v none true)).log.held.map Event.code) = [0x0031] := by decide +kernel
/-- R178: the firmware places neither an entry of a step later than its slot's, nor one that no slot's step takes. -/
theorem test_place_other_steps :
    let e (n : BitVec 64) (j : BitVec 16) := { entry0 with step := n, job := j }
    let t (e : AlmEntry) := after (.almanacPlace 0x100) (entered 0 [e] [])
    (entered 0 [] []).earlyEntry (e 6 0x100) = true ∧ (entered 0 [] []).staleEntry (e 4 0x100) = true ∧ (entered 0 [] []).staleEntry (e 5 0x100) = false ∧
    (entered 0 [] []).staleEntry (e 5 0x101) = true ∧ (entered 0 [] []).earlyEntry (e 5 0x101) = false ∧
    ((t (e 6 0x100)).alm.table, (t (e 6 0x100)).waitingEntries 0x100) = ([], [e 6 0x100]) ∧
    ((t (e 4 0x100)).alm.table, (t (e 4 0x100)).waitingEntries 0x100) = ([], []) := by decide +kernel
/-- R444, R452: a module that is held in reset lights no port. -/
theorem test_opt_ctrl_held :
    let s := (ported .off).modPower fun p => { p with perst := true }
    s.runs = false ∧ ((after (.optCtrlEn 0) s).port 0).mode = .off ∧ ((after (.optCtrlEn 0) s).engine 0).en = (s.engine 0).en := by decide +kernel
/-- R219: a port whose handshake runs again keeps its retry buffer when its light changes: it retrains. -/
theorem test_light_rehandshake :
    let s := (held1.modFab fun f => { f with loop := true, engines := f.engines.map fun e => { e with elsAllow := true } }).modPort 0 fun x =>
      { x with mode := .attest, rehandshake := true }
    let n := s.modPort 0 fun x => { x with rehandshake := false }
    ((after (.elsChange true true true) s).port 0).mode = .retrain ∧ ((after (.elsChange true true true) s).port 0).retry.length = 1 ∧
    ((after (.elsChange true true true) n).port 0).mode = .train := by decide +kernel
/-- R226: engines share a collective's elements; one that is stopped has read nothing, and reads when it runs; the timeout runs from then. -/
theorem test_take_share :
    let c := { coll0 false with contributed := false, read := [] }
    let s := clean (holding ((sent linked (flightOf 0x27 0x100 [])).modFab fun f => { f with colls := [c] }) 0x100 [1, 2, 3, 4]) [0x100]
    let stopped := s.modEngine 0 fun e => { e with thermal := 2 }
    stopped.running c = [] ∧ stopped.stoppedFor c = true ∧ s.running c = [0] ∧ s.stoppedFor c = false ∧
    ((after (.collectiveDone 3) stopped).fab.colls.map fun c => c.read) = [[]] ∧
    ((s.takeShare State.noEnv 3).fab.colls.map fun c => (c.read, c.contributed)) = [([0], true)] ∧
    answers (after (.collTimeout 3) (at_ stopped 100000000)) = [] := by decide +kernel
/-- R240: while a collective of the epoch is left, or a step is not sealed, or a digest exchange or a FIX is open, a RESHARD waits. -/
theorem test_reshard_waits :
    let r (s : State) := s.modFab fun b => { b with reshard := some (0, 9, []) }
    let c := r (linked.modFab fun f => { f with colls := [coll0 false] })
    let j (j : Job) : State := r { linked with jobs := [j] }
    c.epochBusy = true ∧ (c.reshardNow).fab.reshard.isSome = true ∧ (c.reshardNow).epoch = c.epoch ∧ (j { job0 with steps := [run0] }).epochBusy = true ∧
    (j { job0 with steps := [{ run0 with stage := .exchange, final := some false }] }).epochBusy = true ∧ (j { job0 with fixSent := some 3 }).epochBusy = true ∧
    (j job0).epochBusy = false := by decide +kernel
/-- R240, R241: with nothing left of the epoch the RESHARD of tag 9 takes effect; with ABANDON set none waits. -/
theorem test_reshard_now :
    let g := flightOf 0x29 0x100 [(8, 1, 1), (16, 8, 0x40), (24, 4, 64)]
    let z := (sent { linked with jobs := [job0] } g).modFab fun a => { a with reshard := some (0, 9, []) }
    z.epochBusy = false ∧ z.flightOf 9 = some (0, g) ∧ z.fab.reshard = some (0, 9, []) ∧ Bytes.bit (g.arg 8 1) 0 = true := by decide +kernel
/-- A layout that fits (its form is the part's own, so that it fits is taken here) is taken up by RESHARD, with ABANDON or without. -/
theorem test_reshard_fits (h : ((((sent linked (flightOf 0x29 0x100 [(16, 8, 0x40), (24, 4, 64)])).markStarted 0 (flightOf 0x29 0x100 [(16, 8, 0x40),
    (24, 4, 64)])).withEnv fed).withEnv fed).layoutFits (List.replicate 64 0x11) = true) :
    let f := flightOf 0x29 0x100 [(16, 8, 0x40), (24, 4, 64)]
    let w := (((sent linked f).markStarted 0 f).withEnv fed).withEnv fed
    w.layoutFits (w.hostBytes (f.arg 16 8) (f.arg 24 4)) = true := by
  have hb : ((((sent linked (flightOf 0x29 0x100 [(16, 8, 0x40), (24, 4, 64)])).markStarted 0 (flightOf 0x29 0x100 [(16, 8, 0x40),
    (24, 4, 64)])).withEnv fed).withEnv fed).hostBytes ((flightOf 0x29 0x100 [(16, 8, 0x40), (24, 4, 64)]).arg 16 8)
    ((flightOf 0x29 0x100 [(16, 8, 0x40), (24, 4, 64)]).arg 24 4) = List.replicate 64 0x11 := by decide +kernel
  simpa only [hb] using h
/-- R257, R302: a query of a job; with an object as its segment, which it then holds. -/
theorem test_skim_query_job :
    let f := flightOf 0x33 0x100 [(8, 8, 0x40)]
    let j := sent { grouped with jobs := [job0] } f
    let t := after (.skimQuery 9 (hostQuery 0x100)) j
    let seg := Bytes.ofNat 6 3 ++ Bytes.zeros 12 ++ [1, 0] ++ Bytes.ofNat 4 1 ++ Bytes.ofNat 8 7
    let s := sent { (holding grouped 0x2000 seg) with objs := Tbl.empty.put 3 { Obj.new .dram 4096 0x80000 with mode := .home } } skim
    let u := after (.skimQuery 9 (hostQuery 5)) s
    let w := after (.skimQuery 9 (hostQuery 5)) { s with objs := Tbl.empty.put 3 { Obj.new .dram 4096 0x80000 with mode := .writing } }
    at9 j 0x33 f = true ∧ j.queries = [] ∧ (t.queries.map fun z => z.todo) = [[0]] ∧ (u.queries.map fun z => z.refs) = [[3]] ∧
    ((u.obj? 3).map fun o => o.refs) = some 1 ∧ w.queries = [] ∧ (w.queue 0).flights.map Flight.holds = [[3]] := by decide +kernel
/-- A query whose one vector is scanned, with these results and this deadline. -/
def scanned (deadline : BitVec 64) (bad : Nat) : State :=
  let u := after (.skimScanDone 0 quiet) (after (.skimScanStart 0) (after (.skimQuery 9 (hostQuery 5)) (sent grouped skim)))
  { u with devTime := 14 * 1000
           queries := u.queries.map fun z => { z with d := { z.d with deadline := deadline }
                                                      shares := z.shares.map fun rs => rs.map fun r => { r with poisonVecs := bad } } }
/-- R262, R265, R266: a merge at its deadline and after it, and with a poisoned vector: the status, the block's flags, the report, POISON. -/
theorem test_skim_merge :
    let m (s : State) := after (.skimMergeDone 0) s
    answers (m (scanned 1000 0)) = [(0, 0, 1, 1)] ∧ answers (m (scanned 999 0)) = [(Status.deadlineMiss, 0, 1, 1)] ∧
    answers (m (scanned 999 1)) = [(Status.poisoned, 0, 1, 1)] ∧ ((m (scanned 999 1)).skm 0).poison = true ∧
    ((m (scanned 999 1)).skm 0).poisonCnt = 1 ∧ (m (scanned 999 0)).dram.bytes.find? 0x3004 = some 2 ∧
    (m (scanned 1000 0)).dram.bytes.find? 0x3004 = some 0 ∧ (m (scanned 999 1)).dram.bytes.find? 0x3004 = some 3 ∧
    (m (scanned 1000 0)).log.queued = 0 ∧ 0 < (m (scanned 999 0)).log.queued := by decide +kernel
/-- R261: the anchor of an F8 query vector is the largest scale code of it, here 0x81 of two, and the query's KMAX, 0x80. -/
theorem test_anchor_f8 :
    let d := { (queryDescOf (queryBytes 5)) with s16 := false, metric := 0, kmax := 0x80 }
    d.sclLen = 2 ∧ queryAnchor d (cleanCells (Bytes.zeros 64)) (cleanCells [0x7F, 0x81]) 0 = 2 + 1 + 18 - 42 := by decide +kernel
/-- R259: an F8 query reads its vector and its scales; while a segment's object is being written, the scan does not end. -/
theorem test_scan_f8 :
    let s := after (.skimQuery 9 (hostQuery 5)) (sent grouped skim)
    let f := { (clean s [0x6000]) with queries := s.queries.map fun z => { z with d := { z.d with s16 := false, qsaddr := 0x6000 } } }
    let t := after (.skimScanStart 0) f
    let w := { (after (.skimScanStart 0) s) with objs := Tbl.empty.put 3 (Obj.new .dram 4096 0x80000)
                                                 queries := s.queries.map fun z => { z with segs := z.segs.map fun g => { g with isObj := true, src := 3 } } }
    (t.skm 0).running = some 0 ∧ (t.skm 0).qscl.length = 2 ∧ (w.queries.map fun z => w.segsWait z.segs) = [true] ∧
    ((after (.skimScanDone 0 quiet) w).skm 0).running = some 0 := by decide +kernel
/-- R276 to R278: an operation that ends at its deadline, one after it, one reported before: LATE_DONE counts a report, and the request ends so. -/
theorem test_late_done :
    let o (od : Bool) := { op0 with started := true, dlOff := 500, overdue := od }
    let s (od : Bool) (ns : Nat) := at_ (serving (req0 [o od] true)) ns
    let d (s : State) := answers (after (.serveOpDone 5) s)
    State.opDeadline (req0 [o false] true) (o false) = some 500 ∧ d (s false 500) = [(0, 0, 0, 70)] ∧ d (s false 501) = [(Status.deadlineMiss, 0, 2, 70)] ∧
    d (s true 501) = [(Status.deadlineMiss, 0, 1, 70)] ∧ (after (.serveOpDone 5) (s false 500)).log.queued = 0 ∧
    (after (.serveOpDone 5) (s true 501)).log.queued = 1 ∧ (after (.serveOpDone 5) (s false 501)).log.queued = 2 := by decide +kernel
/-- R354: an MSI-X message that waits for the link's security leaves later, and the one of a queue whose wait ends is dropped with an error. -/
theorem test_msix_waits :
    let i := { up with sec := { up.sec with linkIde := { up.sec.linkIde with left := true } } }
    let m (s : State) := s.modBar fun b => { b with msixOn := true, msix := b.msix.put (4 * 3 + 3) 0 }
    let r := (m i).modQueue 0 fun h => { h with enabled := true, vector := 3 }
    let w := r.sendMsix 3
    (m i).bar.masked 3 = false ∧ (m i).ideStall = true ∧ ((m i).bar.msixWait.contains 3) = false ∧ w.bar.msixWait = [3] ∧ w.out = i.out ∧
    ((after (.ideWaitTimeout 0 none) w).queue 0).error = 2 ∧ (after (.ideWaitTimeout 0 none) w).bar.msixWait = [] ∧
    ((after (.ideWaitTimeout 0 none) r).queue 0).error = 0 := by decide +kernel
/-- R168, R284, R378: BAR0 not served; an OBJ_EVICT's record waits for the end of its control cycle. -/
theorem test_queue_held :
    let off := (ringed 1 8).modBar fun b => { b with linkUp := false }
    let rec_ := recordOf up (flightOf 0x15 0xFFFF [(8, 4, 5)]) 0 0 0 0
    let u := up.modQueue 0 fun h => { h with enable := true, enabled := true, sqBase := 1, cqBase := 2, sqLog2 := 2, cqLog2 := 2
                                             phase := true, waiting := [rec_] }
    let s := { u with evicts := [{ oid := 5, was := none, queue := 0, n := 0 }] }
    off.barServed = false ∧ ((after (.qCtrlEnable 2) off).queue 2).enabled = false ∧ s.evictOpen 0 rec_ = true ∧
    ((after (.cqRecordPost 0) s).queue 0).waiting.length = 1 ∧ ((after (.cqRecordPost 0) { s with evicts := [] }).queue 0).waiting.length = 0 := by
  decide +kernel
/-- The job whose one shard stands in flash objects. -/
def flashJob : Job := { shardJob with shards := shardJob.shards.map fun sh => { sh with descs := [updFlash] } }
/-- The module with that job and its master as an object. -/
def mastered (m : ObjMode) (f : Flight) : State :=
  { sent (regioned flashJob) f with objs := Tbl.empty.put 0x10000 { flashObj with mode := m } }
/-- R143, R327, R334, R361: EXPORT of a state object that is being written waits and holds it; of a sealed one it is refused; poisoned state
is answered so. -/
theorem test_export_waits :
    let f := flightOf 0x2C 0x100 [(14, 2, 1)]
    let s := mastered .writing f
    let t := after (.exportState 9 quiet) s
    let z := ((mastered .home f).modSec fun c => { c with mode := .debug }).modFlash 0 fun d =>
      { d with tabA := d.tabA.put (unitKey 0x10000 0) { pages := [], debug := false } }
    at9 s 0x2C f = true ∧ (State.stateObjs flashJob).head? = some 0x10000 ∧ s.sealedState [updFlash] = false ∧ answers t = [] ∧
    (t.queue 0).flights.map Flight.holds = [State.stateObjs flashJob] ∧ z.sealedState [updFlash] = true ∧
    answers (after (.exportState 9 quiet) z) = [(Status.notPermitted, 9, 0, 0)] := by decide +kernel
theorem test_export_poison :
    let f := flightOf 0x2C 0x100 [(14, 2, 1)]
    let p := (clean (sent (regioned shardJob) f) [0x10040, 0x10080, 0x100C0, 0x10100, 0x11000, 0x11040, 0x12000, 0x12040]).dramWrite 0x10000
      (List.replicate 64 (0, true))
    (p.placeCell Tbl.empty (p.placeOf 0x10000) 0).2 = true ∧
    answers (after (.exportState 9 quiet) p) = [(Status.poisoned, 0, 0, 0)] := by decide +kernel
/-- R331, R332: FIX waits for a RESHARD that waits; the digests of a replica of another step end it; with all digests equal it is written. -/
theorem test_fix_peers :
    let f := flightOf 0x2A 0x100 [(8, 1, 1)]
    let j := { job0 with replicas := [0, 1] }
    let s (sent_ : Option Nat) := sent (regioned { j with fixSent := sent_ }) f
    let p (n : BitVec 64) : List PeerDigests := [{ node := 1, step := n, digests := [] }]
    let w := (s none).modFab fun b => { b with reshard := some (0, 8, []), colls := [gradColl] }
    let t := after (.fix 9 (p 3) quiet) (s (some 0))
    at9 (s none) 0x2A f = true ∧ (s (some 0)).peersCover { j with fixSent := some 0 } (p 4) = true ∧ (s none).repairBusy j = false ∧
    (w.jobs.map fun j => j.fixSent) = [none] ∧ ((after (.fix 9 (p 4) quiet) w).jobs.map fun j => j.fixSent) = [none] ∧
    ((after (.fix 9 [] quiet) (s none)).jobs.map fun j => j.fixSent) = [some 0] ∧ (answers t).map (·.1) = [Status.fabricLost] ∧
    t.log.retained.map Event.code = [0x0022] ∧ answers (after (.fix 9 (p 4) quiet) (s (some 0))) = [(0, 0, 0, 4)] := by decide +kernel
/-- R331, R332: while a repair has not come whole, FIX waits; then, and once its flash die has its free blocks, it is written. -/
theorem test_fix_repairs :
    let f := { flightOf 0x2A 0x100 [(8, 1, 1)] with started := true }
    let r (b : Option (Tbl (Byte × Bool))) : Repair := { shard := 0, stream := 5, digest := 0, take := true, bytes := b }
    let s (j : Job) (rs : List Repair) := sent (regioned { j with repairs := some rs, fixSent := some 0 }) f
    let low := (s flashJob [r (some Tbl.empty)]).modFlash 0 fun d => { d with blocks := 1000, floor := 20 }
    (s job0 []).flightOf 9 = some (0, f) ∧ (s job0 []).ideStall = false ∧ answers (after (.fix 9 [] quiet) (s job0 [r none])) = [] ∧
    answers (after (.fix 9 [] quiet) (s job0 [])) = [(0, 0, 0, 4)] ∧ (low.flashBegin [(0, 64)]).1 = false ∧
    ((s job0 []).flashBegin []).1 = true ∧ answers (after (.fix 9 [] quiet) low) = [] := by decide +kernel
/-- R331: a FIX into a flash object waits for its readers and its writes. -/
theorem test_fix_object :
    let f := flightOf 0x2A 0x100 [(12, 4, 5)]
    let s (o : Obj) := { sent (regioned job0) f with objs := Tbl.empty.put 5 o }
    at9 (s flashObj) 0x2A f = true ∧ (s { flashObj with refs := 1 }).fixHeld job0 f = true ∧
    (s { flashObj with writes := [begun none true] }).fixHeld job0 f = true ∧ (s flashObj).fixHeld job0 f = false := by decide +kernel
theorem test_fix_object_place :
    let s := { sent (regioned job0) (flightOf 0x2A 0x100 [(12, 4, 5)]) with objs := Tbl.empty.put 5 flashObj }
    s.flashUsed + Word.roundUp (State.fixLen job0) unitBytes ≤ s.flashUsable ∧ State.fixLen job0 ≤ s.flashUsable ∧ flashObj.mode ≠ .poisoned := by
  refine ⟨?_, ?_, by decide⟩
  all_goals
    simp only [State.flashUsable]
    generalize Config.variant64 = v
    cases v <;> decide +kernel
/-- R327, R336: RESTORE waits for its source object, and a fix that reads poisoned is answered so. -/
theorem test_restore_waits :
    let f := flightOf 0x2B 0x100 [(12, 4, 5)]
    let s (o : Obj) := { sent (regioned { job0 with submitted := false }) f with objs := Tbl.empty.put 5 o }
    let w := s { flashObj with mode := .writing }
    let p := s { flashObj with bad := Tbl.empty.put 0 true }
    at9 w 0x2B f = true ∧ w.restoreWaits 9 = false ∧ w.fixPlaceError job0 f 256 false = none ∧ answers (after (.restore 9 quiet) w) = [] ∧
    ((after (.restore 9 quiet) w).queue 0).flights.map Flight.holds = [[5]] ∧ answers (after (.restore 9 quiet) p) = [(Status.poisoned, 0, 0, 0)] := by
  decide +kernel
/-- R373, R378, R438: a link that comes up before step 2 is none; one that comes up in step 11 after the skip is recorded. -/
theorem test_link_start :
    let s (n : BitVec 4) := { up with bar := { up.bar with mode := .booting, linkUp := false }, boot := { up.boot with step := n, skipped10 := true } }
    (s 3).runs = true ∧ (after (.pcieLinkChange true 16 6) (s 2)).bar.linkUp = false ∧ (after (.pcieLinkChange true 16 6) (s 3)).bar.linkUp = true ∧
    ((after (.pcieLinkChange true 16 6) (s 11)).boot.logB.getLast?.map fun r => (r.kind, r.step, r.result)) = some (2, 10, 0) ∧
    (after (.pcieLinkChange true 16 6) (up.modPower fun p => { p with perst := true })).bar = up.bar := by decide +kernel
/-- R288, R297: RESET_DEVICE waits while its ring is full. -/
theorem test_reset_device_waits :
    let f := flightOf 0x0F 0xFFFF [(8, 4, 0x54455352)]
    let s := (sent up f).modQueue 0 fun h => { h with cqTail := 0, head := 1 }
    at9 s 0x0F f = true ∧ s.recordsFit 0 = false ∧ (after (.resetDevice 9) s).boot.resetType = up.boot.resetType ∧
    ((after (.resetDevice 9) s).queue 0).flights.length = 1 := by decide +kernel
/-- R391, R405: a raise of a throttled die waits. -/
theorem test_throttled_raise :
    let s := die0 fun c => { c with throttlePt := some 2, point := 2 }
    ((s.requestPoint 0 5).die 0).pendingPt = some 5 ∧ ((s.requestPoint 0 5).die 0).change = none ∧
    ((s.requestPoint 0 1).die 0).change = some (.relock 1) := by decide +kernel
/-- R392: a new table waits for the next decision. -/
theorem test_headings_wait :
    let h := flightOf 0x05 0xFFFF [(8, 8, 0x40), (16, 4, 64)]
    let t := after (.headings 9 { fed with host := [(0x40, [9, 3] ++ Bytes.zeros 62)] }) (sent up h)
    (t.helm.table.map fun x => (vget 0 x.1 0, vget 0 x.2 0)) = some (9, 3) ∧ t.helm.point = up.helm.point ∧
    vget 0 ((t.helm.table.getD (t.helm.point, t.helm.minPt)).1) 0 = 9 := by decide +kernel
/-- R438: a device register of a module that is held in reset does not change, nor does a comparator. -/
theorem test_register_held :
    let r := up.modPower fun p => { p with perst := true }
    let a : Addr := BitVec.ofNat 48 (0x110000300000 + 0x1000 + 0x10)
    ((after (.registerWrite (.dev a) 0x40) r).sep 1).list = (r.sep 1).list ∧ ((after (.registerWrite (.dev a) 0x40) up).sep 1).list = 0x40 ∧
    (after (.registerWrite (.dev 0x40) 0x40) up).dram = up.dram := by decide +kernel
/-- R279: a write to the power-management capability's control, wherever it stands: D3hot, and D0 again. -/
theorem test_power_state (h : (0x44 : Nat) = Config.pmCap + 4) (hm : (0x44 : Nat) ≠ Config.msixCap) :
    (after (.configurationRequest (.write 0x44 3)) up).bar.d3 = true := by
  show (State.bar (State.emit (if 0x44 = Config.msixCap then _ else if 0x44 = Config.pmCap + 4 then _ else _) _)).d3 = true
  rw [if_neg hm, if_pos h]
  decide +kernel
/-- R364: the bench in debug with the pilot scope reads the certificates and takes the telemetry; without it, nothing. -/
theorem test_jtag_inspect :
    let d := { up with sec := { up.sec with mode := .debug, jtagOpen := true, scope := 1 } }
    d.jtagGrants 0 = true ∧ d.jtagGrants 1 = false ∧ up.jtagGrants 0 = false ∧
    (after (.jtagAccess (.pilotInspect 0 .certificates)) up).out = up.out ∧
    (after (.jtagAccess (.pilotInspect 0 .certificates)) d).out.length = d.out.length + 1 ∧
    (after (.jtagAccess (.meshWrite 0x40 1)) d).dram = d.dram := by decide +kernel
/-- R424: a core that wraps in the very cycle of the sample keeps WRAPPED. -/
theorem test_fresh_wrap :
    let k := up.modCore 3 fun c => { c with regs := { c.regs with busy := 40, wrapped := true } }
    let s := { k with devTime := 14 * 2500000, fresh := [(regKey 0 3 0x20, 15)] }
    ((after (.telemetrySample true) s).core 3).regs.wrapped = true := by decide +kernel
/-- R413: the claims of a control cycle are served at its end, every fourth period; an unpowered module's queue is idle. -/
theorem test_tick_claims :
    let s (n : Nat) := { waits with ticks := n, ic := { waits.ic with claims := [0] } }
    let t (s : State) : State := match step s with | .next t => t | _ => s
    (t (s 2)).ic.claims = [0] ∧ (s 3).sec.changes = [] ∧ (s 3).pending = [] ∧ (s 3).ticks + 1 = 4 ∧
    (t { s 3 with power := { up.power with rails := false } }).ic.claims = [0] := by decide +kernel

end Sys2Proof.Tests
end

section
/-!
R359, part 1: what R359 speaks of. `ValView` is the owner policy, the security state with its debug scope, and SXT_CTRL.VAL_LOG of every
compute die. `State.valLogOk` reads the state through it alone, so that a step that leaves the view alone keeps R359. Then the laws by which
a compound operation is seen to leave the view alone: branches, folds, and changes of one record.
-/
namespace Sys2Proof.Machine

/-- What R359 speaks of: the owner policy, the security state and its debug scope, and VAL_LOG of every compute die. -/
structure ValView where
  policy  : Policy
  mode    : SecMode
  scope   : BitVec 64
  valLogs : Vector Bool 22

/-- R359 of a view: VAL_LOG is permitted, or no die has it set. -/
def ValView.ok (v : ValView) : Bool :=
  v.policy.valLogAllow || (v.mode == .debug && v.scope.getLsbD 4) || v.valLogs.toList.all (!·)

/-- The view with VAL_LOG clear on every die. -/
def ValView.allOff (v : ValView) : ValView := { v with valLogs := Vector.replicate 22 false }

@[simp] theorem ValView.ok_allOff (v : ValView) : v.allOff.ok = true := by simp [allOff, ok]

namespace State

/-- The view of a state. -/
def valView (s : State) : ValView :=
  { policy := s.sec.policy, mode := s.sec.mode, scope := s.sec.scope, valLogs := s.dies.map fun d => d.sxt.valLog }

/-- R359 is a matter of the view. -/
theorem valLogOk_eq (s : State) : s.valLogOk = s.valView.ok := by
  simp [valLogOk, ValView.ok, valView, Vector.toList_map, Function.comp_def]

/-- R359: VAL_LOG may be set, or no die has it set. -/
theorem valLogOk_iff (s : State) : s.valLogOk = true ↔ s.valLogMay = true ∨ ∀ d ∈ s.dies, d.sxt.valLog = false := by
  show (s.valLogMay || s.dies.toList.all fun d => !d.sxt.valLog) = true ↔ _
  simp only [Bool.or_eq_true, List.all_eq_true, Bool.not_eq_true', Vector.mem_toList_iff]

/-! ### Branches and folds -/

@[simp] theorem valView_ite (c : Prop) [Decidable c] (s t : State) :
    (if c then s else t).valView = if c then s.valView else t.valView := apply_ite _ _ _ _

@[simp] theorem snd_ite_valView {α : Type*} (c : Prop) [Decidable c] (p q : α × State) :
    (if c then p else q).2.valView = if c then p.2.valView else q.2.valView := by split <;> rfl

@[simp] theorem snd_snd_ite_valView {α β : Type*} (c : Prop) [Decidable c] (p q : α × β × State) :
    (if c then p else q).2.2.valView = if c then p.2.2.valView else q.2.2.valView := by split <;> rfl

/-- The state that an operation gives beside its answer, once a match has named it. -/
theorem valView_of_snd {α : Type*} {p : α × State} {a : α} {t : State} (h : p = (a, t)) : t.valView = p.2.valView := by rw [h]

@[simp] theorem foldl_valView {α : Type*} (f : State → α → State) (h : ∀ s a, (f s a).valView = s.valView) (l : List α) (s : State) :
    (l.foldl f s).valView = s.valView := by
  induction l generalizing s with
  | nil => rfl
  | cons a l ih => rw [List.foldl_cons, ih, h]

@[simp] theorem foldl_snd_valView {α β : Type*} (f : β × State → α → β × State) (h : ∀ p a, (f p a).2.valView = p.2.valView) (l : List α)
    (p : β × State) : (l.foldl f p).2.valView = p.2.valView := by
  induction l generalizing p with
  | nil => rfl
  | cons a l ih => rw [List.foldl_cons, ih, h]

/-! ### Changes of one record -/

/-- Whatever else a step writes, the view stays while the dies and the security record do. -/
@[simp] theorem valView_mk (t : State) (pending ticks devTime free out cores posts spus seps mems flashes skms dram host objs evicts alm fab
    jobs images groups queries queryNext queues visit bar ic log boot power helm tlm fresh) :
    ({ pending := pending, ticks := ticks, devTime := devTime, free := free, out := out, cores := cores, posts := posts, dies := t.dies
       spus := spus, seps := seps, mems := mems, flashes := flashes, skms := skms, dram := dram, host := host, objs := objs
       evicts := evicts, alm := alm, fab := fab, jobs := jobs, images := images, groups := groups, queries := queries
       queryNext := queryNext, queues := queues, visit := visit, bar := bar, ic := ic, log := log, sec := t.sec, boot := boot
       power := power, helm := helm, tlm := tlm, fresh := fresh } : State).valView = t.valView := by
  unfold valView
  rfl

@[simp] theorem modSec_valView (s : State) (f : Security → Security)
    (h : ∀ c, (f c).policy = c.policy ∧ (f c).mode = c.mode ∧ (f c).scope = c.scope) : (s.modSec f).valView = s.valView := by
  simp [valView, h]

theorem vmod_map {α β : Type*} {n : Nat} (g : α → β) (v : Vector α n) (i : Nat) (f : α → α) (h : ∀ a, g (f a) = g a) :
    (vmod v i f).map g = v.map g := by
  unfold vmod
  split
  · apply Vector.ext
    intro j hj
    by_cases hd : i = j
    · subst hd
      simp [h]
    · simp [hd]
  · rfl

@[simp] theorem modDie_valView (s : State) (d : Nat) (f : ComputeDie → ComputeDie) (h : ∀ c, (f c).sxt.valLog = c.sxt.valLog) :
    (s.modDie d f).valView = s.valView := by
  simp [valView, vmod_map (fun c : ComputeDie => c.sxt.valLog) s.dies d f h]

end State

/-- An outcome keeps R359 of the state that it comes from. -/
def KeepsValLog (s : State) (o : Host.Outcome State Fault Refusal) : Prop :=
  ∀ t, o = .next t → s.valLogOk = true → t.valLogOk = true

theorem keepsValLog_next {s t : State} (h : s.valLogOk = true → t.valLogOk = true) : KeepsValLog s (.next t) := by
  rintro _ ⟨⟩ hs
  exact h hs

@[simp] theorem keepsValLog_next_of_valView {s t : State} (h : t.valView = s.valView) : KeepsValLog s (.next t) :=
  keepsValLog_next fun hs => by rwa [State.valLogOk_eq, h, ← State.valLogOk_eq]

@[simp] theorem keepsValLog_fault (s : State) (r : Fault) : KeepsValLog s (.fault r) := by simp [KeepsValLog]

end Sys2Proof.Machine
end

section
/-!
R359, part 2: the memories, the queues of the host and the objects. Each operation leaves the view alone: along the branches of its
definition, by the laws of the operations that it runs. Each command that runs only such operations keeps R359.
-/
namespace Sys2Proof.Machine.State

variable (s : State)

/-! ### The named operations over the state -/

@[simp] theorem modCore_valView (c : Nat) (f : Core → Core) : (s.modCore c f).valView = s.valView := by simp [modCore]
@[simp] theorem modSpu_valView (m : Nat) (f : Spu → Spu) : (s.modSpu m f).valView = s.valView := by simp [modSpu]
@[simp] theorem modSep_valView (m : Nat) (f : Sep → Sep) : (s.modSep m f).valView = s.valView := by simp [modSep]
@[simp] theorem modMem_valView (m : Nat) (f : MemDie → MemDie) : (s.modMem m f).valView = s.valView := by simp [modMem]
@[simp] theorem modFlash_valView (i : Nat) (f : FlashDie → FlashDie) : (s.modFlash i f).valView = s.valView := by simp [modFlash]
@[simp] theorem modSkm_valView (k : Nat) (f : Skimmer → Skimmer) : (s.modSkm k f).valView = s.valView := by simp [modSkm]
@[simp] theorem modQueue_valView (q : Nat) (f : HostQ → HostQ) : (s.modQueue q f).valView = s.valView := by simp [modQueue]
@[simp] theorem modPort_valView (p : Nat) (f : Port → Port) : (s.modPort p f).valView = s.valView := by simp [modPort]
@[simp] theorem modEngine_valView (e : Nat) (f : Engine → Engine) : (s.modEngine e f).valView = s.valView := by simp [modEngine]
@[simp] theorem modFab_valView (f : Fabric → Fabric) : (s.modFab f).valView = s.valView := by simp [modFab]
@[simp] theorem modSrc_valView (n : Nat) (f : IcSrc → IcSrc) : (s.modSrc n f).valView = s.valView := by simp [modSrc]
@[simp] theorem modPilot_valView (p : Nat) (f : IcPilot → IcPilot) : (s.modPilot p f).valView = s.valView := by simp [modPilot]
@[simp] theorem modAlm_valView (f : Almanac → Almanac) : (s.modAlm f).valView = s.valView := by simp [modAlm]
@[simp] theorem modSlot_valView (j : Nat) (f : AlmSlot → AlmSlot) : (s.modSlot j f).valView = s.valView := by simp [modSlot]
@[simp] theorem modBar_valView (f : Bar → Bar) : (s.modBar f).valView = s.valView := by simp [modBar]
@[simp] theorem modBoot_valView (f : Startup → Startup) : (s.modBoot f).valView = s.valView := by simp [modBoot]
@[simp] theorem modPower_valView (f : Power → Power) : (s.modPower f).valView = s.valView := by simp [modPower]
@[simp] theorem modHelm_valView (f : Helm → Helm) : (s.modHelm f).valView = s.valView := by simp [modHelm]
@[simp] theorem emit_valView (o : Out) : (s.emit o).valView = s.valView := by simp [emit]
@[simp] theorem drawNat_valView : s.drawNat.2.valView = s.valView := by simp [drawNat]
@[simp] theorem drawBytes_valView (n : Nat) : (s.drawBytes n).2.valView = s.valView := by simp [drawBytes]
@[simp] theorem occur_valView (key bit : Nat) : (s.occur key bit).valView = s.valView := by simp [occur]
@[simp] theorem pulse_valView (n : Nat) : (s.pulse n).valView = s.valView := by simp [pulse]
@[simp] theorem sendMsix_valView (v : BitVec 6) : (s.sendMsix v).valView = s.valView := by simp [sendMsix]
@[simp] theorem flushMsix_valView : s.flushMsix.valView = s.valView := by simp [flushMsix]
@[simp] theorem raiseCause_valView (c : Cause) : (s.raiseCause c).valView = s.valView := by unfold raiseCause; split <;> simp
@[simp] theorem setMode_valView (m : DevMode) : (s.setMode m).valView = s.valView := by simp [setMode]
@[simp] theorem setDegraded_valView : s.setDegraded.valView = s.valView := by simp [setDegraded]
@[simp] theorem setSecCode_valView (c : BitVec 2) : (s.setSecCode c).valView = s.valView := by simp [setSecCode]

@[simp] theorem event_valView (code cls idx : Nat) (host : Bool) (pilot job : Nat) (payload : List Byte) :
    (s.event code cls idx host pilot job payload).valView = s.valView := by simp [event]

@[simp] theorem fwEvent_valView (code : Nat) (host : Bool) (job : Nat) (payload : List Byte) :
    (s.fwEvent code host job payload).valView = s.valView := by simp [fwEvent]

@[simp] theorem dramWrite_valView (a : Nat) (cs : List Cell) : (s.dramWrite a cs).valView = s.valView := by simp [dramWrite]
@[simp] theorem hostPut_valView (h : Nat) (bs : List Byte) : (s.hostPut h bs).valView = s.valView := by simp [hostPut]
@[simp] theorem hostWrite_valView (h : Nat) (cs : List Cell) : (s.hostWrite h cs).valView = s.valView := by simp [hostWrite]
@[simp] theorem freeCopy_valView (a : Nat) : (s.freeCopy a).valView = s.valView := by simp [freeCopy]
@[simp] theorem poisonRange_valView (a n : Nat) : (s.poisonRange a n).valView = s.valView := by simp [poisonRange]
@[simp] theorem dramUe_valView (unit : Nat) : (s.dramUe unit).valView = s.valView := by simp [dramUe]
@[simp] theorem dramCe_valView (m ch : Nat) : (s.dramCe m ch).valView = s.valView := by simp [dramCe]

@[simp] theorem meetEcc_valView (x : Env) (a n : Nat) : (s.meetEcc x a n).valView = s.valView := by
  refine foldl_valView _ (fun t h => ?_) _ _
  split
  · rfl
  · split <;> simp

@[simp] theorem withEnv_valView (x : Env) : (s.withEnv x).valView = s.valView := by simp [withEnv]

@[simp] theorem load_valView (x : Env) (regions : Tbl Region) (a n : Nat) : (s.load x regions a n).2.valView = s.valView := by
  simp only [load]; (repeat' split) <;> simp

@[simp] theorem store_valView (regions : Tbl Region) (a : Nat) (cs : List Cell) : (s.store regions a cs).valView = s.valView := by
  unfold store; split <;> simp

@[simp] theorem modJob_valView (id : BitVec 16) (f : Job → Job) : (s.modJob id f).valView = s.valView := by simp [modJob]
@[simp] theorem modGroup_valView (id : BitVec 8) (f : Group → Group) : (s.modGroup id f).valView = s.valView := by simp [modGroup]

/-! ### W1C bits and interrupt sources -/

@[simp] theorem modCycle_valView (p : Nat) : (s.modCycle p).valView = s.valView := by simp [modCycle]
@[simp] theorem icEdge_valView : s.icEdge.valView = s.valView := by simp [icEdge]
@[simp] theorem clearCoreStatus_valView (c : Nat) (w : BitVec 64) : (s.clearCoreStatus c w).valView = s.valView := by simp [clearCoreStatus]

/-! ### Flash -/

@[simp] theorem takeBlocks_valView (f : Nat) : (s.takeBlocks f).valView = s.valView := by simp [takeBlocks]
@[simp] theorem mapUnits_valView (oid : Nat) (us : List Nat) : (s.mapUnits oid us).valView = s.valView := by simp [mapUnits]
@[simp] theorem moveUnit_valView (oid u : Nat) : (s.moveUnit oid u).valView = s.valView := by simp [moveUnit]
@[simp] theorem unmapUnits_valView (oid : Nat) : (s.unmapUnits oid).valView = s.valView := by simp [unmapUnits]
@[simp] theorem flashRead_valView (oid off n : Nat) : (s.flashRead oid off n).valView = s.valView := by simp [flashRead]

/-! ### Mailboxes -/

@[simp] theorem complete_valView (q : Nat) (f : Flight) (status : BitVec 8) (detail : BitVec 16) (r0 : BitVec 32) (r1 : BitVec 64) :
    (s.complete q f status detail r0 r1).valView = s.valView := by simp [complete]

@[simp] theorem advance_valView (q n : Nat) (s : State) : (advance q n s).valView = s.valView := by
  induction n generalizing s with
  | zero => rfl
  | succ n ih =>
    simp only [advance]
    (repeat' split) <;> simp [ih]

@[simp] theorem stream_valView (q : Nat) : (s.stream q).valView = s.valView := by simp [stream]

@[simp] theorem finish_valView (q : Nat) (f : Flight) (status : BitVec 8) (detail : BitVec 16) (r0 : BitVec 32) (r1 : BitVec 64) :
    (s.finish q f status detail r0 r1).valView = s.valView := by simp [finish]

@[simp] theorem finishOk_valView (q : Nat) (f : Flight) (r0 : BitVec 32) (r1 : BitVec 64) : (s.finishOk q f r0 r1).valView = s.valView := by
  simp [finishOk]

@[simp] theorem refuse_valView (q : Nat) (f : Flight) (status : BitVec 8) (detail : Nat) :
    (s.refuse q f status detail).valView = s.valView := by simp [refuse]

@[simp] theorem markStarted_valView (q : Nat) (f : Flight) : (s.markStarted q f).valView = s.valView := by simp [markStarted]

@[simp] theorem runCmd_valView (t : Tag) (opc : Nat) (host : Bool) (body : State → Nat → Flight → State)
    (hbody : ∀ u v w, (body u v w).valView = u.valView) :
    (s.runCmd t opc host body).valView = s.valView := by fun_cases runCmd <;> simp [hbody]

@[simp] theorem spoilRange_valView (h n : Nat) : (s.spoilRange h n).valView = s.valView := by simp [spoilRange]
@[simp] theorem spoilHost_valView (h n : Nat) : (s.spoilHost h n).valView = s.valView := by simp [spoilHost]

@[simp] theorem runHostCmd_valView (t : Tag) (opc : Nat) (x : Env) (body : State → Nat → Flight → State) (spoil : State → Flight → State)
    (hbody : ∀ u v w, (body u v w).valView = u.valView) (hspoil : ∀ u v, (spoil u v).valView = u.valView) :
    (s.runHostCmd t opc x body spoil).valView = s.valView := runCmd_valView _ _ _ _ _ fun t q f => by split <;> simp [hbody, hspoil]

@[simp] theorem holdObjs_valView (q : Nat) (f : Flight) (oids : List Nat) : (s.holdObjs q f oids).valView = s.valView := by simp [holdObjs]

@[simp] theorem finishTag_valView (t : Option (QueueId × Tag)) (status : BitVec 8) (detail : Nat) (r0 : BitVec 32) (r1 : BitVec 64) :
    (s.finishTag t status detail r0 r1).valView = s.valView := by fun_cases finishTag <;> simp

@[simp] theorem queueError_valView (q : Nat) (code : BitVec 4) : (s.queueError q code).valView = s.valView := by simp [queueError]
@[simp] theorem drainOff_valView (q : Nat) : (s.drainOff q).valView = s.valView := by simp [drainOff]
@[simp] theorem enableQueue_valView (q : Nat) : (s.enableQueue q).valView = s.valView := by simp [enableQueue]
@[simp] theorem disableQueue_valView (q : Nat) : (s.disableQueue q).valView = s.valView := by simp [disableQueue]
@[simp] theorem tailDb_valView (q : Nat) (tail : BitVec 8) : (s.tailDb q tail).valView = s.valView := by simp [tailDb]
@[simp] theorem headDb_valView (q : Nat) (head : BitVec 8) : (s.headDb q head).valView = s.valView := by simp [headDb]
@[simp] theorem stopQueues_valView : s.stopQueues.valView = s.valView := by simp [stopQueues]
@[simp] theorem visited_valView (q : Nat) : (s.visited q).valView = s.valView := by simp [visited]

@[simp] theorem fetchCommand_valView (q : Nat) (x : Env) : (s.fetchCommand q x).valView = s.valView := by
  simp only [fetchCommand]; (repeat' split) <;> simp

@[simp] theorem signal_valView (q : Nat) : (s.signal q).valView = s.valView := by simp [signal]
@[simp] theorem coalesce_valView (q : Nat) (r : Record) : (s.coalesce q r).valView = s.valView := by simp [coalesce]
@[simp] theorem postRecord_valView (q : Nat) : (s.postRecord q).valView = s.valView := by simp only [postRecord]; (repeat' split) <;> simp

@[simp] theorem ifServed_valView (act : State → State) (hact : ∀ t, (act t).valView = t.valView) :
    (s.ifServed act).valView = s.valView := by fun_cases ifServed <;> simp [hact]

end Sys2Proof.Machine.State

namespace Sys2Proof.Machine

/-! ### Mailboxes: the commands -/

@[simp] theorem execQCtrlEnable_keepsValLog (q : QueueId) (s : State) : KeepsValLog s (execQCtrlEnable q s) := by simp [execQCtrlEnable]
@[simp] theorem execQCtrlDisable_keepsValLog (q : QueueId) (s : State) : KeepsValLog s (execQCtrlDisable q s) := by simp [execQCtrlDisable]

@[simp] theorem execQSqTailDb_keepsValLog (q : QueueId) (tail : BitVec 8) (s : State) : KeepsValLog s (execQSqTailDb q tail s) := by
  simp [execQSqTailDb]

@[simp] theorem execQCqHeadDb_keepsValLog (q : QueueId) (head : BitVec 8) (s : State) : KeepsValLog s (execQCqHeadDb q head s) := by
  simp [execQCqHeadDb]

@[simp] theorem execCommandFetch_keepsValLog (q : QueueId) (x : Env) (s : State) : KeepsValLog s (execCommandFetch q x s) := by
  simp [execCommandFetch]

@[simp] theorem execCqRecordPost_keepsValLog (q : QueueId) (s : State) : KeepsValLog s (execCqRecordPost q s) := by simp [execCqRecordPost]

@[simp] theorem execImodTimer_keepsValLog (q : QueueId) (s : State) : KeepsValLog s (execImodTimer q s) := by
  fun_cases execImodTimer <;> simp

end Sys2Proof.Machine

namespace Sys2Proof.Machine.State

variable (s : State)

/-! ### Memory tiers -/

@[simp] theorem scrubNext_valView (m : Nat) : (s.scrubNext m).valView = s.valView := by simp [scrubNext]

@[simp] theorem poisonObject_valView (oid : Nat) (o : Obj) (bad : Tbl Bool) : (s.poisonObject oid o bad).valView = s.valView := by
  unfold poisonObject; split <;> simp

@[simp] theorem blameEntry_valView (oid unit : Nat) : (s.blameEntry oid unit).valView = s.valView := by fun_cases blameEntry <;> simp
@[simp] theorem metRebuild_valView (oid unit : Nat) : (s.metRebuild oid unit).valView = s.valView := by simp [metRebuild]

end Sys2Proof.Machine.State

namespace Sys2Proof.Machine

/-! ### Memory tiers: the commands -/

@[simp] theorem execPatrolScrub_keepsValLog (m : MemId) (r : ScrubResult) (s : State) : KeepsValLog s (execPatrolScrub m r s) := by
  fun_cases execPatrolScrub <;> simp

@[simp] theorem execScrubOverdue_keepsValLog (m : MemId) (s : State) : KeepsValLog s (execScrubOverdue m s) := by
  simp only [execScrubOverdue]; (repeat' split) <;> simp

@[simp] theorem execParityRebuild_keepsValLog (oid : BitVec 32) (unit : Nat) (rebuilt : Bool) (s : State) :
    KeepsValLog s (execParityRebuild oid unit rebuilt s) := by simp only [execParityRebuild]; (repeat' split) <;> simp

@[simp] theorem execFlashBackgroundWork_keepsValLog (f : FlashId) (w : FlashWork) (s : State) :
    KeepsValLog s (execFlashBackgroundWork f w s) := by fun_cases execFlashBackgroundWork <;> simp

@[simp] theorem execFlashWriteResume_keepsValLog (f : FlashId) (s : State) : KeepsValLog s (execFlashWriteResume f s) := by
  fun_cases execFlashWriteResume <;> simp

@[simp] theorem execRefreshAndCalibration_keepsValLog (_m : MemId) (_channel : Fin 4) (s : State) :
    KeepsValLog s (execRefreshAndCalibration _m _channel s) := by simp [execRefreshAndCalibration]

end Sys2Proof.Machine

namespace Sys2Proof.Machine.State

variable (s : State)

/-! ### Objects -/

@[simp] theorem modObj_valView (oid : Nat) (f : Obj → Obj) : (s.modObj oid f).valView = s.valView := by fun_cases modObj <;> simp

@[simp] theorem objRead_valView (x : Env) (view oid : Nat) (o : Obj) (off n : Nat) :
    (s.objRead x view oid o off n).2.valView = s.valView := by simp only [objRead]; (repeat' split) <;> simp

@[simp] theorem objCells_valView (x : Env) (oid : Nat) (o : Obj) (off n : Nat) : (s.objCells x oid o off n).2.valView = s.valView := by
  simp [objCells]

@[simp] theorem beginFlash_valView (off len : Nat) : (s.beginFlash off len).valView = s.valView := by simp [beginFlash]
@[simp] theorem applyWrite_valView (o : Obj) (w : PendingWrite) : (s.applyWrite o w).valView = s.valView := by fun_cases applyWrite <;> simp
@[simp] theorem ref_valView (oid : Nat) : (s.ref oid).valView = s.valView := by simp [ref]
@[simp] theorem unref_valView (oid : Nat) : (s.unref oid).valView = s.valView := by simp [unref]
@[simp] theorem dropCopy_valView (oid : Nat) : (s.dropCopy oid).valView = s.valView := by unfold dropCopy; (repeat' split) <;> simp
@[simp] theorem freeObj_valView (oid : Nat) : (s.freeObj oid).valView = s.valView := by simp [freeObj]
@[simp] theorem beginWrite_valView (oid : Nat) (w : PendingWrite) : (s.beginWrite oid w).valView = s.valView := by simp [beginWrite]
@[simp] theorem withdraw_valView (oid : Nat) : (s.withdraw oid).valView = s.valView := by fun_cases withdraw <;> simp
@[simp] theorem promoteReaches_valView (oid : Nat) : (s.promoteReaches oid).valView = s.valView := by fun_cases promoteReaches <;> simp
@[simp] theorem evictFollows_valView (oid : Nat) : (s.evictFollows oid).valView = s.valView := by fun_cases evictFollows <;> simp

@[simp] theorem finishTags_valView (ts : List (QueueId × Tag)) (status : BitVec 8) (r1 : BitVec 64) :
    (s.finishTags ts status r1).valView = s.valView := by simp [finishTags]

@[simp] theorem newGeneration_valView (oid : Nat) (data : Tbl Byte) (bad : Tbl Bool) (len : Nat) (us : List Nat) :
    (s.newGeneration oid data bad len us).valView = s.valView := by simp only [newGeneration]; (repeat' split) <;> simp

@[simp] theorem startPromotion_valView (oid a : Nat) (tags : List (QueueId × Tag)) : (s.startPromotion oid a tags).valView = s.valView := by
  simp [startPromotion]

@[simp] theorem finishPromotion_valView (x : Env) (oid : Nat) (keep : Bool) : (s.finishPromotion x oid keep).2.valView = s.valView := by
  simp only [finishPromotion]; (repeat' split) <;> simp

@[simp] theorem takeDeferred_valView (x : Env) (oid : Nat) : (s.takeDeferred x oid).valView = s.valView := by
  unfold takeDeferred; (repeat' split) <;> simp

@[simp] theorem commitWrite_valView (oid : Nat) : (s.commitWrite oid).valView = s.valView := by unfold commitWrite; (repeat' split) <;> simp

theorem placeCopy_valView (s : State) (len : Nat) (p : Nat × State) (h : s.placeCopy len = some p) : p.2.valView = s.valView := by
  obtain ⟨m, _, hm⟩ := List.exists_of_findSome?_eq_some h
  dsimp only at hm
  split at hm
  · cases hm
  · obtain ⟨a, _, rfl⟩ := Option.map_eq_some_iff.1 hm
    simp

@[simp] theorem endPromotion_valView (oid : Nat) : (s.endPromotion oid).valView = s.valView := by
  unfold endPromotion; (repeat' split) <;> simp

@[simp] theorem cancelPromotion_valView (e : AlmEntry) : (s.cancelPromotion e).valView = s.valView := by fun_cases cancelPromotion <;> simp

@[simp] theorem objCreateCmd_valView (q : Nat) (f : Flight) : (s.objCreateCmd q f).valView = s.valView := by
  unfold objCreateCmd; split <;> simp

@[simp] theorem objWriteCmd_valView (q : Nat) (f : Flight) : (s.objWriteCmd q f).valView = s.valView := by fun_cases objWriteCmd <;> simp
@[simp] theorem readOut_valView (h : Nat) (cs : List Cell) : (s.readOut h cs).valView = s.valView := by simp [readOut]

@[simp] theorem objReadCmd_valView (x : Env) (q : Nat) (f : Flight) : (s.objReadCmd x q f).valView = s.valView := by
  simp only [objReadCmd]; (repeat' split) <;> simp

@[simp] theorem objDeleteCmd_valView (q : Nat) (f : Flight) : (s.objDeleteCmd q f).valView = s.valView := by fun_cases objDeleteCmd <;> simp

@[simp] theorem objPromoteCmd_valView (x : Env) (q : Nat) (f : Flight) : (s.objPromoteCmd x q f).valView = s.valView := by
  simp only [objPromoteCmd]
  repeat' split
  any_goals simp
  rename_i h
  simp [placeCopy_valView _ _ _ h]

@[simp] theorem objEvictCmd_valView (q : Nat) (f : Flight) : (s.objEvictCmd q f).valView = s.valView := by
  simp only [objEvictCmd]; (repeat' split) <;> simp

@[simp] theorem objWithdrawCmd_valView (q : Nat) (f : Flight) : (s.objWithdrawCmd q f).valView = s.valView := by
  fun_cases objWithdrawCmd <;> simp

@[simp] theorem spoilPromote_valView (f : Flight) : (s.spoilPromote f).valView = s.valView := by
  simp only [spoilPromote]; (repeat' split) <;> simp

@[simp] theorem spoilWrite_valView (f : Flight) : (s.spoilWrite f).valView = s.valView := by
  simp only [spoilWrite]; (repeat' split) <;> simp

@[simp] theorem runAgain_valView (t : Tag) (opc : Nat) (x : Env) (body : State → Nat → Flight → State) (spoil : State → Flight → State)
    (hbody : ∀ u v w, (body u v w).valView = u.valView) (hspoil : ∀ u v, (spoil u v).valView = u.valView) :
    (s.runAgain t opc x body spoil).valView = s.valView := by fun_cases runAgain <;> simp [hbody, hspoil]

end Sys2Proof.Machine.State

namespace Sys2Proof.Machine

/-! ### Objects: the commands -/

@[simp] theorem execObjGenerationCommit_keepsValLog (oid : BitVec 32) (x : Env) (s : State) :
    KeepsValLog s (execObjGenerationCommit oid x s) := by simp [execObjGenerationCommit]

@[simp] theorem execDeferredTakesEffect_keepsValLog (oid : BitVec 32) (x : Env) (s : State) :
    KeepsValLog s (execDeferredTakesEffect oid x s) := by simp [execDeferredTakesEffect]

@[simp] theorem execObjCreate_keepsValLog (t : Tag) (s : State) : KeepsValLog s (execObjCreate t s) := by simp [execObjCreate]
@[simp] theorem execObjWrite_keepsValLog (t : Tag) (x : Env) (s : State) : KeepsValLog s (execObjWrite t x s) := by simp [execObjWrite]
@[simp] theorem execObjRead_keepsValLog (t : Tag) (x : Env) (s : State) : KeepsValLog s (execObjRead t x s) := by simp [execObjRead]
@[simp] theorem execObjDelete_keepsValLog (t : Tag) (s : State) : KeepsValLog s (execObjDelete t s) := by simp [execObjDelete]

@[simp] theorem execObjPromote_keepsValLog (t : Tag) (x : Env) (s : State) : KeepsValLog s (execObjPromote t x s) := by
  simp [execObjPromote]

@[simp] theorem execObjEvict_keepsValLog (t : Tag) (s : State) : KeepsValLog s (execObjEvict t s) := by simp [execObjEvict]
@[simp] theorem execObjWithdraw_keepsValLog (t : Tag) (s : State) : KeepsValLog s (execObjWithdraw t s) := by simp [execObjWithdraw]

end Sys2Proof.Machine
end

section
/-!
R359, part 2: the Churn cores. Each operation leaves the view alone: along the branches of its definition, by the laws of the operations
that it runs. Each command that runs only such operations keeps R359.
-/
namespace Sys2Proof.Machine.State

variable (s : State)

/-! ### Units of a core. A Sextant's own work leaves its VAL_LOG alone -/

@[simp] theorem scanLines_valView (c : Nat) (x : Env) (l : List Nat) : (s.scanLines c x l).2.valView = s.valView := by
  induction l generalizing s with
  | nil => rfl
  | cons a l ih =>
    simp only [scanLines]
    (repeat' split) <;> simp [ih]

@[simp] theorem postSem_valView (c : Nat) (sem : BitVec 6) (n : Nat) : (s.postSem c sem n).2.valView = s.valView := by
  fun_cases postSem <;> simp

@[simp] theorem modProbe_valView (c : Nat) (f : Probe → Probe) : (s.modProbe c f).valView = s.valView := by simp [modProbe]
@[simp] theorem dropProbe_valView (c : Nat) : (s.dropProbe c).valView = s.valView := by simp [dropProbe]

@[simp] theorem lateFault_valView (c : Nat) (cause : CoreCause) (pc : Nat) : (s.lateFault c cause pc).valView = s.valView := by
  simp [lateFault]

@[simp] theorem enterFault_valView (c : Nat) (cause : CoreCause) (pc : Nat) : (s.enterFault c cause pc).valView = s.valView := by
  simp [enterFault]

@[simp] theorem fillFree_valView (regions : Tbl Region) (a n : Nat) : (s.fillFree regions a n).valView = s.valView := by simp [fillFree]
@[simp] theorem fillLines_valView (c : Nat) (rs : List (Nat × Nat)) : (s.fillLines c rs).valView = s.valView := by simp [fillLines]

@[simp] theorem spoilBegun_valView (c b : Nat) : (s.spoilBegun c b).valView = s.valView := by
  simp only [spoilBegun]; (repeat' split) <;> simp

@[simp] theorem markFault_valView (c seq : Nat) (cause : CoreCause) (pc : Nat) : (s.markFault c seq cause pc).valView = s.valView := by
  simp [markFault]

@[simp] theorem unitOverflow_valView (c : Nat) : (s.unitOverflow c).valView = s.valView := by fun_cases unitOverflow <;> simp
@[simp] theorem coreOverflow_valView (c seq pc : Nat) : (s.coreOverflow c seq pc).valView = s.valView := by fun_cases coreOverflow <;> simp

@[simp] theorem retirePost_valView (c seq pc : Nat) (post : PostReq) : (s.retirePost c seq pc post).valView = s.valView := by
  simp only [retirePost]; (repeat' split) <;> simp

@[simp] theorem corePost_valView (c seq pc : Nat) (target : BitVec 8) (sem : BitVec 6) (n : Nat) (holds : Bool) :
    (s.corePost c seq pc target sem n holds).valView = s.valView := by simp [corePost]

@[simp] theorem countReplays_valView (c n : Nat) : (s.countReplays c n).valView = s.valView := by simp [countReplays]

@[simp] theorem overflow_valView (c : Nat) (t : Tile) (seq pc : Nat) : (s.overflow c t seq pc).valView = s.valView := by
  unfold overflow
  split
  · simp
  · cases s.probeOf c t.id <;> simp

/-! ### Issue and retirement -/

@[simp] theorem sxtDraw_valView (c : Nat) (t : Tile) (first : Bool) (pc : Nat) : (s.sxtDraw c t first pc).valView = s.valView := by
  simp [sxtDraw]

@[simp] theorem probeStep_valView (c : Nat) (v : StepVec) : (s.probeStep c v).valView = s.valView := by fun_cases probeStep <;> simp

@[simp] theorem sxtCompare_valView (c : Nat) (t : Tile) (acc : Tbl Acc) : (s.sxtCompare c t acc).valView = s.valView := by
  simp only [sxtCompare]; (repeat' split) <;> simp

@[simp] theorem retireLoose_valView (c : Nat) : (s.retireLoose c).valView = s.valView := by simp [retireLoose]
@[simp] theorem notePhase_valView (c : Nat) (p : BitVec 3) : (s.notePhase c p).valView = s.valView := by simp [notePhase]
@[simp] theorem enterIdle_valView (c : Nat) : (s.enterIdle c).valView = s.valView := by simp [enterIdle]
@[simp] theorem dropHeld_valView (c : Nat) : (s.dropHeld c).valView = s.valView := by simp [dropHeld]

@[simp] theorem runHeld_valView (c : Nat) : (s.runHeld c).valView = s.valView := by
  unfold runHeld
  dsimp only
  split
  · rfl
  · rename_i h _
    split
    · rfl
    · obtain ⟨seq, pc, op, waited, stagger⟩ := h
      cases op with
      | sync => exact dropHeld_valView _ _
      | phase p => exact (modCore_valView _ _ _).trans ((dropHeld_valView _ _).trans (notePhase_valView _ _ _))
      | post t m n => exact (corePost_valView _ _ _ _ _ _ _ _).trans (dropHeld_valView _ _)
      | endOp =>
        dsimp only
        rw [valView_ite, enterIdle_valView, ite_self, retireLoose_valView, dropHeld_valView]
      | _ => rfl

@[simp] theorem headFault_valView (c : Nat) : (s.headFault c).valView = s.valView := by fun_cases headFault <;> simp
@[simp] theorem faultDone_valView (c : Nat) : (s.faultDone c).valView = s.valView := by simp only [faultDone]; (repeat' split) <;> simp
@[simp] theorem settle_valView (c : Nat) : (s.settle c).valView = s.valView := by simp [settle]
@[simp] theorem takeHead_valView (c : Nat) : (s.takeHead c).valView = s.valView := by simp [takeHead]

@[simp] theorem coreIssue_valView (c : Nat) (want : CoreOp → Bool) (act : State → Nat → Nat → CoreOp → State)
    (hact : ∀ t u v w, (act t u v w).valView = t.valView) :
    (s.coreIssue c want act).valView = s.valView := by fun_cases coreIssue <;> simp [hact]

@[simp] theorem hold_valView (c seq pc : Nat) (op : CoreOp) : (s.hold c seq pc op).valView = s.valView := by simp [hold]

@[simp] theorem satisfyWait_valView (c seq pc : Nat) (bar : Bool) (sem : BitVec 6) (count : BitVec 16) :
    (s.satisfyWait c seq pc bar sem count).valView = s.valView := by simp [satisfyWait]

@[simp] theorem issueLds_valView (c seq pc : Nat) (o : LdsOp) : (s.issueLds c seq pc o).valView = s.valView := by simp [issueLds]
@[simp] theorem issueAccld_valView (c seq pc : Nat) (o : AccldOp) : (s.issueAccld c seq pc o).valView = s.valView := by simp [issueAccld]
@[simp] theorem issueAnch_valView (c seq pc : Nat) (o : AnchOp) : (s.issueAnch c seq pc o).valView = s.valView := by simp [issueAnch]
@[simp] theorem issuePass_valView (c seq pc : Nat) (o : PassOp) : (s.issuePass c seq pc o).valView = s.valView := by simp [issuePass]
@[simp] theorem issueDrain_valView (c seq pc : Nat) (o : DrainOp) : (s.issueDrain c seq pc o).valView = s.valView := by simp [issueDrain]
@[simp] theorem issueQuant_valView (c seq pc : Nat) (o : QuantOp) : (s.issueQuant c seq pc o).valView = s.valView := by simp [issueQuant]
@[simp] theorem issueMove_valView (c seq pc : Nat) (o : MoveOp) : (s.issueMove c seq pc o).valView = s.valView := by simp [issueMove]

@[simp] theorem fetchLine_valView (c : Nat) (x : Env) (a : Nat) : (s.fetchLine c x a).2.valView = s.valView := by
  fun_cases fetchLine <;> simp

@[simp] theorem fetchTwo_valView (c : Nat) (x : Env) : (s.fetchTwo c x).valView = s.valView := by
  simp only [fetchTwo]; (repeat' split) <;> simp

@[simp] theorem ldsAgain_valView (c : Nat) (x : Env) (e : Issued LdsOp) : (s.ldsAgain c x e).valView = s.valView := by
  simp only [ldsAgain]
  split <;>
  · rename_i h
    simp [valView_of_snd h]

@[simp] theorem ldsRun_valView (c : Nat) (x : Env) : (s.ldsRun c x).valView = s.valView := by
  simp only [ldsRun]
  split
  · simp
  · split
    · split
      · rfl
      · split <;>
        · rename_i h
          simp [valView_of_snd h]
    · rfl

@[simp] theorem accldLoad_valView (c : Nat) (e : Issued AccldOp) (buf : Tbl (List Byte)) : (s.accldLoad c e buf).valView = s.valView := by
  fun_cases accldLoad <;> simp

@[simp] theorem accldRun_valView (c : Nat) (x : Env) : (s.accldRun c x).valView = s.valView := by
  simp only [accldRun]
  split
  · split <;>
    · rename_i h
      simp [valView_of_snd h]
  · split
    · split
      · rfl
      · split <;>
        · rename_i h
          simp [valView_of_snd h]
    · rfl

@[simp] theorem anchRun_valView (c : Nat) (x : Env) : (s.anchRun c x).valView = s.valView := by
  simp only [anchRun]
  split
  · rfl
  · split
    · rfl
    · split <;>
      · rename_i h
        simp [valView_of_snd h]

@[simp] theorem grantStep_valView (c : Nat) (x : Env) (e : PassEntry) (l : Option LdsOp) (again : Bool) :
    (s.grantStep c x e l again).valView = s.valView := by
  simp only [grantStep]
  split
  · simp
  · split <;>
    · rename_i h
      simp [valView_of_snd h]

@[simp] theorem landStep_valView (c : Nat) : (s.landStep c).valView = s.valView := by simp only [landStep]; (repeat' split) <;> simp

@[simp] theorem retireAll_valView (c : Nat) (l : List Unretired) : (s.retireAll c l).valView = s.valView := by
  induction l generalizing s with
  | nil => rfl
  | cons u l ih => simp [retireAll, ih]

@[simp] theorem captured_valView (c : Nat) (t : Tile) : (s.captured c t).2.2.valView = s.valView := by unfold captured; split <;> simp
@[simp] theorem capture_valView (c : Nat) : (s.capture c).valView = s.valView := by simp only [capture]; (repeat' split) <;> simp
@[simp] theorem streamDone_valView (c : Nat) : (s.streamDone c).valView = s.valView := by unfold streamDone; split <;> simp

@[simp] theorem quantRun_valView (c : Nat) (x : Env) : (s.quantRun c x).valView = s.valView := by
  simp only [quantRun]
  split
  · rfl
  · split
    · rfl
    · split <;>
      · rename_i h
        simp [valView_of_snd h]

@[simp] theorem moveRun_valView (c i : Nat) (x : Env) : (s.moveRun c i x).2.valView = s.valView := by
  unfold moveRun; (repeat' split) <;> simp

@[simp] theorem moveRefused_valView (c i : Nat) : (s.moveRefused c i).valView = s.valView := by fun_cases moveRefused <;> simp
@[simp] theorem unitPost_valView (c : Nat) (sem : BitVec 6) (n : Nat) : (s.unitPost c sem n).valView = s.valView := by simp [unitPost]
@[simp] theorem deliverPost_valView (i : Nat) : (s.deliverPost i).valView = s.valView := by unfold deliverPost; (repeat' split) <;> simp

end Sys2Proof.Machine.State
end

section
/-!
R359, part 2: the fabric and the Almanac. Each operation leaves the view alone: along the branches of its definition, by the laws of the
operations that it runs. Each command that runs only such operations keeps R359.
-/
namespace Sys2Proof.Machine.State

variable (s : State)

/-! ### Ports and frames -/

@[simp] theorem modEngines_valView (f : Engine → Engine) : (s.modEngines f).valView = s.valView := by simp [modEngines]
@[simp] theorem setLoop_valView : s.setLoop.valView = s.valView := by simp [setLoop]
@[simp] theorem entrySent_valView (f : Frame) : (s.entrySent f).valView = s.valView := by fun_cases entrySent <;> simp
@[simp] theorem collSent_valView (f : Frame) : (s.collSent f).valView = s.valView := by simp [collSent]

@[simp] theorem putOutFor_valView (p : Nat) (pool : Option Nat) (f : Frame) : (s.putOutFor p pool f).valView = s.valView := by
  simp [putOutFor]

@[simp] theorem putOut_valView (p : Nat) (f : Frame) : (s.putOut p f).valView = s.valView := by simp [putOut]
@[simp] theorem creditOut_valView (p pool : Nat) : (s.creditOut p pool).valView = s.valView := by simp [creditOut]
@[simp] theorem owe_valView (p pool n : Nat) : (s.owe p pool n).valView = s.valView := by simp [owe]
@[simp] theorem leaves_valView (w : Waiting) : (s.leaves w).valView = s.valView := by fun_cases leaves <;> simp
@[simp] theorem clearPort_valView (p : Nat) (f : Port → Port) : (s.clearPort p f).valView = s.valView := by simp [clearPort]
@[simp] theorem portOut_valView (p : Nat) (cause : BitVec 4) : (s.portOut p cause).valView = s.valView := by simp [portOut]
@[simp] theorem portRetrain_valView (p : Nat) (again : Bool) : (s.portRetrain p again).valView = s.valView := by simp [portRetrain]
@[simp] theorem portDark_valView (p : Nat) : (s.portDark p).valView = s.valView := by simp [portDark]
@[simp] theorem unusedPorts_valView : s.unusedPorts.valView = s.valView := by simp [unusedPorts]
@[simp] theorem engineOn_valView (e : Nat) : (s.engineOn e).valView = s.valView := by simp [engineOn]

@[simp] theorem sendShake_valView (p : Nat) (op : BitVec 8) (msg : List Byte) : (s.sendShake p op msg).valView = s.valView := by
  simp [sendShake]

@[simp] theorem attestBegins_valView (p : Nat) : (s.attestBegins p).valView = s.valView := by simp [attestBegins]
@[simp] theorem trainDone_valView (p : Nat) (usable : BitVec 4) : (s.trainDone p usable).valView = s.valView := by simp [trainDone]
@[simp] theorem portUp_valView (p : Nat) : (s.portUp p).valView = s.valView := by simp [portUp]

@[simp] theorem pump_valView (p n : Nat) (s : State) : (pump p n s).valView = s.valView := by
  induction n generalizing s with
  | zero => rfl
  | succ n ih =>
    unfold pump
    split <;> simp [ih]

@[simp] theorem pumpAll_valView (p : Nat) : (s.pumpAll p).valView = s.valView := by simp [pumpAll]

@[simp] theorem transmit_valView (p : Nat) (f : Frame) (hold : Option (Nat × Nat)) : (s.transmit p f hold).valView = s.valView := by
  simp [transmit]

@[simp] theorem ownLost_valView (f : Frame) : (s.ownLost f).valView = s.valView := by simp [ownLost]

@[simp] theorem unroute_valView (e : Nat) (via : Option Nat) (f : Frame) : (s.unroute e via f).valView = s.valView := by
  unfold unroute; split <;> simp

@[simp] theorem route_valView (via : Option Nat) (f : Frame) : (s.route via f).valView = s.valView := by fun_cases route <;> simp
@[simp] theorem sendOpen_valView (dst : BitVec 12) : (s.sendOpen dst).valView = s.valView := by simp [sendOpen]
@[simp] theorem sendFrame_valView (f : Frame) : (s.sendFrame f).valView = s.valView := by simp [sendFrame]

@[simp] theorem sendCtrl_valView (dst : BitVec 12) (op : BitVec 8) (stream epoch : BitVec 16) :
    (s.sendCtrl dst op stream epoch).valView = s.valView := by simp [sendCtrl]

@[simp] theorem sendAck_valView (p : Nat) : (s.sendAck p).valView = s.valView := by simp [sendAck]
@[simp] theorem sendNak_valView (p : Nat) : (s.sendNak p).valView = s.valView := by simp [sendNak]
@[simp] theorem takeAck_valView (p : Nat) (ack : BitVec 12) : (s.takeAck p ack).valView = s.valView := by fun_cases takeAck <;> simp
@[simp] theorem resend_valView (p : Nat) : (s.resend p).valView = s.valView := by simp [resend]
@[simp] theorem badFrame_valView (p : Nat) : (s.badFrame p).valView = s.valView := by simp [badFrame]
@[simp] theorem tagFail_valView (p : Nat) : (s.tagFail p).valView = s.valView := by simp [tagFail]
@[simp] theorem takeCredit_valView (p pool n : Nat) : (s.takeCredit p pool n).valView = s.valView := by simp [takeCredit]
@[simp] theorem acceptSeq_valView (p : Nat) (f : Frame) : (s.acceptSeq p f).valView = s.valView := by simp [acceptSeq]
@[simp] theorem countFec_valView (p : Nat) (f : Frame) : (s.countFec p f).valView = s.valView := by simp [countFec]

@[simp] theorem receive_valView (p : Nat) (type : BitVec 4) (f : Frame) (act : State → State) (hact : ∀ t, (act t).valView = t.valView) :
    (s.receive p type f act).valView = s.valView := by
  simp only [receive]
  (repeat' split) <;> simp [hact]

@[simp] theorem deliver_valView (p : Nat) (f : Frame) (act : State → State) (hact : ∀ t, (act t).valView = t.valView) :
    (s.deliver p f act).valView = s.valView := by fun_cases deliver <;> simp [hact]

@[simp] theorem staleDrop_valView (p : Nat) : (s.staleDrop p).valView = s.valView := by simp [staleDrop]
@[simp] theorem openAsked_valView (p : PortId) (f : Frame) : (s.openAsked p f).valView = s.valView := by simp [openAsked]
@[simp] theorem openAnswered_valView (p : Nat) (f : Frame) : (s.openAnswered p f).valView = s.valView := by simp [openAnswered]
@[simp] theorem epochBegins_valView (e : BitVec 16) : (s.epochBegins e).valView = s.valView := by simp [epochBegins]
@[simp] theorem enterEpoch_valView (e : BitVec 16) : (s.enterEpoch e).valView = s.valView := by simp [enterEpoch]
@[simp] theorem dropStream_valView (st : BitVec 16) : (s.dropStream st).valView = s.valView := by simp [dropStream]

@[simp] theorem followLight_valView : s.followLight.valView = s.valView := by
  refine foldl_valView _ (fun t p => ?_) _ _
  dsimp only
  (repeat' split) <;> simp

/-! ### The Almanac -/

@[simp] theorem pruneSlot_valView (j : Nat) : (s.pruneSlot j).valView = s.valView := by simp [pruneSlot]
@[simp] theorem prune_valView (job : BitVec 16) : (s.prune job).valView = s.valView := by fun_cases prune <;> simp
@[simp] theorem returnGate_valView (p : Placed) : (s.returnGate p).valView = s.valView := by simp [returnGate]
@[simp] theorem retireEntry_valView (p : Placed) : (s.retireEntry p).valView = s.valView := by simp [retireEntry]
@[simp] theorem dropEntry_valView (p : Placed) : (s.dropEntry p).valView = s.valView := by simp [dropEntry]
@[simp] theorem sweepEntries_valView : s.sweepEntries.valView = s.valView := by simp [sweepEntries]
@[simp] theorem writeSlotStep_valView (j : Nat) (step : BitVec 64) : (s.writeSlotStep j step).valView = s.valView := by simp [writeSlotStep]

@[simp] theorem setWaiting_valView (work : BitVec 16) (es : List AlmEntry) : (s.setWaiting work es).valView = s.valView := by
  simp [setWaiting]

@[simp] theorem putEntryInTable_valView (e : AlmEntry) : (s.putEntryInTable e).valView = s.valView := by simp [putEntryInTable]
@[simp] theorem takeGate_valView (e : AlmEntry) : (s.takeGate e).valView = s.valView := by simp [takeGate]

@[simp] theorem takeGates_valView (n : Nat) (s : State) : (takeGates n s).valView = s.valView := by
  induction n generalizing s with
  | zero => rfl
  | succ n ih =>
    unfold takeGates
    split <;> simp [ih]

@[simp] theorem gatesNow_valView : s.gatesNow.valView = s.valView := by simp [gatesNow]

@[simp] theorem launchEntry_valView (id : Nat) : (s.launchEntry id).valView = s.valView := by
  simp only [launchEntry]; (repeat' split) <;> simp

@[simp] theorem cancelWhere_valView (job : BitVec 16) (hit : AlmEntry → Bool) : (s.cancelWhere job hit).valView = s.valView := by
  simp [cancelWhere]

@[simp] theorem cancelEntries_valView (job : BitVec 16) (step : Option (BitVec 64)) : (s.cancelEntries job step).valView = s.valView := by
  simp [cancelEntries]

@[simp] theorem writeParts_valView (rs : Tbl Region) (a : Nat) (l : List (List Cell)) (l' : List Bool) :
    (s.writeParts rs a l l').2.valView = s.valView := by
  induction l generalizing s a l' with
  | nil => simp [writeParts]
  | cons c l ih => cases l' <;> simp [writeParts, ih]

@[simp] theorem entryCells_valView (x : Env) (e : AlmEntry) : (s.entryCells x e).2.valView = s.valView := by fun_cases entryCells <;> simp

@[simp] theorem writeBack_valView (x : Env) (e : AlmEntry) (next : Bool) : (s.writeBack x e next).2.valView = s.valView := by
  simp [writeBack]

@[simp] theorem partly_valView (rs : Tbl Region) (a : Nat) (cs : List Cell) : (s.partly rs a cs).valView = s.valView := by simp [partly]
@[simp] theorem endCancelled_valView (p : Placed) : (s.endCancelled p).valView = s.valView := by simp [endCancelled]
@[simp] theorem cancelDone_valView : s.cancelDone.valView = s.valView := by simp [cancelDone]

end Sys2Proof.Machine.State
end

section
/-!
R359, part 2: the training step. Each operation leaves the view alone: along the branches of its definition, by the laws of the operations
that it runs. Each command that runs only such operations keeps R359.
-/
namespace Sys2Proof.Machine.State

variable (s : State)

/-! ### Separators -/

@[simp] theorem readArr_valView (x : Env) (m : Nat) (d : UpdDesc) (base w k n : Nat) :
    (s.readArr x m d base w k n).2.2.valView = s.valView := by unfold readArr; split <;> simp

@[simp] theorem writeArr_valView (m : Nat) (d : UpdDesc) (base w k : Nat) (cs : List Nat) :
    (s.writeArr m d base w k cs).valView = s.valView := by fun_cases writeArr <;> simp

@[simp] theorem markPoison_valView (a n : Nat) : (s.markPoison a n).valView = s.valView := by simp [markPoison]

@[simp] theorem poisonSeg_valView (m : Nat) (d : UpdDesc) (k : Nat) : (s.poisonSeg m d k).valView = s.valView := by
  simp only [poisonSeg]
  rw [valView_ite, markPoison_valView, markPoison_valView, ite_self]
  exact foldl_valView _ (fun t a => by split <;> simp) _ _

@[simp] theorem stagedDone_valView (m : Nat) (d : UpdDesc) (k : Nat) : (s.stagedDone m d k).valView = s.valView := by simp [stagedDone]
@[simp] theorem countNonfinite_valView (m n : Nat) : (s.countNonfinite m n).valView = s.valView := by simp [countNonfinite]

@[simp] theorem applySeg_valView (x : Env) (m : Nat) (d : UpdDesc) (k : Nat) : (s.applySeg x m d k).2.valView = s.valView := by
  simp only [applySeg]
  cases d.flash
  · simp
  · simp only [if_true, snd_ite_valView, stagedDone_valView, modSep_valView, countNonfinite_valView, valView_ite, store_valView,
      writeArr_valView, ite_self]
    split <;> simp

@[simp] theorem loadFactors_valView (x : Env) (m : Nat) (d : UpdDesc) : (s.loadFactors x m d).valView = s.valView := by simp [loadFactors]

@[simp] theorem storeFactors_valView (m : Nat) (d : UpdDesc) : (s.storeFactors m d).valView = s.valView := by
  simp only [storeFactors]
  split
  · rfl
  · split
    · exact foldl_valView _ (fun t a => by split <;> simp) _ _
    · simp

@[simp] theorem commitDesc_valView (d : UpdDesc) (digest : BitVec 64) : (s.commitDesc d digest).valView = s.valView := by simp [commitDesc]
@[simp] theorem sepDone_valView (m : Nat) : (s.sepDone m).valView = s.valView := by simp [sepDone]

@[simp] theorem sepNext_valView (x : Env) (m n : Nat) (s : State) : (sepNext x m n s).2.valView = s.valView := by
  induction n generalizing s with
  | zero => rfl
  | succ n ih =>
    simp only [sepNext]
    (repeat' split) <;> simp [ih]

@[simp] theorem sepGo_valView (m : Nat) : (s.sepGo m).2.valView = s.valView := by unfold sepGo; split <;> simp

@[simp] theorem sepAdvance_valView (x : Env) (m : Nat) (d : UpdDesc) : (s.sepAdvance x m d).2.valView = s.valView := by
  simp only [sepAdvance]; (repeat' split) <;> simp

@[simp] theorem sepSegment_valView (x : Env) (m : Nat) (final : Bool) : (s.sepSegment x m final).2.2.valView = s.valView := by
  simp only [sepSegment]; (repeat' split) <;> simp

/-! ### Steps -/

@[simp] theorem coreHalt_valView (c : Nat) : (s.coreHalt c).valView = s.valView := by simp [coreHalt]
@[simp] theorem coreClear_valView (c : Nat) : (s.coreClear c).valView = s.valView := by simp [coreClear]
@[simp] theorem coreStart_valView (c : Nat) : (s.coreStart c).valView = s.valView := by simp [coreStart]

@[simp] theorem modRun_valView (job : BitVec 16) (n : BitVec 64) (f : StepRun → StepRun) : (s.modRun job n f).valView = s.valView := by
  simp [modRun]

@[simp] theorem modShard_valView (job num : BitVec 16) (f : Shard → Shard) : (s.modShard job num f).valView = s.valView := by
  simp [modShard]

@[simp] theorem sepAbort_valView (m : Nat) : (s.sepAbort m).valView = s.valView := by simp [sepAbort]
@[simp] theorem tearDown_valView (j : Job) (n : BitVec 64) : (s.tearDown j n).valView = s.valView := by simp [tearDown]

@[simp] theorem setVerdict_valView (job : BitVec 16) (n : BitVec 64) (cause : BitVec 8) :
    (s.setVerdict job n cause).valView = s.valView := by fun_cases setVerdict <;> simp

@[simp] theorem applyEnd_valView (job : BitVec 16) (n : BitVec 64) (voided : Bool) : (s.applyEnd job n voided).valView = s.valView := by
  unfold applyEnd; split <;> simp

@[simp] theorem fillSlots_valView (j : Job) (sh : Shard) : (s.fillSlots j sh).valView = s.valView := by
  unfold fillSlots
  split
  · rfl
  · exact foldl_valView _ (fun t i => by (repeat' split) <;> simp) _ _

@[simp] theorem sepLoad_valView (m : Nat) (j : Job) (sh : Shard) (r : StepRun) : (s.sepLoad m j sh r).valView = s.valView := by
  simp [sepLoad]

@[simp] theorem sepPrepare_valView (m : Nat) : (s.sepPrepare m).valView = s.valView := by fun_cases sepPrepare <;> simp
@[simp] theorem sepPrepareAll_valView : s.sepPrepareAll.valView = s.valView := by simp [sepPrepareAll]
@[simp] theorem sepEnded_valView (m : Nat) : (s.sepEnded m).valView = s.valView := by fun_cases sepEnded <;> simp
@[simp] theorem openGate_valView (job : BitVec 16) : (s.openGate job).valView = s.valView := by unfold openGate; (repeat' split) <;> simp

@[simp] theorem closeStep_valView (job : BitVec 16) (r : StepRun) (status : BitVec 8) (detail : Nat) (cause : BitVec 8) :
    (s.closeStep job r status detail cause).valView = s.valView := by simp [closeStep]

@[simp] theorem discardStaged_valView (j : Job) (n : BitVec 64) : (s.discardStaged j n).valView = s.valView := by simp [discardStaged]

@[simp] theorem discardUpdate_valView (job : BitVec 16) (n : BitVec 64) : (s.discardUpdate job n).valView = s.valView := by
  unfold discardUpdate; split <;> simp

@[simp] theorem abortStep_valView (job : BitVec 16) (n : BitVec 64) : (s.abortStep job n).valView = s.valView :=
  foldl_valView _ (fun t m => by split <;> simp) _ _

@[simp] theorem closeVoided_valView (job : BitVec 16) (n : BitVec 64) : (s.closeVoided job n).valView = s.valView := by
  unfold closeVoided; split <;> simp

@[simp] theorem dropGrads_valView (job : BitVec 16) (n : BitVec 64) : (s.dropGrads job n).valView = s.valView := by simp [dropGrads]

@[simp] theorem voidNow_valView (job : BitVec 16) (n : BitVec 64) (cause : BitVec 8) : (s.voidNow job n cause).valView = s.valView := by
  unfold voidNow; split <;> simp

@[simp] theorem closeApplied_valView (job : BitVec 16) (n : BitVec 64) : (s.closeApplied job n).valView = s.valView := by
  unfold closeApplied; split <;> simp

@[simp] theorem spoilOutput_valView (c : Coll) (from_ : Nat) : (s.spoilOutput c from_).valView = s.valView := by simp [spoilOutput]
@[simp] theorem endStream_valView (c : Coll) : (s.endStream c).valView = s.valView := by simp [endStream]
@[simp] theorem dropRepairs_valView (job : BitVec 16) : (s.dropRepairs job).valView = s.valView := by simp [dropRepairs]

@[simp] theorem loseFix_valView (job : BitVec 16) (det : Nat) : (s.loseFix job det).valView = s.valView := by
  simp only [loseFix]; (repeat' split) <;> simp

@[simp] theorem endStarted_valView (q : QueueId) (f : Flight) : (s.endStarted q f).valView = s.valView := by simp [endStarted]

@[simp] theorem stopJob_valView (job : BitVec 16) (how : Option (BitVec 64 × BitVec 8 × Nat)) :
    (s.stopJob job how).valView = s.valView := by unfold stopJob; (repeat' split) <;> simp

@[simp] theorem failStep_valView (job : BitVec 16) (step : Option (BitVec 64)) (detail : Nat) :
    (s.failStep job step detail).valView = s.valView := by fun_cases failStep <;> simp

@[simp] theorem compareShard_valView (job : BitVec 16) (n : BitVec 64) (me : BitVec 12) (sh : Shard)
    (others : List (BitVec 12 × BitVec 64)) :
    (s.compareShard job n me sh others).valView = s.valView := by simp only [compareShard]; (repeat' split) <;> simp

@[simp] theorem compareDigests_valView (job : BitVec 16) (n : BitVec 64) (peers : List PeerDigests) :
    (s.compareDigests job n peers).valView = s.valView := by
  unfold compareDigests
  split
  · rfl
  · rw [modJob_valView]
    exact foldl_valView _ (fun t i => by split <;> simp) _ _

@[simp] theorem commitObjs_valView (job : BitVec 16) : (s.commitObjs job).valView = s.valView :=
  foldl_valView _ (fun t p => by (repeat' split) <;> simp) _ _

@[simp] theorem commitStep_valView (job : BitVec 16) (n : BitVec 64) : (s.commitStep job n).valView = s.valView := by
  unfold commitStep; split <;> simp

/-! ### Collectives -/

@[simp] theorem modColl_valView (id : Nat) (f : Coll → Coll) : (s.modColl id f).valView = s.valView := by simp [modColl]
@[simp] theorem dropColl_valView (id : Nat) : (s.dropColl id).valView = s.valView := by simp [dropColl]

@[simp] theorem sendPieces_valView (c : Coll) (norm : List Byte) (n : BitVec 12) (rs : List (Nat × List Byte)) :
    (s.sendPieces c norm n rs).valView = s.valView := by simp [sendPieces]

@[simp] theorem sumSlice_valView (id : Nat) : (s.sumSlice id).valView = s.valView := by unfold sumSlice; split <;> simp
@[simp] theorem takeColl_valView (c : Coll) (f : Frame) : (s.takeColl c f).valView = s.valView := by simp [takeColl]

@[simp] theorem openColl_valView (c : Coll) : (s.openColl c).valView = s.valView := by
  unfold openColl
  rw [foldl_valView _ (fun t f => by split <;> simp)]
  simp

@[simp] theorem contribute_valView (id : Nat) (norm : List Byte) (es : List Nat) (cells : List (Nat × List Cell)) :
    (s.contribute id norm es cells).valView = s.valView := by unfold contribute; split <;> simp

@[simp] theorem readInput_valView (x : Env) (c : Coll) (es : List Nat) : (s.readInput x c es).2.valView = s.valView := by simp [readInput]
@[simp] theorem takeShare_valView (x : Env) (id : Nat) : (s.takeShare x id).valView = s.valView := by unfold takeShare; split <;> simp

@[simp] theorem readGrad_valView (c : Coll) (d : UpdDesc) (off n : Nat) : (s.readGrad c d off n).2.valView = s.valView := by
  simp only [readGrad]; (repeat' split) <;> simp

@[simp] theorem readGrads_valView (c : Coll) (d : UpdDesc) (es : List Nat) : (s.readGrads c d es).2.valView = s.valView := by
  simp [readGrads]

@[simp] theorem contributeGrad_valView (id : Nat) : (s.contributeGrad id).valView = s.valView := by
  unfold contributeGrad; (repeat' split) <;> simp

@[simp] theorem latch_valView (job : BitVec 16) (n : BitVec 64) : (s.latch job n).valView = s.valView := by unfold latch; split <;> simp
@[simp] theorem startGrads_valView (id : Nat) : (s.startGrads id).valView = s.valView := by fun_cases startGrads <;> simp
@[simp] theorem gradsGoOn_valView (id : Nat) : (s.gradsGoOn id).valView = s.valView := by simp only [gradsGoOn]; (repeat' split) <;> simp

@[simp] theorem passesDone_valView (job : BitVec 16) : (s.passesDone job).valView = s.valView := by
  unfold passesDone; (repeat' split) <;> simp

@[simp] theorem sealArrives_valView (p : Nat) (f : Frame) : (s.sealArrives p f).valView = s.valView := by
  unfold sealArrives; (repeat' split) <;> simp

@[simp] theorem earlySeals_valView (job : BitVec 16) : (s.earlySeals job).valView = s.valView := by simp [earlySeals]
@[simp] theorem sealDone_valView (job : BitVec 16) : (s.sealDone job).valView = s.valView := by unfold sealDone; (repeat' split) <;> simp
@[simp] theorem writeOutput_valView (c : Coll) : (s.writeOutput c).valView = s.valView := by simp [writeOutput]
@[simp] theorem gradReduced_valView (id : Nat) : (s.gradReduced id).valView = s.valView := by simp [gradReduced]
@[simp] theorem loadLayout_valView (job : BitVec 16) (b : List Byte) : (s.loadLayout job b).valView = s.valView := by simp [loadLayout]
@[simp] theorem reshardNow_valView : s.reshardNow.valView = s.valView := by unfold reshardNow; split <;> simp

@[simp] theorem gradDone_valView (c : Coll) (d : UpdDesc) : (s.gradDone c d).valView = s.valView := by
  simp only [gradDone]; (repeat' split) <;> simp

@[simp] theorem endColl_valView (c : Coll) : (s.endColl c).valView = s.valView := by simp [endColl]
@[simp] theorem collDone_valView (id : Nat) : (s.collDone id).valView = s.valView := by simp only [collDone]; (repeat' split) <;> simp

@[simp] theorem sendDigests_valView (job : BitVec 16) (n : BitVec 64) : (s.sendDigests job n).valView = s.valView := by
  unfold sendDigests; split <;> simp

@[simp] theorem loseColl_valView (c : Coll) (det : Nat) : (s.loseColl c det).valView = s.valView := by fun_cases loseColl <;> simp
@[simp] theorem engineTimeout_valView (e : Nat) : (s.engineTimeout e).valView = s.valView := by simp [engineTimeout]

@[simp] theorem loseQueue_valView (q : PipeQ) (det : Nat) : (s.loseQueue q det).valView = s.valView := by
  simp only [loseQueue]; (repeat' split) <;> simp

@[simp] theorem sealTimesOut_valView (j : Job) : (s.sealTimesOut j).valView = s.valView := by fun_cases sealTimesOut <;> simp
@[simp] theorem fixTimesOut_valView (j : Job) : (s.fixTimesOut j).valView = s.valView := by simp [fixTimesOut]

@[simp] theorem queueStalls_valView (q : PipeQ) : (s.queueStalls q).2.valView = s.valView := by
  simp only [queueStalls]; (repeat' split) <;> simp

@[simp] theorem collTimesOut_valView (id : Nat) : (s.collTimesOut id).valView = s.valView := by
  simp only [collTimesOut]
  split
  · rw [foldl_valView _ (fun t q => by simp), foldl_valView _ (fun t j => by split <;> simp)]
  · simp

@[simp] theorem portLost_valView (p : Nat) : (s.portLost p).valView = s.valView := by
  simp only [portLost]
  rw [foldl_valView _ (fun t q => by simp), foldl_valView _ (fun t j => by simp), foldl_valView _ (fun t j => by split <;> simp),
    foldl_valView _ (fun t c => by split <;> simp)]

@[simp] theorem abandonEpoch_valView (who : List (BitVec 12) → Bool) : (s.abandonEpoch who).valView = s.valView := by simp [abandonEpoch]
@[simp] theorem modStream_valView (st : BitVec 16) (f : McStream → McStream) : (s.modStream st f).valView = s.valView := by simp [modStream]
@[simp] theorem mcProgress_valView (st : BitVec 16) : (s.mcProgress st).valView = s.valView := by simp [mcProgress]

@[simp] theorem streamCells_valView (k : McStream) (off n : Nat) : (s.streamCells k off n).2.valView = s.valView := by
  fun_cases streamCells <;> simp

@[simp] theorem sendMc_valView (k : McStream) (b : McBranch) (off : Nat) (cs : List Cell) : (s.sendMc k b off cs).valView = s.valView := by
  simp [sendMc]

@[simp] theorem removeBranch_valView (k : McStream) (b : McBranch) : (s.removeBranch k b).valView = s.valView := by simp [removeBranch]

@[simp] theorem makeRoom_valView (st : BitVec 16) (n k : Nat) (s : State) : (makeRoom st n k s).valView = s.valView := by
  induction k generalizing s with
  | zero => rfl
  | succ k ih =>
    simp only [makeRoom]
    (repeat' split) <;> simp [ih]

@[simp] theorem drainBranch_valView (st : BitVec 16) (child : List (BitVec 12)) (n : Nat) (s : State) :
    (drainBranch st child n s).valView = s.valView := by
  induction n generalizing s with
  | zero => rfl
  | succ n ih =>
    simp only [drainBranch]
    (repeat' split) <;> simp [ih]

@[simp] theorem advanceHead_valView (st : BitVec 16) (n : Nat) (s : State) : (advanceHead st n s).valView = s.valView := by
  induction n generalizing s with
  | zero => rfl
  | succ n ih =>
    simp only [advanceHead]
    (repeat' split) <;> simp [ih]

@[simp] theorem mcPump_valView (st : BitVec 16) : (s.mcPump st).valView = s.valView := by unfold mcPump; split <;> simp
@[simp] theorem grantMc_valView (k : McStream) (n : Nat) : (s.grantMc k n).valView = s.valView := by simp [grantMc]
@[simp] theorem mcArrives_valView (f : Frame) : (s.mcArrives f).valView = s.valView := by unfold mcArrives; (repeat' split) <;> simp
@[simp] theorem mcCredit_valView (f : Frame) : (s.mcCredit f).valView = s.valView := by simp [mcCredit]
@[simp] theorem mcRemoved_valView (f : Frame) : (s.mcRemoved f).valView = s.valView := by simp only [mcRemoved]; (repeat' split) <;> simp
@[simp] theorem mcHoldOver_valView (st : BitVec 16) (p : Nat) : (s.mcHoldOver st p).valView = s.valView := by fun_cases mcHoldOver <;> simp

@[simp] theorem openStream_valView (c : Coll) (cap total : Nat) (held : Option (Tbl Cell)) :
    (s.openStream c cap total held).valView = s.valView := by simp [openStream]

@[simp] theorem modPipe_valView (qid : BitVec 16) (f : PipeQ → PipeQ) : (s.modPipe qid f).valView = s.valView := by simp [modPipe]
@[simp] theorem sendEntry_valView (qid : BitVec 16) : (s.sendEntry qid).valView = s.valView := by unfold sendEntry; split <;> simp
@[simp] theorem entryArrives_valView (f : Frame) : (s.entryArrives f).valView = s.valView := by unfold entryArrives; split <;> simp
@[simp] theorem returnCredits_valView : s.returnCredits.valView = s.valView := by simp [returnCredits]

end Sys2Proof.Machine.State
end

section
/-!
R359, part 2: serving, and the rows of a step and of the fabric. Each operation leaves the view alone: along the branches of its
definition, by the laws of the operations that it runs. Each command that runs only such operations keeps R359.
-/
namespace Sys2Proof.Machine.State

variable (s : State)

/-! ### Skimmers and groups -/

@[simp] theorem queryCheck_valView (x : Env) (work : BitVec 16) (b : List Byte) : (s.queryCheck x work b).2.valView = s.valView := by
  simp only [queryCheck]; (repeat' split) <;> simp

@[simp] theorem skmPush_valView (k id : Nat) : (s.skmPush k id).valView = s.valView := by simp [skmPush]

@[simp] theorem queueQuery_valView (d : QueryDesc) (segs : List Segment) (refs : List (BitVec 32)) (units : List Nat)
    (tag : Option (QueueId × Tag)) (group : Option (BitVec 8)) :
    (s.queueQuery d segs refs units tag group).valView = s.valView := by simp [queueQuery]

@[simp] theorem queryAccept_valView (d : QueryDesc) (segs : List Segment) (refs : List (BitVec 32)) (tag : Option (QueueId × Tag))
    (group : Option (BitVec 8)) : (s.queryAccept d segs refs tag group).valView = s.valView := by simp [queryAccept]

@[simp] theorem modQuery_valView (id : Nat) (f : Query → Query) : (s.modQuery id f).valView = s.valView := by simp [modQuery]

@[simp] theorem skmCells_valView (x : Env) (g : Segment) (scales : Bool) (off n : Nat) :
    (s.skmCells x g scales off n).2.valView = s.valView := by fun_cases skmCells <;> simp

@[simp] theorem skmRest_valView (k : Nat) : (s.skmRest k).valView = s.valView := by simp [skmRest]
@[simp] theorem skmStart_valView (k : Nat) : (s.skmStart k).valView = s.valView := by simp only [skmStart]; (repeat' split) <;> simp

@[simp] theorem scanSegment_valView (x : Env) (k : Nat) (d : QueryDesc) (u : Skimmer) (sidx : Nat) (g : Segment) (l : List Nat)
    (p : List ShareRes × State) : (scanSegment x k d u sidx g l p).2.valView = p.2.valView := by
  induction l generalizing p with
  | nil => rfl
  | cons i l ih =>
    obtain ⟨rs, s⟩ := p
    simp only [scanSegment]
    split <;> simp [ih]

@[simp] theorem skmFinish_valView (k : Nat) (x : Env) : (s.skmFinish k x).valView = s.valView := by
  simp only [skmFinish]
  split
  · rfl
  · split
    · simp
    · split
      · rfl
      · simp
        rw [foldl_snd_valView _ (fun p i => by split <;> simp)]
        simp

@[simp] theorem missReport_valView (cls idx : Nat) (work : BitVec 16) (group : BitVec 8) (seq : BitVec 64) (op kind : Nat)
    (cause : Nat × Nat) (deadline done : Nat) :
    (s.missReport cls idx work group seq op kind cause deadline done).valView = s.valView := by simp [missReport]

@[simp] theorem modRequest_valView (g : BitVec 8) (t : Tag) (f : Request → Request) : (s.modRequest g t f).valView = s.valView := by
  simp [modRequest]

@[simp] theorem overdue_valView (g : Group) (r : Request) (i : Nat) (o : ServeOp) (dl : Nat) :
    (s.overdue g r i o dl).valView = s.valView := by simp [overdue]

@[simp] theorem skimOutcome_valView (g : BitVec 8) (id : Nat) (late poisoned : Bool) :
    (s.skimOutcome g id late poisoned).valView = s.valView := by simp [skimOutcome]

@[simp] theorem mergeDone_valView (id : Nat) : (s.mergeDone id).valView = s.valView := by unfold mergeDone; (repeat' split) <;> simp
@[simp] theorem clearGroup_valView (g : Group) : (s.clearGroup g).valView = s.valView := by simp [clearGroup]

@[simp] theorem lateDone_valView (g : BitVec 8) (t : Tag) : (s.lateDone g t).valView = s.valView := by
  unfold lateDone; (repeat' split) <;> simp

@[simp] theorem endRequest_valView (g : BitVec 8) (r : Request) (status : BitVec 8) (detail : Nat) :
    (s.endRequest g r status detail).valView = s.valView := by simp [endRequest]

@[simp] theorem failGroup_valView (g status : BitVec 8) (detail : Nat) : (s.failGroup g status detail).valView = s.valView := by
  fun_cases failGroup <;> simp

@[simp] theorem failWork_valView (work : BitVec 16) (step : Option (BitVec 64)) (detail : Nat) :
    (s.failWork work step detail).valView = s.valView := by simp [failWork]

@[simp] theorem startStream_valView (g : Group) (i : Nat) : (s.startStream g i).valView = s.valView := by
  simp only [startStream]
  rw [foldl_valView _ (fun t c => by simp), foldl_valView _ (fun t p => by split <;> simp)]

@[simp] theorem failOp_valView (g : Group) (r : Request) (status : BitVec 8) (detail : Nat) :
    (s.failOp g r status detail).valView = s.valView := by simp [failOp]

@[simp] theorem startSkim_valView (g : Group) (r : Request) (a : Nat) : (s.startSkim g r a).valView = s.valView := by
  simp only [startSkim]
  split
  · simp
  · split
    · simp
    · split
      · simp
      · split <;>
        · rename_i h
          simp [valView_of_snd h]

@[simp] theorem opStart_valView (g : BitVec 8) : (s.opStart g).valView = s.valView := by unfold opStart; (repeat' split) <;> simp

@[simp] theorem opDone_valView (g : BitVec 8) : (s.opDone g).valView = s.valView := by
  simp only [opDone]
  (repeat' split) <;> simp

@[simp] theorem opOverdue_valView (g : BitVec 8) (i : Nat) : (s.opOverdue g i).valView = s.valView := by fun_cases opOverdue <;> simp
@[simp] theorem almanacReport_valView (e : AlmEntry) : (s.almanacReport e).valView = s.valView := by fun_cases almanacReport <;> simp
@[simp] theorem coreFaulted_valView (c : Nat) : (s.coreFaulted c).valView = s.valView := by fun_cases coreFaulted <;> simp
@[simp] theorem react_valView (s t : State) : (s.react t).valView = t.valView := by simp [react]

/-! ### Scale passes -/

@[simp] theorem spuReject_valView (m code : Nat) (a : Addr) : (s.spuReject m code a).valView = s.valView := by simp [spuReject]

@[simp] theorem spuExecute_valView (m : Nat) (x : Env) : (s.spuExecute m x).2.valView = s.valView := by
  simp only [spuExecute]; (repeat' split) <;> simp

@[simp] theorem spuFinish_valView (m : Nat) : (s.spuFinish m).valView = s.valView := by unfold spuFinish; split <;> simp
@[simp] theorem spuSubmit_valView (m : Nat) (a : Addr) : (s.spuSubmit m a).valView = s.valView := by simp [spuSubmit]

end Sys2Proof.Machine.State

namespace Sys2Proof.Machine

/-! ### Scale passes: the commands -/

@[simp] theorem execSpuSubmit_keepsValLog (m : MemId) (addr : Addr) (s : State) : KeepsValLog s (execSpuSubmit m addr s) := by
  simp [execSpuSubmit]

end Sys2Proof.Machine

namespace Sys2Proof.Machine.State

variable (s : State)

/-! ### Commands of a step -/

@[simp] theorem withJob_valView (q : Nat) (f : Flight) (bound : Bool) (body : Job → State) (hbody : ∀ t, (body t).valView = s.valView) :
    (s.withJob q f bound body).valView = s.valView := by fun_cases withJob <;> simp [hbody]

@[simp] theorem withWork_valView (q : Nat) (f : Flight) (body : BitVec 16 → State) (hbody : ∀ t, (body t).valView = s.valView) :
    (s.withWork q f body).valView = s.valView := by fun_cases withWork <;> simp [hbody]

@[simp] theorem openGrads_valView (j : Job) (n : BitVec 64) : (s.openGrads j n).valView = s.valView :=
  foldl_valView _ (fun t i => by split <;> simp) _ _

@[simp] theorem writeStepLines_valView (j : Job) (n : BitVec 64) : (s.writeStepLines j n).valView = s.valView := by simp [writeStepLines]
@[simp] theorem stepBegin_valView (q : Nat) (f : Flight) (j : Job) : (s.stepBegin q f j).valView = s.valView := by simp [stepBegin]

@[simp] theorem stepSubmitCmd_valView (x : Env) (q : Nat) (f : Flight) : (s.stepSubmitCmd x q f).valView = s.valView := by
  unfold stepSubmitCmd; (repeat' split) <;> simp

@[simp] theorem spuRow_valView (m : Nat) (x : Env) : (s.spuRow m x).valView = s.valView := by
  simp only [spuRow]
  split
  · rfl
  · split <;> rename_i h <;> have hs := valView_of_snd h
    · simp [hs]
    · split <;> simp [hs]
    · simp [hs]

@[simp] theorem sepFollow_valView (m : Nat) (owner : Option (BitVec 16)) (rejected : Bool) :
    (s.sepFollow m owner rejected).valView = s.valView := by unfold sepFollow; split <;> simp

@[simp] theorem goRow_valView (m : Nat) : (s.goRow m).valView = s.valView := by simp [goRow]
@[simp] theorem goWhenReady_valView (m : Nat) : (s.goWhenReady m).valView = s.valView := by fun_cases goWhenReady <;> simp

@[simp] theorem segmentRow_valView (m : Nat) (x : Env) : (s.segmentRow m x).valView = s.valView := by
  simp only [segmentRow]; (repeat' split) <;> simp

@[simp] theorem parkSegment_valView (m coll seg : Nat) : (s.parkSegment m coll seg).valView = s.valView := by
  simp only [parkSegment]; (repeat' split) <;> simp

@[simp] theorem commitRow_valView (job : BitVec 16) : (s.commitRow job).valView = s.valView := by unfold commitRow; (repeat' split) <;> simp

@[simp] theorem exchangeRow_valView (job : BitVec 16) (peers : List PeerDigests) : (s.exchangeRow job peers).valView = s.valView := by
  fun_cases exchangeRow <;> simp

@[simp] theorem placeRow_valView (work : BitVec 16) : (s.placeRow work).valView = s.valView := by unfold placeRow; (repeat' split) <;> simp
@[simp] theorem poisonedDelivery_valView (p : Placed) : (s.poisonedDelivery p).valView = s.valView := by simp [poisonedDelivery]

@[simp] theorem deliverData_valView (e : AlmEntry) (x : Env) : (s.deliverData e x).2.valView = s.valView := by
  simp only [deliverData]; (repeat' split) <;> simp

@[simp] theorem deliverRow_valView (id : Nat) (x : Env) : (s.deliverRow id x).valView = s.valView := by
  simp only [deliverRow]; (repeat' split) <;> simp

@[simp] theorem cancelStepWrite_valView (step : BitVec 64) : (s.cancelStepWrite step).valView = s.valView := by simp [cancelStepWrite]
@[simp] theorem almPeakRead_valView : s.almPeakRead.valView = s.valView := by simp [almPeakRead]
@[simp] theorem parkPeakRead_valView (m : Nat) : (s.parkPeakRead m).valView = s.valView := by simp [parkPeakRead]

end Sys2Proof.Machine.State

namespace Sys2Proof.Machine

/-! ### Commands of a step: the commands -/

@[simp] theorem execScalePassExecute_keepsValLog (m : MemId) (x : Env) (s : State) : KeepsValLog s (execScalePassExecute m x s) := by
  simp [execScalePassExecute]

@[simp] theorem execScalePassDone_keepsValLog (m : MemId) (s : State) : KeepsValLog s (execScalePassDone m s) := by simp [execScalePassDone]

@[simp] theorem execStepSubmit_keepsValLog (t : Tag) (x : Env) (s : State) : KeepsValLog s (execStepSubmit t x s) := by
  fun_cases execStepSubmit <;> simp

@[simp] theorem execSealComplete_keepsValLog (job : BitVec 16) (s : State) : KeepsValLog s (execSealComplete job s) := by
  simp [execSealComplete]

@[simp] theorem execGo_keepsValLog (m : MemId) (s : State) : KeepsValLog s (execGo m s) := by simp [execGo]
@[simp] theorem execAbort_keepsValLog (m : MemId) (s : State) : KeepsValLog s (execAbort m s) := by simp [execAbort]

@[simp] theorem execSepSegment_keepsValLog (m : MemId) (x : Env) (s : State) : KeepsValLog s (execSepSegment m x s) := by
  simp [execSepSegment]

@[simp] theorem execGradientPark_keepsValLog (m : MemId) (coll seg : Nat) (s : State) : KeepsValLog s (execGradientPark m coll seg s) := by
  fun_cases execGradientPark <;> simp

@[simp] theorem execStepCommit_keepsValLog (job : BitVec 16) (s : State) : KeepsValLog s (execStepCommit job s) := by simp [execStepCommit]

@[simp] theorem execDigestExchangeDone_keepsValLog (job : BitVec 16) (peers : List PeerDigests) (s : State) :
    KeepsValLog s (execDigestExchangeDone job peers s) := by simp [execDigestExchangeDone]

@[simp] theorem execAlmanacPlace_keepsValLog (job : BitVec 16) (s : State) : KeepsValLog s (execAlmanacPlace job s) := by
  simp [execAlmanacPlace]

@[simp] theorem execAlmSlotStep_keepsValLog (j : Fin 8) (step : BitVec 64) (s : State) : KeepsValLog s (execAlmSlotStep j step s) := by
  simp [execAlmSlotStep]

@[simp] theorem execAlmanacLaunch_keepsValLog (id : Nat) (s : State) : KeepsValLog s (execAlmanacLaunch id s) := by simp [execAlmanacLaunch]

@[simp] theorem execAlmanacDelivery_keepsValLog (id : Nat) (x : Env) (s : State) : KeepsValLog s (execAlmanacDelivery id x s) := by
  simp [execAlmanacDelivery]

@[simp] theorem execAlmCancelStep_keepsValLog (step : BitVec 64) (s : State) : KeepsValLog s (execAlmCancelStep step s) := by
  simp [execAlmCancelStep]

@[simp] theorem execCancelComplete_keepsValLog (s : State) : KeepsValLog s (execCancelComplete s) := by
  fun_cases execCancelComplete <;> simp

@[simp] theorem execAlmUsedRead_keepsValLog (s : State) : KeepsValLog s (execAlmUsedRead s) := by simp [execAlmUsedRead]

@[simp] theorem execSepParkPeakRead_keepsValLog (m : MemId) (s : State) : KeepsValLog s (execSepParkPeakRead m s) := by
  simp [execSepParkPeakRead]

end Sys2Proof.Machine

namespace Sys2Proof.Machine.State

variable (s : State)

/-! ### Commands of the fabric -/

@[simp] theorem inEpoch_valView (p : Nat) (f : Frame) (act : State → State) (hact : ∀ t, (act t).valView = t.valView) :
    (s.inEpoch p f act).valView = s.valView := by fun_cases inEpoch <;> simp [hact]

@[simp] theorem inEpochOrStale_valView (p : Nat) (f : Frame) (act : State → State) (hact : ∀ t, (act t).valView = t.valView) :
    (s.inEpochOrStale p f act).valView = s.valView := by fun_cases inEpochOrStale <;> simp [hact]

@[simp] theorem control_valView (p : Nat) (op : BitVec 8) (f : Frame) (act : State → State) (hact : ∀ t, (act t).valView = t.valView) :
    (s.control p op f act).valView = s.valView := by simp [control, hact]

@[simp] theorem arriving_valView (p : Nat) (type : BitVec 4) (f : Frame) (act : State → State) (hact : ∀ t, (act t).valView = t.valView) :
    (s.arriving p type f act).valView = s.valView := by simp [arriving, hact]

@[simp] theorem streamCreditIn_valView (f : Frame) : (s.streamCreditIn f).valView = s.valView := by fun_cases streamCreditIn <;> simp
@[simp] theorem collIn_valView (f : Frame) : (s.collIn f).valView = s.valView := by fun_cases collIn <;> simp
@[simp] theorem postIn_valView (f : Frame) : (s.postIn f).valView = s.valView := by simp [postIn]
@[simp] theorem queueCreditIn_valView (f : Frame) : (s.queueCreditIn f).valView = s.valView := by simp [queueCreditIn]

@[simp] theorem collectiveCmd_valView (x : Env) (q : Nat) (f : Flight) : (s.collectiveCmd x q f).valView = s.valView := by
  refine withJob_valView _ _ _ _ _ fun j => ?_
  dsimp only
  (repeat' split) <;> simp

@[simp] theorem reshardCmd_valView (abandon : Bool) (x : Env) (q : Nat) (f : Flight) :
    (s.reshardCmd abandon x q f).valView = s.valView := by simp [reshardCmd]

@[simp] theorem rejoinCmd_valView (q : Nat) (f : Flight) : (s.rejoinCmd q f).valView = s.valView := by
  unfold rejoinCmd; (repeat' split) <;> simp

@[simp] theorem portCmd_valView (q : Nat) (f : Flight) : (s.portCmd q f).valView = s.valView := by simp [portCmd]

end Sys2Proof.Machine.State

namespace Sys2Proof.Machine

/-! ### Commands of the fabric: the commands -/

@[simp] theorem execRetrainTimeout_keepsValLog (p : PortId) (s : State) : KeepsValLog s (execRetrainTimeout p s) := by
  fun_cases execRetrainTimeout <;> simp

@[simp] theorem execCredit_keepsValLog (p : PortId) (f : Frame) (s : State) : KeepsValLog s (execCredit p f s) := by
  refine keepsValLog_next_of_valView ((State.react_valView _ _).trans (State.receive_valView _ _ _ _ _ fun t => ?_))
  split <;> simp

@[simp] theorem execStale_keepsValLog (p : PortId) (f : Frame) (s : State) : KeepsValLog s (execStale p f s) :=
  keepsValLog_next_of_valView (by simp)

@[simp] theorem execRemoved_keepsValLog (p : PortId) (f : Frame) (s : State) : KeepsValLog s (execRemoved p f s) :=
  keepsValLog_next_of_valView (by simp)

@[simp] theorem execQcredit_keepsValLog (p : PortId) (f : Frame) (s : State) : KeepsValLog s (execQcredit p f s) :=
  keepsValLog_next_of_valView (by simp)

@[simp] theorem execData_keepsValLog (p : PortId) (f : Frame) (s : State) : KeepsValLog s (execData p f s) :=
  keepsValLog_next_of_valView (by simp)

@[simp] theorem execPostFrame_keepsValLog (p : PortId) (f : Frame) (s : State) : KeepsValLog s (execPostFrame p f s) :=
  keepsValLog_next_of_valView (by simp)

@[simp] theorem execColl_keepsValLog (p : PortId) (f : Frame) (s : State) : KeepsValLog s (execColl p f s) :=
  keepsValLog_next_of_valView (by simp)

@[simp] theorem execSealFrame_keepsValLog (p : PortId) (f : Frame) (s : State) : KeepsValLog s (execSealFrame p f s) :=
  keepsValLog_next_of_valView (by simp)

@[simp] theorem execMcast_keepsValLog (p : PortId) (f : Frame) (s : State) : KeepsValLog s (execMcast p f s) :=
  keepsValLog_next_of_valView (by simp)

@[simp] theorem execCollective_keepsValLog (t : Tag) (x : Env) (s : State) : KeepsValLog s (execCollective t x s) := by
  fun_cases execCollective <;> simp

@[simp] theorem execCollectiveDone_keepsValLog (id : Nat) (s : State) : KeepsValLog s (execCollectiveDone id s) := by
  simp [execCollectiveDone]

@[simp] theorem execCollTimeout_keepsValLog (id : Nat) (s : State) : KeepsValLog s (execCollTimeout id s) := by simp [execCollTimeout]

@[simp] theorem execReshard_keepsValLog (t : Tag) (x : Env) (s : State) : KeepsValLog s (execReshard t x s) := by
  fun_cases execReshard <;> simp

@[simp] theorem execReshardAbandon_keepsValLog (t : Tag) (x : Env) (s : State) : KeepsValLog s (execReshardAbandon t x s) := by
  fun_cases execReshardAbandon <;> simp

@[simp] theorem execMcHoldExpire_keepsValLog (stream : BitVec 16) (p : PortId) (s : State) :
    KeepsValLog s (execMcHoldExpire stream p s) := by simp [execMcHoldExpire]

@[simp] theorem execMcastRejoin_keepsValLog (t : Tag) (s : State) : KeepsValLog s (execMcastRejoin t s) := by simp [execMcastRejoin]

@[simp] theorem execQueueEntrySend_keepsValLog (qid : BitVec 16) (s : State) : KeepsValLog s (execQueueEntrySend qid s) := by
  simp [execQueueEntrySend]

@[simp] theorem execPortTakeOut_keepsValLog (t : Tag) (s : State) : KeepsValLog s (execPortTakeOut t s) := by
  fun_cases execPortTakeOut <;> simp

@[simp] theorem execPortRetrain_keepsValLog (t : Tag) (s : State) : KeepsValLog s (execPortRetrain t s) := by
  fun_cases execPortRetrain <;> simp

end Sys2Proof.Machine
end

section
/-!
R359, part 2: jobs and fixes. Each operation leaves the view alone: along the branches of its definition, by the laws of the operations
that it runs. Each command that runs only such operations keeps R359.
-/
namespace Sys2Proof.Machine.State

variable (s : State)

/-! ### Jobs and groups -/

@[simp] theorem reserve_valView (m key n : Nat) : (s.reserve m key n).valView = s.valView := by simp [reserve]
@[simp] theorem unreserve_valView (key : Nat) : (s.unreserve key).valView = s.valView := by simp [unreserve]
@[simp] theorem takeSlot_valView (j : Nat) (work : BitVec 16) : (s.takeSlot j work).valView = s.valView := by simp [takeSlot]
@[simp] theorem dropSlot_valView (j : Nat) : (s.dropSlot j).valView = s.valView := by simp [dropSlot]

@[simp] theorem loadSems_valView (c : Nat) (vals : List (BitVec 16)) (classes : List (BitVec 64)) :
    (s.loadSems c vals classes).valView = s.valView := by simp [loadSems]

@[simp] theorem loadStream_valView (b : List Byte) (c : CoreStream) : (s.loadStream b c).valView = s.valView := by simp [loadStream]
@[simp] theorem setClass_valView (c : Nat) (sem : BitVec 6) (code : Nat) : (s.setClass c sem code).valView = s.valView := by simp [setClass]
@[simp] theorem loadQueue_valView (job : BitVec 16) (r : QueueRec) : (s.loadQueue job r).valView = s.valView := by simp [loadQueue]
@[simp] theorem pinObjects_valView (os : List (Nat × Bool)) : (s.pinObjects os).2.valView = s.valView := by simp [pinObjects]

@[simp] theorem placeLists_valView (b : List Byte) (shards : List Shard) : (s.placeLists b shards).valView = s.valView := by
  simp [placeLists]

@[simp] theorem grantStaging_valView (es : List AlmEntry) : (s.grantStaging es).valView = s.valView := by simp [grantStaging]
@[simp] theorem dropStaging_valView (es : List AlmEntry) : (s.dropStaging es).valView = s.valView := by simp [dropStaging]

@[simp] theorem loadJob_valView (q : Nat) (id : BitVec 16) (b : List Byte) (dies : BitVec 22) (slot : Fin 8) :
    (s.loadJob q id b dies slot).valView = s.valView := by simp [loadJob]

@[simp] theorem jobLoadCmd_valView (q : Nat) (f : Flight) : (s.jobLoadCmd q f).valView = s.valView := by
  simp only [jobLoadCmd]; (repeat' split) <;> simp

@[simp] theorem regionCmd_valView (q : Nat) (f : Flight) (rs : Tbl Region) (busy : Bool) (put : Tbl Region → State → State)
    (hput : ∀ t u, (put t u).valView = u.valView) :
    (s.regionCmd q f rs busy put).valView = s.valView := by fun_cases regionCmd <;> simp [hput]

@[simp] theorem jobRegionCmd_valView (q : Nat) (f : Flight) : (s.jobRegionCmd q f).valView = s.valView := by fun_cases jobRegionCmd <;> simp

@[simp] theorem jobStopCmd_valView (q : Nat) (f : Flight) : (s.jobStopCmd q f).valView = s.valView := by
  simp only [jobStopCmd]; (repeat' split) <;> simp

@[simp] theorem unloadJob_valView (j : Job) : (s.unloadJob j).valView = s.valView := by simp [unloadJob]

@[simp] theorem jobUnloadCmd_valView (q : Nat) (f : Flight) : (s.jobUnloadCmd q f).valView = s.valView := by
  unfold jobUnloadCmd; split <;> simp

@[simp] theorem makeGroup_valView (q : Nat) (id : BitVec 8) (im : Image) (dies : BitVec 22) (slot : Fin 8) :
    (s.makeGroup q id im dies slot).valView = s.valView := by
  simp only [makeGroup, valView_mk, grantStaging_valView, takeSlot_valView]
  rw [foldl_valView _ (fun t r => by split <;> simp), foldl_valView _ (fun t r => by split <;> simp), pinObjects_valView]

@[simp] theorem groupCreateCmd_valView (q : Nat) (f : Flight) : (s.groupCreateCmd q f).valView = s.valView := by
  fun_cases groupCreateCmd <;> simp

@[simp] theorem groupDestroyCmd_valView (q : Nat) (f : Flight) : (s.groupDestroyCmd q f).valView = s.valView := by
  unfold groupDestroyCmd; split <;> simp

@[simp] theorem runCmdAgain_valView (t : Tag) (opc : Nat) (body : State → Nat → Flight → State)
    (hbody : ∀ u v w, (body u v w).valView = u.valView) :
    (s.runCmdAgain t opc body).valView = s.valView := by fun_cases runCmdAgain <;> simp [hbody]

end Sys2Proof.Machine.State

namespace Sys2Proof.Machine

/-! ### Jobs and groups: the commands -/

@[simp] theorem execJobLoad_keepsValLog (t : Tag) (x : Env) (s : State) : KeepsValLog s (execJobLoad t x s) := by simp [execJobLoad]
@[simp] theorem execJobRegion_keepsValLog (t : Tag) (s : State) : KeepsValLog s (execJobRegion t s) := by simp [execJobRegion]
@[simp] theorem execJobStop_keepsValLog (t : Tag) (s : State) : KeepsValLog s (execJobStop t s) := by simp [execJobStop]
@[simp] theorem execJobUnload_keepsValLog (t : Tag) (s : State) : KeepsValLog s (execJobUnload t s) := by simp [execJobUnload]
@[simp] theorem execGroupCreate_keepsValLog (t : Tag) (s : State) : KeepsValLog s (execGroupCreate t s) := by simp [execGroupCreate]
@[simp] theorem execGroupDestroy_keepsValLog (t : Tag) (s : State) : KeepsValLog s (execGroupDestroy t s) := by simp [execGroupDestroy]

end Sys2Proof.Machine

namespace Sys2Proof.Machine.State

variable (s : State)

/-! ### Fixes, and what reads and writes state for the host -/

@[simp] theorem arrayCells_valView (x : Env) (d : UpdDesc) (base n : Nat) : (s.arrayCells x d base n).2.valView = s.valView := by
  fun_cases arrayCells <;> simp

@[simp] theorem gather_valView {α : Type*} (f : State → α → List Cell × State) (l : List α) (s : State)
    (hf : ∀ t a, (f t a).2.valView = t.valView) : (gather f l s).2.valView = s.valView := by
  induction l generalizing s with
  | nil => rfl
  | cons a l ih => simp [gather, ih, hf]

@[simp] theorem shardExport_valView (x : Env) (j : Job) (sh : Shard) (grad : Bool) : (s.shardExport x j sh grad).2.valView = s.valView := by
  simp only [shardExport]
  exact gather_valView _ _ _ fun t d => by simp

@[simp] theorem exportCmd_valView (x : Env) (q : Nat) (f : Flight) : (s.exportCmd x q f).valView = s.valView := by
  refine withJob_valView _ _ _ _ _ fun j => ?_
  dsimp only
  (repeat' split) <;> simp

@[simp] theorem spoilExport_valView (f : Flight) : (s.spoilExport f).valView = s.valView := by fun_cases spoilExport <;> simp

@[simp] theorem copyCells_valView (x : Env) (j : Job) (second : Bool) (d : UpdDesc) : (s.copyCells x j second d).2.valView = s.valView := by
  unfold copyCells; split <;> simp

@[simp] theorem fixCells_valView (x : Env) (j : Job) : (s.fixCells x j).2.valView = s.valView := by
  simp only [fixCells]
  exact gather_valView _ _ _ fun t sh => by simp

@[simp] theorem objNewBytes_valView (oid off : Nat) (cs : List Cell) : (s.objNewBytes oid off cs).valView = s.valView := by
  simp only [objNewBytes]; (repeat' split) <;> simp

@[simp] theorem putArray_valView (d : UpdDesc) (base : Nat) (cs : List Cell) : (s.putArray d base cs).valView = s.valView := by
  simp [putArray]

@[simp] theorem flashBegin_valView (spans : List (Nat × Nat)) : (s.flashBegin spans).2.valView = s.valView := by simp [flashBegin]

@[simp] theorem repairCells_valView (x : Env) (j : Job) (sh : Shard) : (s.repairCells x j sh).2.valView = s.valView :=
  gather_valView _ _ _ fun t d => by simp

@[simp] theorem adoptShard_valView (j : Job) (sh : Shard) (digest : BitVec 64) (t : Tbl Cell) :
    (s.adoptShard j sh digest t).valView = s.valView := by
  simp only [adoptShard, modShard_valView]
  refine foldl_snd_valView _ (fun p d => ?_) _ _
  rw [foldl_snd_valView _ (fun p b => by split <;> simp), foldl_snd_valView _ (fun p a => by simp)]

@[simp] theorem openRepair_valView (x : Env) (j : Job) (peers : List PeerDigests) (tag : Option (QueueId × Tag)) (i : Nat) (sh : Shard)
    (root : BitVec 12) : (s.openRepair x j peers tag i sh root).2.valView = s.valView := by simp only [openRepair]; (repeat' split) <;> simp

@[simp] theorem openRepairs_valView (x : Env) (j : Job) (peers : List PeerDigests) (list : List Byte) (tag : Option (QueueId × Tag)) :
    (s.openRepairs x j peers list tag).valView = s.valView := by simp [openRepairs]

@[simp] theorem repairShards_valView (j : Job) (rs : List Repair) (list : List Byte) : (s.repairShards j rs list).valView = s.valView := by
  simp [repairShards]

@[simp] theorem spoilFix_valView (f : Flight) : (s.spoilFix f).valView = s.valView := by unfold spoilFix; split <;> simp

@[simp] theorem refuseFix_valView (q : Nat) (f : Flight) (j : Job) (status : BitVec 8) (detail : Nat) :
    (s.refuseFix q f j status detail).valView = s.valView := by simp [refuseFix]

@[simp] theorem writeFix_valView (q : Nat) (f : Flight) (j : Job) (cs : List Cell) : (s.writeFix q f j cs).valView = s.valView := by
  simp [writeFix]

@[simp] theorem fixGoOn_valView (x : Env) (q : Nat) (f : Flight) (job : BitVec 16) (list : List Byte) :
    (s.fixGoOn x q f job list).valView = s.valView := by simp only [fixGoOn]; (repeat' split) <;> simp

@[simp] theorem fixCompare_valView (peers : List PeerDigests) (x : Env) (q : Nat) (f : Flight) (j : Job) (list : List Byte) :
    (s.fixCompare peers x q f j list).valView = s.valView := by simp only [fixCompare]; (repeat' split) <;> simp

@[simp] theorem fixCmd_valView (peers : List PeerDigests) (x : Env) (q : Nat) (f : Flight) :
    (s.fixCmd peers x q f).valView = s.valView := by
  refine withJob_valView _ _ _ _ _ fun j => ?_
  dsimp only
  (repeat' split) <;> simp

@[simp] theorem fixSource_valView (x : Env) (j : Job) (f : Flight) (n : Nat) : (s.fixSource x j f n).2.valView = s.valView := by
  fun_cases fixSource <;> simp

@[simp] theorem restoreDesc_valView (j : Job) (b : List Byte) (o : Nat) (d : UpdDesc) : (s.restoreDesc j b o d).valView = s.valView := by
  simp [restoreDesc]

@[simp] theorem restoreCopies_valView (j : Job) (b : List Byte) (n : Nat) (l : List UpdDesc) :
    (s.restoreCopies j b n l).valView = s.valView := by
  induction l generalizing s n with
  | nil => rfl
  | cons d l ih => simp [restoreCopies, ih]

@[simp] theorem restoreJob_valView (j : Job) (b : List Byte) : (s.restoreJob j b).valView = s.valView := by
  simp only [restoreJob, modJob_valView]
  refine foldl_valView _ (fun t sh => ?_) _ _
  split <;> simp

@[simp] theorem restoreCmd_valView (x : Env) (q : Nat) (f : Flight) : (s.restoreCmd x q f).valView = s.valView := by
  refine withJob_valView _ _ _ _ _ fun j => ?_
  dsimp only
  (repeat' split) <;> simp

@[simp] theorem spoilDma_valView (f : Flight) : (s.spoilDma f).valView = s.valView := by simp [spoilDma]

@[simp] theorem dmaCmd_valView (x : Env) (q : Nat) (f : Flight) : (s.dmaCmd x q f).valView = s.valView := by
  refine withWork_valView _ _ _ _ fun j => ?_
  dsimp only
  (repeat' split) <;> simp

@[simp] theorem fenceCmd_valView (q : Nat) (f : Flight) : (s.fenceCmd q f).valView = s.valView := by simp [fenceCmd]

end Sys2Proof.Machine.State

namespace Sys2Proof.Machine

/-! ### Fixes, and what reads and writes state for the host: the commands -/

@[simp] theorem execFence_keepsValLog (t : Tag) (s : State) : KeepsValLog s (execFence t s) := by fun_cases execFence <;> simp
@[simp] theorem execDma_keepsValLog (t : Tag) (x : Env) (s : State) : KeepsValLog s (execDma t x s) := by simp [execDma]

@[simp] theorem execFix_keepsValLog (t : Tag) (peers : List PeerDigests) (x : Env) (s : State) : KeepsValLog s (execFix t peers x s) := by
  simp [execFix]

@[simp] theorem execRestore_keepsValLog (t : Tag) (x : Env) (s : State) : KeepsValLog s (execRestore t x s) := by
  fun_cases execRestore <;> simp

@[simp] theorem execExportState_keepsValLog (t : Tag) (x : Env) (s : State) : KeepsValLog s (execExportState t x s) := by
  fun_cases execExportState <;> simp

end Sys2Proof.Machine
end

section
/-!
R359, part 2: Helm, attestation and start-up. Each operation leaves the view alone: along the branches of its definition, by the laws of
the operations that it runs. Each command that runs only such operations keeps R359.
-/
namespace Sys2Proof.Machine.State

variable (s : State)

/-! ### Helm -/

@[simp] theorem helmEvent_valView (code : Nat) (host : Bool) (payload : List Byte) :
    (s.helmEvent code host payload).valView = s.valView := by simp [helmEvent]

@[simp] theorem startChange_valView (d : Nat) (t : BitVec 4) : (s.startChange d t).valView = s.valView :=
  modDie_valView _ _ _ fun c => by split <;> rfl

@[simp] theorem requestPoint_valView (d : Nat) (t : BitVec 4) : (s.requestPoint d t).valView = s.valView := by
  fun_cases requestPoint <;> simp

@[simp] theorem nextChange_valView (d : Nat) : (s.nextChange d).valView = s.valView := by fun_cases nextChange <;> simp
@[simp] theorem setLimits_valView : s.setLimits.valView = s.valView := by simp [setLimits]
@[simp] theorem alertDies_valView : s.alertDies.valView = s.valView := by simp [alertDies, valView, Function.comp_def]
@[simp] theorem alertRecord_valView (on : Bool) : (s.alertRecord on).valView = s.valView := by simp [alertRecord]
@[simp] theorem alertEdge_valView (on : Bool) : (s.alertEdge on).valView = s.valView := by simp [alertEdge]
@[simp] theorem helmStarts_valView : s.helmStarts.valView = s.valView := by simp [helmStarts]
@[simp] theorem alertOn_valView : s.alertOn.valView = s.valView := by simp [alertOn]
@[simp] theorem alertOff_valView : s.alertOff.valView = s.valView := by simp [alertOff]
@[simp] theorem alertInput_valView (f : Power → Power) : (s.alertInput f).valView = s.valView := by simp [alertInput]
@[simp] theorem returnNext_valView : s.returnNext.valView = s.valView := by unfold returnNext; (repeat' split) <;> simp
@[simp] theorem takeTable_valView : s.takeTable.valView = s.valView := by simp [takeTable]
@[simp] theorem helmDecide_valView : s.helmDecide.valView = s.valView := by simp [helmDecide]
@[simp] theorem pushFine_valView : s.pushFine.valView = s.valView := by simp [pushFine]
@[simp] theorem helmTakes_valView (r : PowerReading) : (s.helmTakes r).valView = s.valView := by simp [helmTakes]
@[simp] theorem learn_valView (d : Nat) : (s.learn d).valView = s.valView := by fun_cases learn <;> simp

@[simp] theorem shortRecord_valView (p : Nat) (f : Shortfall) (ends : Bool) : (s.shortRecord p f ends).valView = s.valView := by
  simp [shortRecord]

@[simp] theorem windowPhase_valView (p : Nat) : (s.windowPhase p).valView = s.valView := by simp [windowPhase]
@[simp] theorem helmWindowEnds_valView : s.helmWindowEnds.valView = s.valView := by simp [helmWindowEnds]

@[simp] theorem thermalPart_valView (t : Temperatures) (s : State) (ik : Nat × Nat) : (thermalPart t s ik).valView = s.valView := by
  simp [thermalPart]

@[simp] theorem thermalDie_valView (t : Temperatures) (s : State) (d : Nat) : (thermalDie t s d).valView = s.valView := by simp [thermalDie]
@[simp] theorem thermalRead_valView (t : Temperatures) : (s.thermalRead t).valView = s.valView := by simp [thermalRead]
@[simp] theorem droopBegins_valView (d : Nat) : (s.droopBegins d).valView = s.valView := by simp [droopBegins]
@[simp] theorem droopEnds_valView (d : Nat) : (s.droopEnds d).valView = s.valView := by simp [droopEnds]
@[simp] theorem slewDone_valView (d : Nat) : (s.slewDone d).valView = s.valView := by fun_cases slewDone <;> simp
@[simp] theorem relocked_valView (d : Nat) : (s.relocked d).valView = s.valView := by fun_cases relocked <;> simp

end Sys2Proof.Machine.State

namespace Sys2Proof.Machine

/-! ### Helm: the commands -/

@[simp] theorem execHelmSample_keepsValLog (r : PowerReading) (s : State) : KeepsValLog s (execHelmSample r s) := by simp [execHelmSample]
@[simp] theorem execHelmDecision_keepsValLog (s : State) : KeepsValLog s (execHelmDecision s) := by simp [execHelmDecision]
@[simp] theorem execHelmWindow_keepsValLog (s : State) : KeepsValLog s (execHelmWindow s) := by simp [execHelmWindow]

@[simp] theorem execThermalCheck_keepsValLog (t : Temperatures) (s : State) : KeepsValLog s (execThermalCheck t s) := by
  simp [execThermalCheck]

@[simp] theorem execDroop_keepsValLog (d : DieId) (s : State) : KeepsValLog s (execDroop d s) := by simp [execDroop]
@[simp] theorem execDroopEnd_keepsValLog (d : DieId) (s : State) : KeepsValLog s (execDroopEnd d s) := by simp [execDroopEnd]

@[simp] theorem execVoltageSlewDone_keepsValLog (d : DieId) (s : State) : KeepsValLog s (execVoltageSlewDone d s) := by
  simp [execVoltageSlewDone]

@[simp] theorem execRelockDone_keepsValLog (d : DieId) (s : State) : KeepsValLog s (execRelockDone d s) := by simp [execRelockDone]
@[simp] theorem execPwrAlertAssert_keepsValLog (s : State) : KeepsValLog s (execPwrAlertAssert s) := by simp [execPwrAlertAssert]
@[simp] theorem execPwrAlertDeassert_keepsValLog (s : State) : KeepsValLog s (execPwrAlertDeassert s) := by simp [execPwrAlertDeassert]

@[simp] theorem execUndervoltageAlert_keepsValLog (s : State) : KeepsValLog s (execUndervoltageAlert s) := by
  fun_cases execUndervoltageAlert <;> simp

@[simp] theorem execUndervoltageClear_keepsValLog (s : State) : KeepsValLog s (execUndervoltageClear s) := by simp [execUndervoltageClear]
@[simp] theorem execAlertRecovery_keepsValLog (s : State) : KeepsValLog s (execAlertRecovery s) := by fun_cases execAlertRecovery <;> simp

end Sys2Proof.Machine

namespace Sys2Proof.Machine.State

variable (s : State)

/-! ### Measurements and certificates -/

@[simp] theorem setMeas_valView (i : Nat) (b : List Byte) : (s.setMeas i b).valView = s.valView := by simp [setMeas]
@[simp] theorem measureOwner_valView : s.measureOwner.valView = s.valView := by simp [measureOwner]
@[simp] theorem measureVersion_valView : s.measureVersion.valView = s.valView := by simp [measureVersion]
@[simp] theorem measureImage_valView (i : FwImage) : (s.measureImage i).valView = s.valView := by simp [measureImage]
@[simp] theorem deriveAlias_valView : s.deriveAlias.valView = s.valView := by simp [deriveAlias]
@[simp] theorem placeCert_valView : s.placeCert.valView = s.valView := by simp [placeCert]
@[simp] theorem signed_valView : s.signed.valView = s.valView := by simp [signed]
@[simp] theorem endSessions_valView : s.endSessions.valView = s.valView := by simp [endSessions]
@[simp] theorem ideInsecure_valView : s.ideInsecure.valView = s.valView := by simp [ideInsecure]

/-! ### Start-up, up to where it goes on or resets -/

@[simp] theorem configureIc_valView : s.configureIc.valView = s.valView := by simp [configureIc]

@[simp] theorem setLadder_valView (step : Nat) (u : UnitId) (consec floor : BitVec 8) :
    (s.setLadder step u consec floor).valView = s.valView := by simp [setLadder]

@[simp] theorem journal_valView (r : LogRec) : (s.journal r).valView = s.valView := by simp [journal]

@[simp] theorem outcome_valView (step : Nat) (u : UnitId) (rung result cause : Nat) (detail : BitVec 128) :
    (s.outcome step u rung result cause detail).valView = s.valView := by simp [outcome]

@[simp] theorem intent_valView (step : Nat) (u : UnitId) (rung : Nat) : (s.intent step u rung).valView = s.valView := by simp [intent]
@[simp] theorem leaveOut_valView (step : Nat) (u : UnitId) : (s.leaveOut step u).valView = s.valView := by simp [leaveOut]
@[simp] theorem retryPort_valView (p : Nat) (bank : Bool) : (s.retryPort p bank).valView = s.valView := by simp [retryPort]
@[simp] theorem slowDie_valView (u : UnitId) : (s.slowDie u).valView = s.valView := by simp [slowDie]
@[simp] theorem prepare_valView (step : Nat) (s : State) (u : UnitId) : (prepare step s u).valView = s.valView := by simp [prepare]
@[simp] theorem romReads_valView : s.romReads.valView = s.valView := by simp [romReads]
@[simp] theorem stepOpens_valView (step : Nat) : (s.stepOpens step).valView = s.valView := by unfold stepOpens; split <;> simp
@[simp] theorem stepBegins_valView (step : Nat) : (s.stepBegins step).valView = s.valView := by simp [stepBegins]
@[simp] theorem burnRevokes_valView : s.burnRevokes.valView = s.valView := by simp [burnRevokes]
@[simp] theorem becomeReady_valView : s.becomeReady.valView = s.valView := by simp [becomeReady]
@[simp] theorem stepCloses_valView (step : Nat) : (s.stepCloses step).valView = s.valView := by fun_cases stepCloses <;> simp
@[simp] theorem romStarts_valView : s.romStarts.valView = s.valView := by simp [romStarts]
@[simp] theorem firmwareStarts_valView (rung : Nat) : (s.firmwareStarts rung).valView = s.valView := by simp [firmwareStarts]
@[simp] theorem clearPads_valView (d : Nat) : (s.clearPads d).valView = s.valView := by simp [clearPads]
@[simp] theorem countFree_valView (f : Nat) : (s.countFree f).valView = s.valView := by simp [countFree]
@[simp] theorem alertStands_valView : s.alertStands.valView = s.valView := by simp [alertStands]
@[simp] theorem railsOn_valView : s.railsOn.valView = s.valView := by simp [railsOn]

@[simp] theorem unitStarts_valView (step : Nat) (u : UnitId) (rung : Nat) : (s.unitStarts step u rung).valView = s.valView := by
  unfold unitStarts; split <;> simp

@[simp] theorem dropTags_valView : s.dropTags.valView = s.valView := by simp [dropTags]
@[simp] theorem coreKill_valView (c : Nat) : (s.coreKill c).valView = s.valView := by simp [coreKill]

@[simp] theorem killJob_valView (j : Job) : (s.killJob j).valView = s.valView := by
  simp only [killJob, unloadJob_valView, cancelDone_valView, modFab_valView]
  rw [foldl_valView _ (fun t p => by simp), cancelEntries_valView, foldl_valView _ (fun t p => by simp),
    foldl_valView _ (fun t m => by split <;> simp), foldl_valView _ (fun t c => by simp)]

@[simp] theorem killGroup_valView (g : Group) : (s.killGroup g).valView = s.valView := by simp [killGroup]
@[simp] theorem killQueries_valView : s.killQueries.valView = s.valView := by simp [killQueries]
@[simp] theorem functionRegs_valView : s.functionRegs.valView = s.valView := by simp [functionRegs]
@[simp] theorem functionReset_valView : s.functionReset.valView = s.valView := by simp [functionReset]
@[simp] theorem fatal_valView (code : Nat) : (s.fatal code).valView = s.valView := by simp [fatal]

end Sys2Proof.Machine.State

namespace Sys2Proof.Machine

/-! ### Start-up, up to where it goes on or resets: the commands -/

@[simp] theorem execPcieLinkChange_keepsValLog (up : Bool) (width rate : BitVec 8) (s : State) :
    KeepsValLog s (execPcieLinkChange up width rate s) := by simp only [execPcieLinkChange]; (repeat' split) <;> simp

@[simp] theorem execFunctionLevelReset_keepsValLog (s : State) : KeepsValLog s (execFunctionLevelReset s) := by
  simp [execFunctionLevelReset]

@[simp] theorem execDeviceFatal_keepsValLog (code : BitVec 16) (s : State) : KeepsValLog s (execDeviceFatal code s) := by
  fun_cases execDeviceFatal <;> simp

end Sys2Proof.Machine
end

section
/-!
R359, part 2: the commands of a core. Each operation leaves the view alone: along the branches of its definition, by the laws of the
operations that it runs. Each command that runs only such operations keeps R359.
-/
namespace Sys2Proof.Machine.State

variable (s : State)

/-! ### Operations and their ends -/

@[simp] theorem issueJump_valView (c : Nat) (target : BitVec 19) : (s.issueJump c target).valView = s.valView := by simp [issueJump]

@[simp] theorem issueWait_valView (c seq pc : Nat) (bar : Bool) (sem : BitVec 6) (count : BitVec 16) :
    (s.issueWait c seq pc bar sem count).valView = s.valView := by simp [issueWait]

@[simp] theorem moveCycle_valView (c : Nat) : (s.moveCycle c).valView = s.valView := by unfold moveCycle; split <;> simp

@[simp] theorem moveRow_valView (c i : Nat) (x : Env) : (s.moveRow c i x).valView = s.valView := by
  fun_cases moveRow with
  | case1 => rfl
  | case2 _ t h => simp [valView_of_snd h]
  | case3 _ t h => simp [valView_of_snd h]
  | case4 _ t h => simp [valView_of_snd h]
  | case5 _ t h => simp [valView_of_snd h]

@[simp] theorem race_valView (c : Nat) (ev : State → State) (hev : ∀ t, (ev t).valView = t.valView) :
    (s.race c ev).valView = s.valView := by fun_cases race <;> simp [hev]

@[simp] theorem waitMet_valView (c : Nat) : (s.waitMet c).valView = s.valView := by fun_cases waitMet <;> simp
@[simp] theorem staggerEnds_valView (c : Nat) : (s.staggerEnds c).valView = s.valView := by fun_cases staggerEnds <;> simp
@[simp] theorem waitTooLong_valView (c : Nat) : (s.waitTooLong c).valView = s.valView := by fun_cases waitTooLong <;> simp
@[simp] theorem levelStep_valView (c : Nat) : (s.levelStep c).valView = s.valView := by simp [levelStep]
@[simp] theorem grant_valView (c : Nat) (x : Env) : (s.grant c x).valView = s.valView := by simp only [grant]; (repeat' split) <;> simp
@[simp] theorem busyWraps_valView (c : Nat) : (s.busyWraps c).valView = s.valView := by simp [busyWraps]

end Sys2Proof.Machine.State

namespace Sys2Proof.Machine

/-! ### Operations and their ends: the commands -/

@[simp] theorem execOperationFetch_keepsValLog (c : CoreId) (x : Env) (s : State) : KeepsValLog s (execOperationFetch c x s) := by
  simp [execOperationFetch]

@[simp] theorem execNop_keepsValLog (c : CoreId) (s : State) : KeepsValLog s (execNop c s) := by simp [execNop]
@[simp] theorem execEndOp_keepsValLog (c : CoreId) (s : State) : KeepsValLog s (execEndOp c s) := by simp [execEndOp]
@[simp] theorem execSync_keepsValLog (c : CoreId) (s : State) : KeepsValLog s (execSync c s) := by simp [execSync]

@[simp] theorem execJump_keepsValLog (c : CoreId) (s : State) : KeepsValLog s (execJump c s) :=
  keepsValLog_next_of_valView ((State.react_valView _ _).trans (State.coreIssue_valView _ _ _ _ fun t i pc op => by cases op <;> simp))

@[simp] theorem execPhase_keepsValLog (c : CoreId) (s : State) : KeepsValLog s (execPhase c s) := by simp [execPhase]

@[simp] theorem execWait_keepsValLog (c : CoreId) (s : State) : KeepsValLog s (execWait c s) :=
  keepsValLog_next_of_valView ((State.react_valView _ _).trans (State.coreIssue_valView _ _ _ _ fun t i pc op => by cases op <;> simp))

@[simp] theorem execPost_keepsValLog (c : CoreId) (s : State) : KeepsValLog s (execPost c s) := by simp [execPost]

@[simp] theorem execLds_keepsValLog (c : CoreId) (s : State) : KeepsValLog s (execLds c s) :=
  keepsValLog_next_of_valView ((State.react_valView _ _).trans (State.coreIssue_valView _ _ _ _ fun t i pc op => by cases op <;> simp))

@[simp] theorem execAccld_keepsValLog (c : CoreId) (s : State) : KeepsValLog s (execAccld c s) :=
  keepsValLog_next_of_valView ((State.react_valView _ _).trans (State.coreIssue_valView _ _ _ _ fun t i pc op => by cases op <;> simp))

@[simp] theorem execAnch_keepsValLog (c : CoreId) (s : State) : KeepsValLog s (execAnch c s) :=
  keepsValLog_next_of_valView ((State.react_valView _ _).trans (State.coreIssue_valView _ _ _ _ fun t i pc op => by cases op <;> simp))

@[simp] theorem execPass_keepsValLog (c : CoreId) (s : State) : KeepsValLog s (execPass c s) :=
  keepsValLog_next_of_valView ((State.react_valView _ _).trans (State.coreIssue_valView _ _ _ _ fun t i pc op => by cases op <;> simp))

@[simp] theorem execDrain_keepsValLog (c : CoreId) (s : State) : KeepsValLog s (execDrain c s) :=
  keepsValLog_next_of_valView ((State.react_valView _ _).trans (State.coreIssue_valView _ _ _ _ fun t i pc op => by cases op <;> simp))

@[simp] theorem execQuant_keepsValLog (c : CoreId) (s : State) : KeepsValLog s (execQuant c s) :=
  keepsValLog_next_of_valView ((State.react_valView _ _).trans (State.coreIssue_valView _ _ _ _ fun t i pc op => by cases op <;> simp))

@[simp] theorem execMove_keepsValLog (c : CoreId) (s : State) : KeepsValLog s (execMove c s) :=
  keepsValLog_next_of_valView ((State.react_valView _ _).trans (State.coreIssue_valView _ _ _ _ fun t i pc op => by cases op <;> simp))

@[simp] theorem execLdsLastRow_keepsValLog (c : CoreId) (x : Env) (s : State) : KeepsValLog s (execLdsLastRow c x s) := by
  simp [execLdsLastRow]

@[simp] theorem execAccldLastLine_keepsValLog (c : CoreId) (x : Env) (s : State) : KeepsValLog s (execAccldLastLine c x s) := by
  simp [execAccldLastLine]

@[simp] theorem execAnchPlaced_keepsValLog (c : CoreId) (x : Env) (s : State) : KeepsValLog s (execAnchPlaced c x s) := by
  simp [execAnchPlaced]

@[simp] theorem execContributionLands_keepsValLog (c : CoreId) (s : State) : KeepsValLog s (execContributionLands c s) := by
  simp [execContributionLands]

@[simp] theorem execDrainCapture_keepsValLog (c : CoreId) (s : State) : KeepsValLog s (execDrainCapture c s) := by simp [execDrainCapture]

@[simp] theorem execDrainStreamDone_keepsValLog (c : CoreId) (s : State) : KeepsValLog s (execDrainStreamDone c s) := by
  simp [execDrainStreamDone]

@[simp] theorem execQuantDone_keepsValLog (c : CoreId) (x : Env) (s : State) : KeepsValLog s (execQuantDone c x s) := by
  simp [execQuantDone]

@[simp] theorem execMoveVisible_keepsValLog (c : CoreId) (i : Fin 16) (x : Env) (s : State) : KeepsValLog s (execMoveVisible c i x s) := by
  simp [execMoveVisible]

@[simp] theorem execMeshRefusal_keepsValLog (c : CoreId) (i : Fin 16) (s : State) : KeepsValLog s (execMeshRefusal c i s) := by
  simp [execMeshRefusal]

@[simp] theorem execLevelBoundary_keepsValLog (c : CoreId) (s : State) : KeepsValLog s (execLevelBoundary c s) := by
  simp [execLevelBoundary]

@[simp] theorem execStepGrant_keepsValLog (c : CoreId) (x : Env) (s : State) : KeepsValLog s (execStepGrant c x s) := by
  simp [execStepGrant]

@[simp] theorem execWaitSatisfied_keepsValLog (c : CoreId) (s : State) : KeepsValLog s (execWaitSatisfied c s) := by
  simp [execWaitSatisfied]

@[simp] theorem execStaggerRelease_keepsValLog (c : CoreId) (s : State) : KeepsValLog s (execStaggerRelease c s) := by
  simp [execStaggerRelease]

@[simp] theorem execWaitTimeout_keepsValLog (c : CoreId) (s : State) : KeepsValLog s (execWaitTimeout c s) := by simp [execWaitTimeout]
@[simp] theorem execHaltReq_keepsValLog (c : CoreId) (s : State) : KeepsValLog s (execHaltReq c s) := by simp [execHaltReq]
@[simp] theorem execClear_keepsValLog (c : CoreId) (s : State) : KeepsValLog s (execClear c s) := by simp [execClear]
@[simp] theorem execStart_keepsValLog (c : CoreId) (s : State) : KeepsValLog s (execStart c s) := by simp [execStart]
@[simp] theorem execCoreBusyWrap_keepsValLog (c : CoreId) (s : State) : KeepsValLog s (execCoreBusyWrap c s) := by simp [execCoreBusyWrap]

@[simp] theorem execRemotePostDelivery_keepsValLog (i : Nat) (s : State) : KeepsValLog s (execRemotePostDelivery i s) := by
  simp [execRemotePostDelivery]

end Sys2Proof.Machine
end

section
/-!
R359, part 2: secrecy, edges, the device and its interrupts. Each operation leaves the view alone: along the branches of its definition,
by the laws of the operations that it runs. Each command that runs only such operations keeps R359.
-/
namespace Sys2Proof.Machine.State

variable (s : State)

/-! ### Ownership up to its effects, SPDM and the sideband -/

@[simp] theorem blockAnswer_valView (st : BitVec 8) (d : Nat) : (s.blockAnswer st d).valView = s.valView := by simp [blockAnswer]
@[simp] theorem endChange_valView : s.endChange.valView = s.valView := by simp [endChange]

@[simp] theorem failChange_valView (c : OwnerChange) (st : BitVec 8) (d : Nat) : (s.failChange c st d).valView = s.valView := by
  fun_cases failChange <;> simp

@[simp] theorem dropChange_valView (q : Nat) (f : Flight) : (s.dropChange q f).valView = s.valView := by simp [dropChange]
@[simp] theorem mctpIn_valView : s.mctpIn.valView = s.valView := by simp [mctpIn]
@[simp] theorem spdmIn_valView (ch : SpdmChan) : (s.spdmIn ch).valView = s.valView := by fun_cases spdmIn <;> simp

@[simp] theorem spdmError_valView (ch : SpdmChan) (code : Nat) (request : BitVec 8) :
    (s.spdmError ch code request).valView = s.valView := by simp [spdmError]

@[simp] theorem spdmAnswer_valView (ch : SpdmChan) (settled : Bool) (body : State → State) (hbody : ∀ t, (body t).valView = t.valView) :
    (s.spdmAnswer ch settled body).valView = s.valView := by
  unfold spdmAnswer
  (repeat' split) <;> simp [hbody]

@[simp] theorem inSession_valView (ch : SpdmChan) (reqId : BitVec 16) (body : State → State) (hbody : ∀ t, (body t).valView = t.valView) :
    (s.inSession ch reqId body).valView = s.valView := by simp [inSession, hbody]

@[simp] theorem modSession_valView (ch : SpdmChan) (reqId : BitVec 16) (f : SpdmSession → SpdmSession) :
    (s.modSession ch reqId f).valView = s.valView := by simp [modSession]

@[simp] theorem dropSession_valView (ch : SpdmChan) (reqId : BitVec 16) : (s.dropSession ch reqId).valView = s.valView := by
  simp [dropSession]

@[simp] theorem modIde_valView (sel : Bool) (f : IdeStream → IdeStream) : (s.modIde sel f).valView = s.valView := by
  unfold modIde; split <;> simp

@[simp] theorem ideKm_valView (km : IdeKm) : (s.ideKm km).valView = s.valView := by fun_cases ideKm <;> simp

end Sys2Proof.Machine.State

namespace Sys2Proof.Machine

/-! ### Ownership up to its effects, SPDM and the sideband: the commands -/

@[simp] theorem execGetVersion_keepsValLog (ch : SpdmChan) (s : State) : KeepsValLog s (execGetVersion ch s) :=
  keepsValLog_next_of_valView (by simp)

@[simp] theorem execGetCapabilities_keepsValLog (ch : SpdmChan) (s : State) : KeepsValLog s (execGetCapabilities ch s) := by
  simp [execGetCapabilities]

@[simp] theorem execNegotiateAlgorithms_keepsValLog (ch : SpdmChan) (offersSuite : Bool) (s : State) :
    KeepsValLog s (execNegotiateAlgorithms ch offersSuite s) := keepsValLog_next_of_valView (by simp)

@[simp] theorem execGetDigests_keepsValLog (ch : SpdmChan) (s : State) : KeepsValLog s (execGetDigests ch s) := by simp [execGetDigests]

@[simp] theorem execGetCertificate_keepsValLog (ch : SpdmChan) (slot : BitVec 8) (s : State) :
    KeepsValLog s (execGetCertificate ch slot s) := by simp [execGetCertificate]

@[simp] theorem execChallenge_keepsValLog (ch : SpdmChan) (slot : BitVec 8) (nonce : BitVec 256) (s : State) :
    KeepsValLog s (execChallenge ch slot nonce s) := by simp [execChallenge]

@[simp] theorem execGetMeasurements_keepsValLog (ch : SpdmChan) (index : BitVec 8) (signed : Bool) (nonce : BitVec 256) (s : State) :
    KeepsValLog s (execGetMeasurements ch index signed nonce s) := by
  refine keepsValLog_next_of_valView (State.spdmAnswer_valView _ _ _ _ fun t => ?_)
  (repeat' split) <;> simp

@[simp] theorem execKeyExchange_keepsValLog (ch : SpdmChan) (reqId : BitVec 16) (s : State) :
    KeepsValLog s (execKeyExchange ch reqId s) := keepsValLog_next_of_valView (by simp)

@[simp] theorem execSpdmFinish_keepsValLog (ch : SpdmChan) (reqId : BitVec 16) (macOk : Bool) (s : State) :
    KeepsValLog s (execSpdmFinish ch reqId macOk s) := by simp [execSpdmFinish]

@[simp] theorem execHeartbeat_keepsValLog (ch : SpdmChan) (reqId : BitVec 16) (s : State) : KeepsValLog s (execHeartbeat ch reqId s) := by
  simp [execHeartbeat]

@[simp] theorem execSpdmKeyUpdate_keepsValLog (ch : SpdmChan) (reqId : BitVec 16) (s : State) :
    KeepsValLog s (execSpdmKeyUpdate ch reqId s) := by simp [execSpdmKeyUpdate]

@[simp] theorem execEndSession_keepsValLog (ch : SpdmChan) (reqId : BitVec 16) (s : State) : KeepsValLog s (execEndSession ch reqId s) := by
  simp [execEndSession]

@[simp] theorem execVendorDefinedRequest_keepsValLog (ch : SpdmChan) (reqId : BitVec 16) (km : IdeKm) (s : State) :
    KeepsValLog s (execVendorDefinedRequest ch reqId km s) := by unfold execVendorDefinedRequest; split <;> simp

@[simp] theorem execSpdmUnsupportedRequest_keepsValLog (ch : SpdmChan) (code : BitVec 8) (s : State) :
    KeepsValLog s (execSpdmUnsupportedRequest ch code s) := by simp [execSpdmUnsupportedRequest]

@[simp] theorem execGetState_keepsValLog (s : State) : KeepsValLog s (execGetState s) := by fun_cases execGetState <;> simp
@[simp] theorem execGetPower_keepsValLog (s : State) : KeepsValLog s (execGetPower s) := by fun_cases execGetPower <;> simp

@[simp] theorem execGetLogbook_keepsValLog (start : BitVec 64) (count : BitVec 16) (s : State) :
    KeepsValLog s (execGetLogbook start count s) := by fun_cases execGetLogbook <;> simp

@[simp] theorem execPldmFwUpdate_keepsValLog (slot : Bool) (img : FwImage) (s : State) : KeepsValLog s (execPldmFwUpdate slot img s) := by
  unfold execPldmFwUpdate; split <;> simp

@[simp] theorem execDynamicAddressAssignment_keepsValLog (i3c : Bool) (addr : BitVec 7) (s : State) :
    KeepsValLog s (execDynamicAddressAssignment i3c addr s) := by fun_cases execDynamicAddressAssignment <;> simp

end Sys2Proof.Machine

namespace Sys2Proof.Machine.State

variable (s : State)

/-! ### Edges of the module -/

@[simp] theorem flashOff_valView : s.flashOff.valView = s.valView := by simp [flashOff]

end Sys2Proof.Machine.State

namespace Sys2Proof.Machine

/-! ### Edges of the module: the commands -/

@[simp] theorem execWpAssert_keepsValLog (s : State) : KeepsValLog s (execWpAssert s) := by simp [execWpAssert]

@[simp] theorem execStandbyRailOff_keepsValLog (s : State) : KeepsValLog s (execStandbyRailOff s) := by
  unfold execStandbyRailOff; split <;> simp

end Sys2Proof.Machine

namespace Sys2Proof.Machine.State

variable (s : State)

/-! ### The device's own commands -/

@[simp] theorem identifyCmd_valView (q : Nat) (f : Flight) : (s.identifyCmd q f).valView = s.valView := by simp [identifyCmd]
@[simp] theorem telemetryCmd_valView (q : Nat) (f : Flight) : (s.telemetryCmd q f).valView = s.valView := by simp [telemetryCmd]
@[simp] theorem logReadCmd_valView (q : Nat) (f : Flight) : (s.logReadCmd q f).valView = s.valView := by simp [logReadCmd]

@[simp] theorem logClearCmd_valView (p : Nat) (s : State) (q : Nat) (f : Flight) : (logClearCmd p s q f).valView = s.valView := by
  simp [logClearCmd]

@[simp] theorem headingsCmd_valView (q : Nat) (f : Flight) : (s.headingsCmd q f).valView = s.valView := by
  simp only [headingsCmd]; (repeat' split) <;> simp

@[simp] theorem foldBusy_valView (c : Nat) : (s.foldBusy c).valView = s.valView := by simp [foldBusy]

@[simp] theorem peakBudgets_valView (l : List Budget) : (s.peakBudgets l).1.valView = s.valView := by
  induction l generalizing s with
  | nil => rfl
  | cons b l ih => simp [peakBudgets, ih]

@[simp] theorem readStages_valView : s.readStages.valView = s.valView := foldl_valView _ (fun t id => by split <;> simp) _ _
@[simp] theorem takeSample_valView : s.takeSample.valView = s.valView := by simp [takeSample]
@[simp] theorem sample_valView (taken : Bool) : (s.sample taken).valView = s.valView := by unfold sample; split <;> simp
@[simp] theorem spoilIdentify_valView (f : Flight) : (s.spoilIdentify f).valView = s.valView := by simp [spoilIdentify]
@[simp] theorem spoilTelemetry_valView (f : Flight) : (s.spoilTelemetry f).valView = s.valView := by simp [spoilTelemetry]
@[simp] theorem spoilLogRead_valView (f : Flight) : (s.spoilLogRead f).valView = s.valView := by simp [spoilLogRead]
@[simp] theorem spoilCmd_valView (f : Flight) : (s.spoilCmd f).valView = s.valView := by fun_cases spoilCmd <;> simp
@[simp] theorem ideFails_valView (q : Nat) (t : Tag) : (s.ideFails q t).valView = s.valView := by fun_cases ideFails <;> simp
@[simp] theorem ideQueueFails_valView (q : Nat) : (s.ideQueueFails q).valView = s.valView := by simp [ideQueueFails]

end Sys2Proof.Machine.State

namespace Sys2Proof.Machine

/-! ### The device's own commands: the commands -/

@[simp] theorem execIdeWaitTimeout_keepsValLog (q : QueueId) (t : Option Tag) (s : State) : KeepsValLog s (execIdeWaitTimeout q t s) := by
  fun_cases execIdeWaitTimeout <;> simp

@[simp] theorem execIdentify_keepsValLog (t : Tag) (x : Env) (s : State) : KeepsValLog s (execIdentify t x s) := by simp [execIdentify]
@[simp] theorem execTelemetry_keepsValLog (t : Tag) (x : Env) (s : State) : KeepsValLog s (execTelemetry t x s) := by simp [execTelemetry]
@[simp] theorem execLogRead_keepsValLog (t : Tag) (x : Env) (s : State) : KeepsValLog s (execLogRead t x s) := by simp [execLogRead]
@[simp] theorem execLogClear_keepsValLog (t : Tag) (p : PilotId) (s : State) : KeepsValLog s (execLogClear t p s) := by simp [execLogClear]
@[simp] theorem execHeadings_keepsValLog (t : Tag) (x : Env) (s : State) : KeepsValLog s (execHeadings t x s) := by simp [execHeadings]

@[simp] theorem execTelemetrySample_keepsValLog (taken : Bool) (s : State) : KeepsValLog s (execTelemetrySample taken s) := by
  simp [execTelemetrySample]

end Sys2Proof.Machine

namespace Sys2Proof.Machine.State

variable (s : State)

/-! ### The interrupt controller -/

@[simp] theorem claimSource_valView (p : PilotId) : (s.claimSource p).valView = s.valView := by unfold claimSource; split <;> simp
@[simp] theorem claimReaches_valView (p : PilotId) : (s.claimReaches p).valView = s.valView := by simp [claimReaches]
@[simp] theorem serveClaims_valView : s.serveClaims.valView = s.valView := by simp [serveClaims]
@[simp] theorem completeSource_valView (p : PilotId) (n : Nat) : (s.completeSource p n).valView = s.valView := by simp [completeSource]
@[simp] theorem swi_valView (pilots : BitVec 4) : (s.swi pilots).valView = s.valView := by simp [swi]

end Sys2Proof.Machine.State

namespace Sys2Proof.Machine

/-! ### The interrupt controller: the commands -/

@[simp] theorem execIcClaim_keepsValLog (p : PilotId) (s : State) : KeepsValLog s (execIcClaim p s) := by simp [execIcClaim]

@[simp] theorem execIcComplete_keepsValLog (p : PilotId) (source : BitVec 9) (s : State) : KeepsValLog s (execIcComplete p source s) := by
  simp [execIcComplete]

@[simp] theorem execIcSwi_keepsValLog (pilots : BitVec 4) (s : State) : KeepsValLog s (execIcSwi pilots s) := by simp [execIcSwi]

@[simp] theorem execModerationExpire_keepsValLog (p : PilotId) (s : State) : KeepsValLog s (execModerationExpire p s) := by
  fun_cases execModerationExpire <;> simp

@[simp] theorem execWaitForInterrupt_keepsValLog (p : PilotId) (s : State) : KeepsValLog s (execWaitForInterrupt p s) := by
  simp [execWaitForInterrupt]

@[simp] theorem execPilotWake_keepsValLog (p : PilotId) (s : State) : KeepsValLog s (execPilotWake p s) := by
  fun_cases execPilotWake <;> simp

@[simp] theorem execDeviceTimeCompare_keepsValLog (k : Fin 4) (s : State) : KeepsValLog s (execDeviceTimeCompare k s) := by
  fun_cases execDeviceTimeCompare <;> simp

@[simp] theorem execWatchdogHalf_keepsValLog (s : State) : KeepsValLog s (execWatchdogHalf s) := by fun_cases execWatchdogHalf <;> simp
@[simp] theorem execTrngHealthFailure_keepsValLog (s : State) : KeepsValLog s (execTrngHealthFailure s) := by simp [execTrngHealthFailure]

end Sys2Proof.Machine
end

section
/-!
R359, part 2: handshakes, serving commands, registers and the clocks. Each operation leaves the view alone: along the branches of its
definition, by the laws of the operations that it runs. Each command that runs only such operations keeps R359.
-/
namespace Sys2Proof.Machine.State

variable (s : State)

/-! ### Handshake and link commands -/

@[simp] theorem shakeTakes_valView (p : Nat) (msg : List Byte) : (s.shakeTakes p msg).valView = s.valView := by simp [shakeTakes]
@[simp] theorem sendCerts_valView (p : Nat) : (s.sendCerts p).valView = s.valView := by simp [sendCerts]
@[simp] theorem sendEvidence_valView (p : Nat) : (s.sendEvidence p).valView = s.valView := by simp [sendEvidence]
@[simp] theorem sendKeyx_valView (p : Nat) : (s.sendKeyx p).valView = s.valView := by simp [sendKeyx]
@[simp] theorem sendFinish_valView (p : Nat) : (s.sendFinish p).valView = s.valView := by simp [sendFinish]
@[simp] theorem shakeFails_valView (p : Nat) (cause : BitVec 4) : (s.shakeFails p cause).valView = s.valView := by simp [shakeFails]

end Sys2Proof.Machine.State

namespace Sys2Proof.Machine

/-! ### Handshake and link commands: the commands -/

@[simp] theorem execOptCtrlEn_keepsValLog (e : EngineId) (s : State) : KeepsValLog s (execOptCtrlEn e s) := by simp [execOptCtrlEn]

@[simp] theorem execPeerProbeSeen_keepsValLog (p : PortId) (s : State) : KeepsValLog s (execPeerProbeSeen p s) := by
  fun_cases execPeerProbeSeen <;> simp

@[simp] theorem execTrainDone_keepsValLog (p : PortId) (usable : BitVec 4) (s : State) : KeepsValLog s (execTrainDone p usable s) := by
  simp [execTrainDone]

@[simp] theorem execAttestTimeout_keepsValLog (p : PortId) (s : State) : KeepsValLog s (execAttestTimeout p s) := by
  fun_cases execAttestTimeout <;> simp

@[simp] theorem execHello_keepsValLog (p : PortId) (m : HelloMsg) (s : State) : KeepsValLog s (execHello p m s) := by
  simp only [execHello]; (repeat' split) <;> simp

@[simp] theorem execCerts_keepsValLog (p : PortId) (m : ShakeMsg) (s : State) : KeepsValLog s (execCerts p m s) := by
  fun_cases execCerts <;> simp

@[simp] theorem execEvidence_keepsValLog (p : PortId) (m : EvidenceMsg) (s : State) : KeepsValLog s (execEvidence p m s) := by
  fun_cases execEvidence <;> simp

@[simp] theorem execKeyx_keepsValLog (p : PortId) (m : ShakeMsg) (s : State) : KeepsValLog s (execKeyx p m s) := by
  fun_cases execKeyx <;> simp

@[simp] theorem execFinish_keepsValLog (p : PortId) (macOk : Bool) (s : State) : KeepsValLog s (execFinish p macOk s) := by
  fun_cases execFinish <;> simp

@[simp] theorem execLossOfLight_keepsValLog (p : PortId) (s : State) : KeepsValLog s (execLossOfLight p s) := by
  fun_cases execLossOfLight <;> simp

@[simp] theorem execRetrainComplete_keepsValLog (p : PortId) (usable : BitVec 4) (s : State) :
    KeepsValLog s (execRetrainComplete p usable s) := by simp only [execRetrainComplete]; (repeat' split) <;> simp

@[simp] theorem execElsChange_keepsValLog (present closed works : Bool) (s : State) :
    KeepsValLog s (execElsChange present closed works s) := by simp [execElsChange]

@[simp] theorem execWavelengthTuning_keepsValLog (e : EngineId) (s : State) : KeepsValLog s (execWavelengthTuning e s) := by
  fun_cases execWavelengthTuning <;> simp

@[simp] theorem execAck_keepsValLog (p : PortId) (f : Frame) (s : State) : KeepsValLog s (execAck p f s) := by simp [execAck]
@[simp] theorem execNak_keepsValLog (p : PortId) (f : Frame) (s : State) : KeepsValLog s (execNak p f s) := by simp [execNak]

@[simp] theorem execKeyUpdate_keepsValLog (p : PortId) (f : Frame) (s : State) : KeepsValLog s (execKeyUpdate p f s) := by
  simp [execKeyUpdate]

@[simp] theorem execRetryTimeout_keepsValLog (p : PortId) (s : State) : KeepsValLog s (execRetryTimeout p s) := by
  fun_cases execRetryTimeout <;> simp

@[simp] theorem execNakRepeat_keepsValLog (p : PortId) (s : State) : KeepsValLog s (execNakRepeat p s) := by
  fun_cases execNakRepeat <;> simp

@[simp] theorem execAckTimer_keepsValLog (p : PortId) (s : State) : KeepsValLog s (execAckTimer p s) := by simp [execAckTimer]

@[simp] theorem execKeyUpdateDue_keepsValLog (p : PortId) (s : State) : KeepsValLog s (execKeyUpdateDue p s) := by
  unfold execKeyUpdateDue; (repeat' split) <;> simp

@[simp] theorem execOpenMsg_keepsValLog (p : PortId) (f : Frame) (s : State) : KeepsValLog s (execOpenMsg p f s) := by simp [execOpenMsg]
@[simp] theorem execOpenAck_keepsValLog (p : PortId) (f : Frame) (s : State) : KeepsValLog s (execOpenAck p f s) := by simp [execOpenAck]

@[simp] theorem execClose_keepsValLog (p : PortId) (f : Frame) (s : State) : KeepsValLog s (execClose p f s) :=
  keepsValLog_next_of_valView (by simp)

end Sys2Proof.Machine

namespace Sys2Proof.Machine.State

variable (s : State)

/-! ### Commands of serving -/

@[simp] theorem withGroup_valView (q : Nat) (f : Flight) (body : Group → State) (hbody : ∀ t, (body t).valView = s.valView) :
    (s.withGroup q f body).valView = s.valView := by fun_cases withGroup <;> simp [hbody]

@[simp] theorem skimQueryCmd_valView (x : Env) (q : Nat) (f : Flight) : (s.skimQueryCmd x q f).valView = s.valView := by
  simp only [skimQueryCmd]
  split
  · rfl
  · refine withWork_valView _ _ _ _ fun j => ?_
    split
    · simp
    · split
      · simp
      · split <;>
        · rename_i h
          simp [valView_of_snd h]

@[simp] theorem skmSubmitRow_valView (k : Nat) (a : Addr) : (s.skmSubmitRow k a).valView = s.valView := by simp [skmSubmitRow]

@[simp] theorem serveSubmitCmd_valView (q : Nat) (f : Flight) : (s.serveSubmitCmd q f).valView = s.valView := by
  refine withGroup_valView _ _ _ _ fun j => ?_
  dsimp only
  (repeat' split) <;> simp

@[simp] theorem cancelRunning_valView (g : Group) (r : Request) : (s.cancelRunning g r).valView = s.valView := by
  fun_cases cancelRunning <;> simp

@[simp] theorem cancelCmd_valView (again : Bool) (q : Nat) (f : Flight) : (s.cancelCmd again q f).valView = s.valView := by
  refine withGroup_valView _ _ _ _ fun j => ?_
  dsimp only
  (repeat' split) <;> simp

end Sys2Proof.Machine.State

namespace Sys2Proof.Machine

/-! ### Commands of serving: the commands -/

@[simp] theorem execSkimQuery_keepsValLog (t : Tag) (x : Env) (s : State) : KeepsValLog s (execSkimQuery t x s) := by simp [execSkimQuery]

@[simp] theorem execSkmSubmit_keepsValLog (k : Fin 8) (addr : Addr) (s : State) : KeepsValLog s (execSkmSubmit k addr s) := by
  simp [execSkmSubmit]

@[simp] theorem execSkimScanStart_keepsValLog (k : Fin 8) (s : State) : KeepsValLog s (execSkimScanStart k s) := by simp [execSkimScanStart]

@[simp] theorem execSkimScanDone_keepsValLog (k : Fin 8) (x : Env) (s : State) : KeepsValLog s (execSkimScanDone k x s) := by
  simp [execSkimScanDone]

@[simp] theorem execSkimMergeDone_keepsValLog (query : Nat) (s : State) : KeepsValLog s (execSkimMergeDone query s) := by
  simp [execSkimMergeDone]

@[simp] theorem execServeSubmit_keepsValLog (t : Tag) (x : Env) (s : State) : KeepsValLog s (execServeSubmit t x s) := by
  simp [execServeSubmit]

@[simp] theorem execServeOpStart_keepsValLog (g : BitVec 8) (s : State) : KeepsValLog s (execServeOpStart g s) := by simp [execServeOpStart]
@[simp] theorem execServeOpDone_keepsValLog (g : BitVec 8) (s : State) : KeepsValLog s (execServeOpDone g s) := by simp [execServeOpDone]

@[simp] theorem execDeadlineOverdue_keepsValLog (g : BitVec 8) (op : Fin 64) (s : State) : KeepsValLog s (execDeadlineOverdue g op s) := by
  simp [execDeadlineOverdue]

@[simp] theorem execCancel_keepsValLog (t : Tag) (s : State) : KeepsValLog s (execCancel t s) := by simp [execCancel]

end Sys2Proof.Machine

namespace Sys2Proof.Machine.State

variable (s : State)

/-! ### Register blocks but the Sextant's -/

@[simp] theorem modRegs_valView (c : Nat) (f : CoreRegs → CoreRegs) : (s.modRegs c f).valView = s.valView := by simp [modRegs]
@[simp] theorem writeCore_valView (c r : Nat) (v : BitVec 64) : (s.writeCore c r v).valView = s.valView := by simp [writeCore]
@[simp] theorem writeStall_valView (c r : Nat) (v : BitVec 64) : (s.writeStall c r v).valView = s.valView := by simp [writeStall]

@[simp] theorem writeSep_valView (m r : Nat) (v : BitVec 64) : (s.writeSep m r v).valView = s.valView := by
  unfold writeSep; (repeat' split) <;> simp

@[simp] theorem writeSpu_valView (m r : Nat) (v : BitVec 64) : (s.writeSpu m r v).valView = s.valView := by fun_cases writeSpu <;> simp
@[simp] theorem writeSkm_valView (k r : Nat) (v : BitVec 64) : (s.writeSkm k r v).valView = s.valView := by fun_cases writeSkm <;> simp
@[simp] theorem writeMem_valView (m r : Nat) (v : BitVec 64) : (s.writeMem m r v).valView = s.valView := by simp [writeMem]
@[simp] theorem writeFld_valView (f r : Nat) (v : BitVec 64) : (s.writeFld f r v).valView = s.valView := by fun_cases writeFld <;> simp
@[simp] theorem writeAlm_valView (r : Nat) (v : BitVec 64) : (s.writeAlm r v).valView = s.valView := by simp [writeAlm]
@[simp] theorem engineOff_valView (e : Nat) : (s.engineOff e).valView = s.valView := by simp [engineOff]
@[simp] theorem writeOpt_valView (e r : Nat) (v : BitVec 64) : (s.writeOpt e r v).valView = s.valView := by unfold writeOpt; split <;> simp
@[simp] theorem writeIc_valView (r : Nat) (v : BitVec 64) : (s.writeIc r v).valView = s.valView := by fun_cases writeIc <;> simp
@[simp] theorem regReadActs_valView (off : Nat) : (s.regReadActs off).valView = s.valView := by fun_cases regReadActs <;> simp
@[simp] theorem writeMsix_valView (i : Nat) (d : BitVec 32) : (s.writeMsix i d).valView = s.valView := by simp [writeMsix]

@[simp] theorem writeQueue_valView (q r : Nat) (v m : BitVec 64) : (s.writeQueue q r v m).valView = s.valView := by
  fun_cases writeQueue <;> simp

@[simp] theorem barWordWrite_valView (r : Nat) (v m : BitVec 64) : (s.barWordWrite r v m).valView = s.valView := by simp [barWordWrite]
@[simp] theorem barWrite_valView (off size : Nat) (v : BitVec 64) : (s.barWrite off size v).valView = s.valView := by simp [barWrite]

@[simp] theorem armComparator_valView (k : Nat) (p : PilotId) (v : BitVec 64) : (s.armComparator k p v).valView = s.valView := by
  simp [armComparator]

@[simp] theorem meshRead_valView (a : Nat) : (s.meshRead a).valView = s.valView := by unfold meshRead; split <;> simp
@[simp] theorem norRead_valView (a n : Nat) : (s.norRead a n).2.valView = s.valView := by simp [norRead]
@[simp] theorem benchRead_valView (a : BenchAsset) : (s.benchRead a).valView = s.valView := by cases a <;> simp [benchRead]
@[simp] theorem writeMsixControl_valView (v : BitVec 32) : (s.writeMsixControl v).valView = s.valView := by simp [writeMsixControl]
@[simp] theorem configure_valView (r : ConfigReq) : (s.configure r).valView = s.valView := by unfold configure; (repeat' split) <;> simp
@[simp] theorem doeDiscover_valView (index : Nat) : (s.doeDiscover index).valView = s.valView := by simp [doeDiscover]

end Sys2Proof.Machine.State

namespace Sys2Proof.Machine

/-! ### Register blocks but the Sextant's: the commands -/

@[simp] theorem execConfigurationRequest_keepsValLog (r : ConfigReq) (s : State) : KeepsValLog s (execConfigurationRequest r s) := by
  simp [execConfigurationRequest]

@[simp] theorem execDoeDiscovery_keepsValLog (index : BitVec 8) (s : State) : KeepsValLog s (execDoeDiscovery index s) := by
  simp [execDoeDiscovery]

end Sys2Proof.Machine

namespace Sys2Proof.Machine.State

variable (s : State)

/-! ### The clock domains -/

@[simp] theorem waitCause_valView (c sem : Nat) : (s.waitCause c sem).2.valView = s.valView := by unfold waitCause; split <;> simp
@[simp] theorem stallCause_valView (c : Nat) : (s.stallCause c).2.valView = s.valView := by simp only [stallCause]; (repeat' split) <;> simp
@[simp] theorem coreCycle_valView (c : Nat) : (s.coreCycle c).valView = s.valView := by simp [coreCycle]
@[simp] theorem oldSets_valView (mine : Nat → Bool) : (s.oldSets mine).valView = s.valView := by simp [oldSets]
@[simp] theorem dieCycle_valView (d : Nat) : (s.dieCycle d).valView = s.valView := by simp [dieCycle]
@[simp] theorem queuePeaks_valView : s.queuePeaks.valView = s.valView := by simp [queuePeaks]
@[simp] theorem meshCycle_valView : s.meshCycle.valView = s.valView := by simp [meshCycle]

end Sys2Proof.Machine.State
end

section
/-!
R359, part 3: where the view changes. A reset and a loss of power clear VAL_LOG on every die; an ownership block withdraws it where it is no
longer permitted, last of its effects; a write to SXT_CTRL sets it only where it is permitted. Each of these keeps R359, and so does each
operation that runs one of them.
-/
namespace Sys2Proof.Machine.State

/-- An operation that leaves the view alone keeps R359. -/
theorem valLogOk_of_valView {s t : State} (h : t.valView = s.valView) (hs : s.valLogOk = true) : t.valLogOk = true := by
  rwa [valLogOk_eq, h, ← valLogOk_eq]

theorem valLogOk_of_allOff {s t : State} (h : t.valView = s.valView.allOff) : t.valLogOk = true := by simp [valLogOk_eq, h]

/-! ### Resets and start-up -/

theorem unitReset_valView (s : State) (cold : Bool) : (s.unitReset cold).valView = s.valView.allOff := by
  simp [unitReset, valView, ValView.allOff, ComputeDie.reset, Sextant.reset, Function.comp_def, Vector.map_const']

theorem powerDown_valView (s : State) (step : Nat) : (s.powerDown step).valView = s.valView.allOff := by
  simp only [powerDown, valView_ite, modBar_valView, valView_mk, ite_self]
  simp [valView, ValView.allOff, ComputeDie.reset, Sextant.reset, Function.comp_def, Vector.map_const']

theorem railsOff_valView (s : State) : s.railsOff.valView = s.valView.allOff := by simp [railsOff, unitReset_valView]

theorem haltStart_valLogOk (s : State) (step : Nat) (u : UnitId) : (s.haltStart step u).valLogOk = true :=
  valLogOk_of_allOff (powerDown_valView _ _)

theorem populationHalts_valLogOk (s : State) : s.populationHalts.valLogOk = true := haltStart_valLogOk _ _ _

theorem bootRun_valLogOk (n : Nat) {s : State} (h : s.valLogOk = true) : (bootRun n s).valLogOk = true := by
  induction n generalizing s with
  | zero => exact h
  | succ n ih =>
    simp only [bootRun]
    split
    · exact h
    · split
      · exact haltStart_valLogOk _ _ _
      · split
        · exact populationHalts_valLogOk _
        · split
          · split
            · split
              · exact ih (valLogOk_of_valView (by simp) h)
              · exact haltStart_valLogOk _ _ _
            · exact haltStart_valLogOk _ _ _
          · split
            · split
              · exact valLogOk_of_valView (by simp) h
              · split
                · exact valLogOk_of_valView (by simp) h
                · exact ih (valLogOk_of_valView (by simp) h)
            · exact h

theorem bootGoesOn_valLogOk {s : State} (h : s.valLogOk = true) : s.bootGoesOn.valLogOk = true := bootRun_valLogOk 600 h

theorem attemptEnds_valLogOk {s : State} (step : Nat) (u : UnitId) (r : AttemptResult) (h : s.valLogOk = true) :
    (s.attemptEnds step u r).valLogOk = true := by
  unfold attemptEnds
  split <;> exact bootGoesOn_valLogOk (valLogOk_of_valView (by simp) h)

theorem attempt_valLogOk {s : State} (step : Nat) (u : UnitId) (r : AttemptResult) (h : s.valLogOk = true) :
    (s.attempt step u r).valLogOk = true := by
  unfold attempt
  split
  · split
    · exact h
    · exact attemptEnds_valLogOk _ _ _ h
  · exact h

theorem startBegins_valLogOk {s : State} (type step : Nat) (cold : Bool) (h : s.valLogOk = true) :
    (s.startBegins type step cold).valLogOk = true :=
  bootGoesOn_valLogOk (valLogOk_of_valView (by simp) h)

theorem warmReset_valLogOk (s : State) (type : Nat) : (s.warmReset type).valLogOk = true := by
  refine startBegins_valLogOk _ _ _ (valLogOk_of_allOff (s := s) ?_)
  simp [unitReset_valView]

/-! ### Power -/

theorem powerFails_valLogOk (s : State) : s.powerFails.valLogOk = true :=
  valLogOk_of_allOff (s := s) (by simp [powerFails, railsOff_valView])

theorem hotSwapTurnsOff_valLogOk {s : State} (h : s.valLogOk = true) : s.hotSwapTurnsOff.valLogOk = true := by
  simp only [hotSwapTurnsOff]
  split
  · exact powerFails_valLogOk _
  · exact valLogOk_of_valView (by simp) h

theorem powersOn_valLogOk (s : State) : s.powersOn.valLogOk = true := by
  refine startBegins_valLogOk _ _ _ (valLogOk_of_allOff (s := s) ?_)
  simp [railsOff_valView]

theorem coldReset_valLogOk (s : State) : s.coldReset.valLogOk = true := by
  refine startBegins_valLogOk _ _ _ (valLogOk_of_allOff (s := s) ?_)
  simp [railsOff_valView]

theorem trips_valLogOk (s : State) : s.trips.valLogOk = true :=
  valLogOk_of_allOff (s := s) (by simp [trips, railsOff_valView])

/-! ### Ownership blocks -/

theorem fixValLog_valView (s : State) : s.fixValLog.valView = if s.valLogMay then s.valView else s.valView.allOff := by
  show (if s.valLogMay then s else _ : State).valView = _
  rw [valView_ite]
  split
  · rfl
  · simp [valView, ValView.allOff, Function.comp_def, Vector.map_const']

theorem fixValLog_valLogOk (s : State) : s.fixValLog.valLogOk = true := by
  rw [valLogOk_eq, fixValLog_valView]
  split
  · rename_i h
    rw [← valLogOk_eq, valLogOk_iff]
    exact .inl h
  · exact ValView.ok_allOff _

/-- Withdrawing VAL_LOG leaves the security state and its scope alone. -/
theorem fixValLog_mode_scope (s : State) :
    s.fixValLog.valView.mode = s.valView.mode ∧ s.fixValLog.valView.scope = s.valView.scope := by
  rw [fixValLog_valView]
  split <;> exact ⟨rfl, rfl⟩

theorem blockTaken_valLogOk (s : State) : s.blockTaken.valLogOk = true :=
  valLogOk_of_valView (setSecCode_valView _ _) (fixValLog_valLogOk _)

theorem blockTaken_mode_scope (s : State) :
    s.blockTaken.sec.mode = s.sec.mode ∧ s.blockTaken.sec.scope = s.sec.scope := by
  have hf : s.blockTaken.valView = s.measureOwner.deriveAlias.placeCert.endSessions.fixValLog.valView := setSecCode_valView _ _
  have ht : s.measureOwner.deriveAlias.placeCert.endSessions.valView = s.valView := by simp
  obtain ⟨hm, hs⟩ := fixValLog_mode_scope s.measureOwner.deriveAlias.placeCert.endSessions
  rw [← hf, ht] at hm hs
  exact ⟨hm, hs⟩

/-- POLICY (R357) changes neither the security state nor the debug scope. -/
theorem applyBlock_policy_mode_scope (s : State) (b : List Byte) :
    (s.applyBlock 3 b).sec.mode = s.sec.mode ∧ (s.applyBlock 3 b).sec.scope = s.sec.scope := blockTaken_mode_scope _

theorem applyBlock_valLogOk (s : State) (subop : Nat) (b : List Byte) : (s.applyBlock subop b).valLogOk = true := blockTaken_valLogOk _

theorem resetAfter_valLogOk {s : State} (q : Nat) (f : Flight) (r0 type : Nat) (effect : State → State) (h : s.valLogOk = true) :
    (s.resetAfter q f r0 type effect).valLogOk = true := by
  unfold resetAfter
  split
  · exact warmReset_valLogOk _ _
  · exact h

theorem resetCmd_valLogOk {s : State} (q : Nat) (f : Flight) (h : s.valLogOk = true) : (s.resetCmd q f).valLogOk = true := by
  unfold resetCmd
  split
  · exact valLogOk_of_valView (by simp) h
  · exact resetAfter_valLogOk _ _ _ _ _ h

theorem makeChange_valLogOk {s : State} (c : OwnerChange) (h : s.valLogOk = true) : (s.makeChange c).valLogOk = true := by
  simp only [makeChange]
  split
  · split
    · exact resetAfter_valLogOk _ _ _ _ _ (valLogOk_of_valView (by simp) h)
    · refine valLogOk_of_valView ?_ (applyBlock_valLogOk s.endChange (s.changeForm c).1 c.block)
      rw [finishOk_valView]
      split <;> simp
  · split
    · exact warmReset_valLogOk _ _
    · split
      · exact warmReset_valLogOk _ _
      · exact valLogOk_of_valView (blockAnswer_valView _ _ _) (applyBlock_valLogOk _ _ _)

theorem changesGo_valLogOk (n : Nat) {s : State} (h : s.valLogOk = true) : (changesGo n s).valLogOk = true := by
  induction n generalizing s with
  | zero => exact h
  | succ n ih =>
    simp only [changesGo]
    split
    · exact h
    · split
      · exact ih (valLogOk_of_valView (by simp) h)
      · split
        · exact ih (valLogOk_of_valView (by simp) h)
        · split
          · exact valLogOk_of_valView (by simp) h
          · exact ih (makeChange_valLogOk _ h)

theorem changesMove_valLogOk {s : State} (h : s.valLogOk = true) : s.changesMove.valLogOk = true := by
  unfold changesMove
  split
  · exact changesGo_valLogOk _ h
  · exact h

theorem ownershipCmd_valLogOk {s : State} (q : Nat) (f : Flight) (h : s.valLogOk = true) : (s.ownershipCmd q f).valLogOk = true := by
  simp only [ownershipCmd]
  split
  · exact valLogOk_of_valView (by simp) h
  · split
    · exact valLogOk_of_valView (by simp) h
    · split
      · exact changesMove_valLogOk h
      · exact changesMove_valLogOk (valLogOk_of_valView (by simp) h)

theorem ownerBlock_valLogOk {s : State} (b : List Byte) (h : s.valLogOk = true) : (s.ownerBlock b).valLogOk = true := by
  simp only [ownerBlock]
  split
  · exact valLogOk_of_valView (by simp) h
  · exact changesMove_valLogOk (valLogOk_of_valView (by simp) h)

/-! ### Commands whose body may change the view -/

theorem runCmd_valLogOk {s : State} (t : Tag) (opc : Nat) (host : Bool) (body : State → Nat → Flight → State)
    (hbody : ∀ t q f, t.valLogOk = true → (body t q f).valLogOk = true) (h : s.valLogOk = true) :
    (s.runCmd t opc host body).valLogOk = true := by
  unfold runCmd
  split
  · exact h
  · split
    · exact valLogOk_of_valView (stream_valView _ _) (hbody _ _ _ (valLogOk_of_valView (by simp) h))
    · exact h

theorem runCmdAgain_valLogOk {s : State} (t : Tag) (opc : Nat) (body : State → Nat → Flight → State)
    (hbody : ∀ t q f, t.valLogOk = true → (body t q f).valLogOk = true) (h : s.valLogOk = true) :
    (s.runCmdAgain t opc body).valLogOk = true := by
  unfold runCmdAgain
  split
  · exact h
  · split
    · exact valLogOk_of_valView (stream_valView _ _) (hbody _ _ _ h)
    · exact runCmd_valLogOk _ _ _ _ hbody h

theorem runAgain_valLogOk {s : State} (t : Tag) (opc : Nat) (x : Env) (body : State → Nat → Flight → State) (spoil : State → Flight → State)
    (hbody : ∀ t q f, t.valLogOk = true → (body t q f).valLogOk = true) (hspoil : ∀ t f, (spoil t f).valView = t.valView)
    (h : s.valLogOk = true) : (s.runAgain t opc x body spoil).valLogOk = true := by
  unfold runAgain
  split
  · exact h
  · split
    · split
      · exact valLogOk_of_valView (by simp [hspoil]) h
      · exact valLogOk_of_valView (stream_valView _ _) (hbody _ _ _ (valLogOk_of_valView (by simp) h))
    · refine runCmd_valLogOk _ _ _ _ (fun t q f ht => ?_) h
      split
      · exact valLogOk_of_valView (by simp [hspoil]) ht
      · exact hbody _ _ _ (valLogOk_of_valView (by simp) ht)

theorem ownership_valLogOk {s : State} (t : Tag) (x : Env) (subop : Nat) (h : s.valLogOk = true) :
    (s.ownership t x subop).valLogOk = true := by
  unfold ownership
  split
  · split
    · refine valLogOk_of_valView (react_valView _ _) ?_
      exact runAgain_valLogOk _ _ _ _ _ (fun t q f => ownershipCmd_valLogOk q f) (fun t f => by simp) h
    · exact h
  · exact h

/-! ### SXT_CTRL -/

theorem mem_vmod {α : Type} {n : Nat} {v : Vector α n} {i : Nat} {f : α → α} {x : α} (h : x ∈ vmod v i f) :
    x ∈ v ∨ ∃ y ∈ v, x = f y := by
  unfold vmod at h
  split at h
  · rcases Vector.mem_or_eq_of_mem_set h with h | rfl
    · exact .inl h
    · exact .inr ⟨_, Vector.getElem_mem _, rfl⟩
  · exact .inl h

/-- A Sextant changes, and VAL_LOG becomes set on its die only where it is permitted. -/
theorem modSxt_valLogOk {s : State} (d : Nat) (f : Sextant → Sextant)
    (hf : ∀ x, (f x).valLog = true → s.valLogMay = true ∨ x.valLog = true) (h : s.valLogOk = true) : (s.modSxt d f).valLogOk = true := by
  rw [valLogOk_iff] at h ⊢
  by_cases hm : s.valLogMay = true
  · exact .inl hm
  · refine .inr fun x (hx : x ∈ vmod s.dies d fun c => { c with sxt := f c.sxt }) => ?_
    have hoff := h.resolve_left hm
    rcases mem_vmod hx with hx | ⟨y, hy, rfl⟩
    · exact hoff x hx
    · exact Bool.eq_false_iff.2 fun hs => (hf _ hs).elim hm (by simp [hoff y hy])

theorem writeSxt_valLogOk {s : State} (d r : Nat) (v : BitVec 64) (h : s.valLogOk = true) : (s.writeSxt d r v).valLogOk = true := by
  unfold writeSxt
  split
  · exact modSxt_valLogOk _ _ (fun x hx => .inl (by simp_all)) h
  · split
    · exact modSxt_valLogOk _ _ (fun x => .inr) h
    · split
      · exact modSxt_valLogOk _ _ (fun x => .inr) h
      · split
        · exact modSxt_valLogOk _ _ (fun x => .inr) h
        · exact h

theorem regWrite_valLogOk {s : State} (off : Nat) (v : BitVec 64) (h : s.valLogOk = true) : (s.regWrite off v).valLogOk = true := by
  simp only [regWrite]
  split
  · exact h
  · split
    case h_2 =>
      split
      · exact writeSxt_valLogOk _ _ _ h
      · exact h
    all_goals exact valLogOk_of_valView (by simp) h

theorem registerWrite_valLogOk {s : State} (r : RegTarget) (v : BitVec 64) (h : s.valLogOk = true) :
    (s.registerWrite r v).valLogOk = true := by
  unfold registerWrite
  split
  · exact valLogOk_of_valView (by simp) h
  · split
    · exact h
    · split
      · exact valLogOk_of_valView (react_valView _ _) (regWrite_valLogOk _ _ h)
      · exact h
  · exact valLogOk_of_valView (by simp) h

theorem meshWrite_valLogOk {s : State} (a : Nat) (v : BitVec 64) (h : s.valLogOk = true) : (s.meshWrite a v).valLogOk = true := by
  unfold meshWrite
  split
  · exact valLogOk_of_valView (react_valView _ _) (regWrite_valLogOk _ _ h)
  · exact valLogOk_of_valView (by simp) h

theorem jtag_valLogOk {s : State} (op : JtagOp) (h : s.valLogOk = true) : (s.jtag op).valLogOk = true := by
  unfold jtag
  split
  · exact h
  · split
    case h_3 =>
      split
      · exact meshWrite_valLogOk _ _ h
      · exact h
    all_goals exact valLogOk_of_valView (by simp) h

/-! ### The tick -/

theorem controlCycle_valLogOk {s : State} (h : s.valLogOk = true) : s.controlCycle.valLogOk = true :=
  changesMove_valLogOk (valLogOk_of_valView (by simp) h)

theorem tick_valLogOk {s : State} (h : s.valLogOk = true) : s.tick.valLogOk = true := by
  fun_cases tick with
  | case1 => exact h
  | case2 _ t => exact valLogOk_of_valView (valView_mk s ..) h
  | case3 _ t _ u v => exact controlCycle_valLogOk (valLogOk_of_valView (by simp [v, u, t]) h)
  | case4 _ t _ u v => exact valLogOk_of_valView (by simp [v, u, t]) h

end Sys2Proof.Machine.State

namespace Sys2Proof.Machine

/-! ### The commands that run them -/

@[simp] theorem execStartupAttempt_keepsValLog (step : Fin 12) (u : UnitId) (r : AttemptResult) (s : State) :
    KeepsValLog s (execStartupAttempt step u r s) := keepsValLog_next (State.attempt_valLogOk _ _ _)

@[simp] theorem execStartupWatchdog_keepsValLog (u : UnitId) (firmwareStopped : Bool) (s : State) :
    KeepsValLog s (execStartupWatchdog u firmwareStopped s) := by
  simp only [execStartupWatchdog]
  split
  · split
    · exact keepsValLog_next fun _ => State.warmReset_valLogOk _ _
    · split
      · exact keepsValLog_next (State.attemptEnds_valLogOk _ _ _)
      · exact keepsValLog_next id
  · exact keepsValLog_next id

@[simp] theorem execFatalRecoveryReset_keepsValLog (s : State) : KeepsValLog s (execFatalRecoveryReset s) := by
  unfold execFatalRecoveryReset
  split
  · exact keepsValLog_next fun _ => State.warmReset_valLogOk _ _
  · exact keepsValLog_next id

@[simp] theorem execClaim_keepsValLog (t : Tag) (x : Env) (s : State) : KeepsValLog s (execClaim t x s) :=
  keepsValLog_next (State.ownership_valLogOk _ _ _)

@[simp] theorem execTransfer_keepsValLog (t : Tag) (x : Env) (s : State) : KeepsValLog s (execTransfer t x s) :=
  keepsValLog_next (State.ownership_valLogOk _ _ _)

@[simp] theorem execRelease_keepsValLog (t : Tag) (x : Env) (s : State) : KeepsValLog s (execRelease t x s) :=
  keepsValLog_next (State.ownership_valLogOk _ _ _)

@[simp] theorem execPolicy_keepsValLog (t : Tag) (x : Env) (s : State) : KeepsValLog s (execPolicy t x s) :=
  keepsValLog_next (State.ownership_valLogOk _ _ _)

@[simp] theorem execDebugUnlock_keepsValLog (t : Tag) (x : Env) (s : State) : KeepsValLog s (execDebugUnlock t x s) :=
  keepsValLog_next (State.ownership_valLogOk _ _ _)

@[simp] theorem execDebugLock_keepsValLog (t : Tag) (x : Env) (s : State) : KeepsValLog s (execDebugLock t x s) :=
  keepsValLog_next (State.ownership_valLogOk _ _ _)

@[simp] theorem execOwnerBlock_keepsValLog (block : List Byte) (s : State) : KeepsValLog s (execOwnerBlock block s) := by
  unfold execOwnerBlock
  split
  · exact keepsValLog_next fun h => State.ownerBlock_valLogOk _ (State.valLogOk_of_valView (by simp) h)
  · exact keepsValLog_next id

@[simp] theorem execP40vApplied_keepsValLog (millivolts : Nat) (s : State) : KeepsValLog s (execP40vApplied millivolts s) := by
  unfold execP40vApplied
  split
  · exact keepsValLog_next id
  · split
    · exact keepsValLog_next fun h => State.hotSwapTurnsOff_valLogOk (State.valLogOk_of_valView (by simp) h)
    · split
      · exact keepsValLog_fault _ _
      · split
        · exact keepsValLog_next id
        · exact keepsValLog_next fun _ => State.powersOn_valLogOk _

@[simp] theorem execHotSwapTurnOff_keepsValLog (s : State) : KeepsValLog s (execHotSwapTurnOff s) :=
  keepsValLog_next State.hotSwapTurnsOff_valLogOk

@[simp] theorem execPowerFail_keepsValLog (s : State) : KeepsValLog s (execPowerFail s) := by
  refine keepsValLog_next fun h => ?_
  split
  · exact State.powerFails_valLogOk _
  · exact h

@[simp] theorem execPerstAssert_keepsValLog (s : State) : KeepsValLog s (execPerstAssert s) := by
  simp only [execPerstAssert]
  split
  · exact keepsValLog_next id
  · refine keepsValLog_next fun h => ?_
    split
    · exact State.coldReset_valLogOk _
    · exact State.valLogOk_of_valView (by simp) h

@[simp] theorem execPerstDeassert_keepsValLog (s : State) : KeepsValLog s (execPerstDeassert s) := by
  simp only [execPerstDeassert]
  split
  · exact keepsValLog_next id
  · split
    · refine keepsValLog_next fun h => ?_
      split
      · exact State.bootGoesOn_valLogOk (State.valLogOk_of_valView (by simp) h)
      · exact State.valLogOk_of_valView (by simp) h
    · exact keepsValLog_next_of_valView (by simp)

@[simp] theorem execThermTrip_keepsValLog (s : State) : KeepsValLog s (execThermTrip s) := by
  refine keepsValLog_next fun h => ?_
  split
  · exact State.trips_valLogOk _
  · exact h

@[simp] theorem execResetDevice_keepsValLog (t : Tag) (s : State) : KeepsValLog s (execResetDevice t s) :=
  keepsValLog_next (State.runCmdAgain_valLogOk _ _ _ fun _ q f => State.resetCmd_valLogOk q f)

@[simp] theorem execRegisterWrite_keepsValLog (r : RegTarget) (value : BitVec 64) (s : State) :
    KeepsValLog s (execRegisterWrite r value s) := keepsValLog_next (State.registerWrite_valLogOk _ _)

@[simp] theorem execJtagAccess_keepsValLog (op : JtagOp) (s : State) : KeepsValLog s (execJtagAccess op s) :=
  keepsValLog_next (State.jtag_valLogOk _)

end Sys2Proof.Machine
end

section
/-! R359, part 4: every step keeps it, and a POLICY block that withdraws the permission clears VAL_LOG on every die. -/
namespace Sys2Proof.Machine

/-- Every command keeps R359, by the lemma of its own meaning. -/
theorem exec_keepsValLog (i : Instr) (s : State) : KeepsValLog s (exec i s) := by
  cases i <;> simp [exec]

theorem step_valLogOk {s t : State} (h : s.valLogOk = true) (hst : step s = .next t) : t.valLogOk = true := by
  unfold step at hst
  split at hst
  · obtain rfl : s.tick = t := by simpa using hst
    exact State.tick_valLogOk h
  · exact exec_keepsValLog _ _ t hst (State.valLogOk_of_valView (State.valView_mk s ..) h)

/-- Once VAL_LOG may not be set, R359 has it clear on every die. -/
theorem valLog_eq_false_of_not_may {s : State} (h : s.valLogOk = true) (hm : s.valLogMay = false) (d : DieId) :
    (s.die d.val).sxt.valLog = false := by
  have hoff := ((State.valLogOk_iff s).1 h).resolve_left (by simp [hm])
  rw [State.die, vget_getElem _ _ d.isLt]
  exact hoff _ (Vector.getElem_mem _)

/-- A POLICY block after which neither the policy nor the debug scope permits VAL_LOG. -/
theorem applyBlock_policy_not_valLogMay {s : State} {b : List Byte} (hp : (s.applyBlock 3 b).sec.policy.valLogAllow = false)
    (hs : ¬(s.sec.mode = .debug ∧ s.sec.scope.getLsbD 4 = true)) : (s.applyBlock 3 b).valLogMay = false := by
  obtain ⟨hm, hsc⟩ := State.applyBlock_policy_mode_scope s b
  simpa [State.valLogMay, State.scopeBit, hp, hm, hsc] using hs

/-- Settles O60: every command keeps R359, by the view of the state that R359 speaks of; an ownership block withdraws VAL_LOG last of its
effects. -/
theorem valLogNeedsPermission : Obligations.ValLogNeedsPermission :=
  ⟨fun _ _ h hst => step_valLogOk h hst, fun s b hp hs d =>
    valLog_eq_false_of_not_may (State.applyBlock_valLogOk s 3 b) (applyBlock_policy_not_valLogMay hp hs) d⟩

end Sys2Proof.Machine
end

section
/-!
R411: what a control edge makes of the sources. The fold over the sources is a fold of `sampleSource`, one source's sample; the signals do not
depend on the interrupt controller, so that every source is sampled by the signals of the state before the edge.
-/
namespace Sys2Proof.Machine

/-- Changes of element `i` that agree on the element that stands there. -/
theorem vmod_congr {α : Type} {n : Nat} (v : Vector α n) (i : Nat) {f g : α → α} (h : ∀ hi : i < n, f v[i] = g v[i]) :
    vmod v i f = vmod v i g := by
  unfold vmod
  split
  · rw [h]
  · rfl

namespace State

variable (s : State)

/-- Changes of a source that agree on the source as it is. -/
theorem modSrc_congr {n : Nat} {f g : IcSrc → IcSrc} (h : f (s.src n) = g (s.src n)) : s.modSrc n f = s.modSrc n g := by
  unfold modSrc
  rw [vmod_congr (f := f) (g := g) s.ic.srcs n fun hn => by simpa only [src, vget_getElem _ _ hn] using h]

/-- A change that leaves a source as it is changes nothing. -/
theorem modSrc_eq_self {n : Nat} {f : IcSrc → IcSrc} (h : f (s.src n) = s.src n) : s.modSrc n f = s := by
  rw [modSrc_congr s (g := id) h, modSrc, vmod_id _ _ id fun _ => rfl]

theorem src_modSrc_self {n : Nat} (f : IcSrc → IcSrc) (h : n < 512) : (s.modSrc n f).src n = f (s.src n) := by
  simp [src_modSrc, h]

theorem src_modSrc_ne {n m : Nat} (f : IcSrc → IcSrc) (h : n ≠ m) : (s.modSrc n f).src m = s.src m :=
  vget_vmod_ne _ _ _ h

@[simp] theorem pilot_modSrc (n p : Nat) (f : IcSrc → IcSrc) : (s.modSrc n f).pilot p = s.pilot p := rfl

/-- No signal depends on the interrupt controller (R409, Table 12-1). -/
theorem srcLine_withIc (c : Ic) : ({ s with ic := c } : State).srcLine = s.srcLine := by
  funext n
  simp only [srcLine, core, die, sep, skm, flash, engine, alerted]

@[simp] theorem srcLine_modSrc (n : Nat) (f : IcSrc → IcSrc) : (s.modSrc n f).srcLine = s.srcLine := srcLine_withIc s _
@[simp] theorem srcLine_modPilot (p : Nat) (f : IcPilot → IcPilot) : (s.modPilot p f).srcLine = s.srcLine := srcLine_withIc s _
@[simp] theorem src_modPilot (p : Nat) (f : IcPilot → IcPilot) : (s.modPilot p f).src = s.src := rfl

@[simp] theorem src_modCycle (p : Nat) : (s.modCycle p).src = s.src := by
  simp only [modCycle, apply_ite State.src, src_modPilot, ite_self]

@[simp] theorem srcLine_modCycle (p : Nat) : (s.modCycle p).srcLine = s.srcLine := by
  simp only [modCycle, apply_ite State.srcLine, srcLine_modPilot, ite_self]

/-- What the sample of source `n`'s present signal gives (R411): whether an edge merged, and the source after it. -/
def sampleOf (n : Nat) : Bool × IcSrc := (s.src n).sample (srcListed n && s.srcLine n)

/-- The part of a control edge that samples source `n`. -/
def sampleSource (n : Nat) : State :=
  if (s.sampleOf n).2 = s.src n ∧ (s.sampleOf n).1 = false then s
  else
    let t := s.modSrc n fun _ => (s.sampleOf n).2
    if (s.sampleOf n).1 then { t with ic := { t.ic with mergeCnt := Word.satInc t.ic.mergeCnt } } else t

theorem icEdge_eq : s.icEdge = (List.range 512).foldl sampleSource ([0, 1, 2, 3].foldl modCycle s) := by
  unfold icEdge sampleSource sampleOf
  rfl

@[simp] theorem srcLine_sampleSource (n : Nat) : (s.sampleSource n).srcLine = s.srcLine := by
  unfold sampleSource
  split
  · rfl
  · split
    · exact (srcLine_withIc _ _).trans (srcLine_modSrc s n _)
    · exact srcLine_modSrc s n _

theorem src_sampleSource {n : Nat} (m : Nat) (h : n < 512) :
    (s.sampleSource n).src m = if n = m then (s.sampleOf n).2 else s.src m := by
  rw [← src_modSrc s n m (fun _ => (s.sampleOf n).2) h]
  unfold sampleSource
  split
  case isTrue hsame => rw [modSrc_eq_self s hsame.1]
  case isFalse => split <;> rfl

/-- After the first `k` sources are sampled: the signals are the old ones, and each source below `k` is its sample. -/
theorem foldl_sampleSource {k : Nat} (h : k ≤ 512) :
    ((List.range k).foldl sampleSource s).srcLine = s.srcLine ∧
    ∀ m, ((List.range k).foldl sampleSource s).src m = if m < k then (s.sampleOf m).2 else s.src m := by
  induction k with
  | zero => simp
  | succ k ih =>
    obtain ⟨hline, hsrc⟩ := ih (by omega)
    rw [List.range_succ, List.foldl_append]
    refine ⟨by simpa using hline, fun m => ?_⟩
    rw [List.foldl_cons, List.foldl_nil, src_sampleSource _ m (by omega), sampleOf, hline, hsrc, hsrc]
    by_cases hm : k = m
    · subst hm
      simp [sampleOf]
    · simp only [if_neg hm, show m < k + 1 ↔ m < k by omega]

/-- R411: a control edge samples every source by the signals of the state before it. -/
theorem src_icEdge {n : Nat} (h : n < 512) : s.icEdge.src n = (s.sampleOf n).2 := by
  rw [icEdge_eq, (foldl_sampleSource _ le_rfl).2, if_pos h]
  simp [sampleOf]

end State

/-- R411: a LEVEL source is pending after a sample exactly when its signal was sampled high. -/
theorem IcSrc.pending_sample_level {x : IcSrc} (signal : Bool) (h : x.sense = 0) :
    (x.sample signal).2.pending = (signal || decide (0 < x.pulse)) := by
  simp [IcSrc.sample, IcSrc.pending, h]

end Sys2Proof.Machine
end

section
/-! R414: the end of a source's service. -/
namespace Sys2Proof.Machine

/-- A source after its service has ended: a LEVEL source is not pending until the next sample. -/
def IcSrc.completed (x : IcSrc) : IcSrc := { x with insvc := none, line := x.line && x.sense != 0 }

theorem IcSrc.pending_completed_level {x : IcSrc} (h : x.sense = 0) : x.completed.pending = false := by
  simp [completed, pending, h]

/-- An edge source keeps what it latched during its service. -/
theorem IcSrc.pending_completed_edge {x : IcSrc} (h : x.sense ≠ 0) : x.completed.pending = x.latched := if_neg h

/-- A completed edge source that has latched is eligible for every pilot that it targets and whose mask lets it through (R412). -/
theorem IcSrc.eligible_completed_edge {x : IcSrc} {p : Nat} {q : IcPilot} (hsense : x.sense ≠ 0) (hlatch : x.latched = true)
    (hen : x.enable = true) (htgt : x.targets.getLsbD p = true) (hprio : q.thresh.toNat < x.prio.toNat) (hall : q.all = false) :
    x.completed.eligible p q = true := by
  have hpend : x.completed.pending = true := by rw [pending_completed_edge hsense, hlatch]
  rw [eligible, hpend]
  simp [completed, hen, htgt, hprio, hall]

namespace State

variable {s : State} {p : PilotId} {n : Nat}

theorem completeSource_of_not_inService (h : (s.src n).insvc ≠ some p) : s.completeSource p n = s :=
  modSrc_eq_self s (if_neg h)

theorem completeSource_of_inService (h : (s.src n).insvc = some p) : s.completeSource p n = s.modSrc n IcSrc.completed :=
  modSrc_congr s (if_pos h)

/-- A listed LEVEL source whose signal is high is pending after the next control edge (R411). -/
theorem pending_icEdge_level (hn : n < 512) (hsense : (s.src n).sense = 0) (hlist : srcListed n = true) (hline : s.srcLine n = true) :
    (s.icEdge.src n).pending = true := by
  rw [src_icEdge s hn, sampleOf, IcSrc.pending_sample_level _ hsense, hlist, hline]
  rfl

end State

theorem exec_icComplete (p : PilotId) (n : BitVec 9) (s : State) : exec (.icComplete p n) s = .next (s.completeSource p n.toNat) := rfl

/-- Settles O52: the source named becomes its `IcSrc.completed` form, which the level and the edge clauses speak of; the next sample of a LEVEL
source is that of every control edge. -/
theorem completionEndsService : Obligations.CompletionEndsService := by
  intro p n s
  refine ⟨fun h => by rw [exec_icComplete, State.completeSource_of_not_inService h],
    fun h => ⟨s.modSrc n.toNat IcSrc.completed, rfl, by rw [exec_icComplete, State.completeSource_of_inService h], ?_⟩⟩
  have hsrc : (s.modSrc n.toNat IcSrc.completed).src n.toNat = (s.src n.toNat).completed := s.src_modSrc_self _ n.isLt
  refine ⟨fun hsense => ?level, fun hsense hlist hline => ?sampled, fun hsense hlatch hen htgt hprio hall => ?edge⟩
  case level =>
    rw [hsrc]
    exact IcSrc.pending_completed_level hsense
  case sampled =>
    refine State.pending_icEdge_level n.isLt ?_ hlist hline
    rw [hsrc]
    exact hsense
  case edge =>
    rw [hsrc, State.pilot_modSrc]
    exact IcSrc.eligible_completed_edge hsense hlatch hen htgt hprio hall

end Sys2Proof.Machine
end

section
/-!
R420, R421, R423: the event log. `EventLog.write` puts a record in its place; `State.event` is that write, the pulse of the first overwrite, and
what a record with HOST set announces.
-/
namespace Sys2Proof.Machine

namespace EventLog

variable (l : EventLog) (e : Event)

/-- The next record goes into the retained part (R420). -/
def retains : Bool := decide (l.retained.length < 1024)

/-- The next record takes the place of the ring's oldest (R420). -/
def overwrites : Bool := !l.retains && decide (7168 ≤ l.ring.length)

/-- The log after a record has entered it. -/
def write : EventLog :=
  { l with
    retained := if l.retains then l.retained ++ [e] else l.retained
    ring := if l.retains then l.ring else (if l.overwrites then l.ring.drop 1 else l.ring) ++ [e]
    nextSeq := l.nextSeq + 1
    overflow := if l.overwrites then Word.satInc l.overflow else l.overflow
    overwrote := l.overwrote || l.overwrites
    queued := l.queued + 1 }

variable {l}

theorem write_of_retains (h : l.retained.length < 1024) :
    (l.write e).retained = l.retained ++ [e] ∧ (l.write e).ring = l.ring := by
  simp [write, retains, h]

theorem write_retained_of_full (h : 1024 ≤ l.retained.length) : (l.write e).retained = l.retained := by
  simp [write, retains, h]

theorem write_of_ring_room (h : 1024 ≤ l.retained.length) (hr : l.ring.length < 7168) :
    (l.write e).ring = l.ring ++ [e] ∧ (l.write e).overflow = l.overflow := by
  simp [write, overwrites, retains, Nat.not_lt.2 h, Nat.not_le.2 hr]

theorem write_of_ring_full (h : 1024 ≤ l.retained.length) (hr : 7168 ≤ l.ring.length) :
    (l.write e).ring = l.ring.drop 1 ++ [e] ∧ (l.write e).overflow = Word.satInc l.overflow := by
  simp [write, overwrites, retains, h, hr]

/-- R420: no record takes either part of the log beyond its size. -/
theorem write_length_le (h : l.retained.length ≤ 1024) (hr : l.ring.length ≤ 7168) :
    (l.write e).retained.length ≤ 1024 ∧ (l.write e).ring.length ≤ 7168 := by
  rcases Nat.lt_or_ge l.retained.length 1024 with hret | hret
  · obtain ⟨hw, hwr⟩ := write_of_retains e hret
    rw [hw, hwr, List.length_append, List.length_singleton]
    exact ⟨hret, hr⟩
  · rw [write_retained_of_full e hret]
    rcases Nat.lt_or_ge l.ring.length 7168 with hring | hring
    · rw [(write_of_ring_room e hret hring).1, List.length_append, List.length_singleton]
      exact ⟨h, hring⟩
    · rw [(write_of_ring_full e hret hring).1, List.length_append, List.length_drop, List.length_singleton]
      exact ⟨h, by omega⟩

end EventLog

namespace State

variable (s : State)

/-- The record that an event writes (Table 12-5). -/
def record (code cls idx : Nat) (host : Bool) (pilot job : Nat) (payload : List Byte) : Event :=
  { seq := s.log.nextSeq, time := s.now, code := BitVec.ofNat 16 code, cls := BitVec.ofNat 8 cls, idx := BitVec.ofNat 8 idx
    host := host, retained := s.log.retains, pilot := BitVec.ofNat 8 pilot, job := BitVec.ofNat 16 job
    payload := Bytes.fit 32 payload }

/-- A record enters the log; the first overwrite since a clear pulses source 0x161 (R420). -/
def logged (e : Event) : State :=
  let t := { s with log := s.log.write e }
  if s.log.overwrites && !s.log.overwrote then t.pulse 0x161 else t

/-- What a record with HOST set brings about (R423). -/
def announce (host : Bool) : State := if host then (s.pulse 0x160).raiseCause .event else s

section
variable {s} (code cls idx : Nat) (host : Bool) (pilot job : Nat) (payload : List Byte)

theorem event_of_full (h : 256 ≤ s.log.queued) :
    s.event code cls idx host pilot job payload = { s with log := { s.log with drops := Word.satInc s.log.drops } } := if_pos h

theorem event_of_room (h : s.log.queued < 256) :
    s.event code cls idx host pilot job payload = (s.logged (s.record code cls idx host pilot job payload)).announce host :=
  if_neg (Nat.not_le.2 h)

end

/-! ### What each part writes -/

/-- A message sets or waits in the MSI-X registers, or leaves the part. -/
theorem sendMsix_eq (v : BitVec 6) : ∃ pend wait out,
    s.sendMsix v = { s with bar := { s.bar with msixPend := pend, msixWait := wait }, out := out } := by
  unfold sendMsix
  split
  · exact ⟨_, _, _, rfl⟩
  · split
    · exact ⟨_, _, _, rfl⟩
    · split
      · split <;> exact ⟨_, _, _, rfl⟩
      · exact ⟨_, _, _, rfl⟩

/-- INT_CAUSE.EVENT sets and counts; vector 0 may follow (R282). -/
theorem raiseCause_event_eq : ∃ pend wait out fresh, s.raiseCause .event =
    { s with bar := { s.bar with icEvent := true, eventCnt := Word.satInc s.bar.eventCnt, msixPend := pend, msixWait := wait }
             out := out, fresh := fresh } := by
  simp only [raiseCause]
  split
  case isTrue =>
    obtain ⟨pend, wait, out, h⟩ := sendMsix_eq ((s.modBar _).occur (barKey 0x0040) 3) 0
    rw [h]
    exact ⟨pend, wait, out, _, rfl⟩
  case isFalse => exact ⟨_, _, _, _, rfl⟩

theorem src_pulse_self {n : Nat} (h : n < 512) : ((s.pulse n).src n).pulse = (s.src n).pulse + 1 := by
  rw [pulse, src_modSrc_self s _ h]

theorem src_pulse_ne {n m : Nat} (h : n ≠ m) : (s.pulse n).src m = s.src m := src_modSrc_ne s _ h

/-- R423: the pulse of source 0x160 and INT_CAUSE.EVENT. -/
theorem announce_true_eq : ∃ pend wait out fresh, s.announce true =
    { s.pulse 0x160 with
      bar := { s.bar with icEvent := true, eventCnt := Word.satInc s.bar.eventCnt, msixPend := pend, msixWait := wait }
      out := out, fresh := fresh } := raiseCause_event_eq (s.pulse 0x160)

@[simp] theorem log_announce (host : Bool) : (s.announce host).log = s.log := by
  cases host with
  | false => rfl
  | true =>
    obtain ⟨pend, wait, out, fresh, h⟩ := s.announce_true_eq
    rw [h]
    rfl

/-- What the host and the pilots see of a record with HOST set (R423). -/
theorem announce_host : (s.announce true).bar.icEvent = true ∧ (s.announce true).bar.eventCnt = Word.satInc s.bar.eventCnt ∧
    ((s.announce true).src 0x160).pulse = (s.src 0x160).pulse + 1 := by
  obtain ⟨pend, wait, out, fresh, h⟩ := s.announce_true_eq
  rw [h]
  exact ⟨rfl, rfl, src_pulse_self s (by decide)⟩

@[simp] theorem log_logged (e : Event) : (s.logged e).log = s.log.write e := by
  unfold logged
  split <;> rfl

@[simp] theorem bar_logged (e : Event) : (s.logged e).bar = s.bar := by
  unfold logged
  split <;> rfl

@[simp] theorem src_logged (e : Event) : (s.logged e).src 0x160 = s.src 0x160 := by
  unfold logged
  split
  · exact src_pulse_ne _ (by decide)
  · rfl

/-! ### What an event leaves unchanged -/

/-- The jobs, cores, memory, objects, queues and secrets of `s` stand in `t`. -/
def KeepsWork (s t : State) : Prop :=
  t.jobs = s.jobs ∧ t.cores = s.cores ∧ t.dram = s.dram ∧ t.objs = s.objs ∧ t.queues = s.queues ∧ t.sec = s.sec

theorem keepsWork_announce (host : Bool) : KeepsWork s (s.announce host) := by
  cases host with
  | false => exact ⟨rfl, rfl, rfl, rfl, rfl, rfl⟩
  | true =>
    obtain ⟨pend, wait, out, fresh, h⟩ := s.announce_true_eq
    rw [h]
    exact ⟨rfl, rfl, rfl, rfl, rfl, rfl⟩

theorem keepsWork_logged (e : Event) : KeepsWork s (s.logged e) := by
  unfold logged
  split <;> exact ⟨rfl, rfl, rfl, rfl, rfl, rfl⟩

theorem KeepsWork.trans {s t u : State} (hst : KeepsWork s t) (htu : KeepsWork t u) : KeepsWork s u := by
  obtain ⟨hj, hc, hd, ho, hq, hs⟩ := hst
  rwa [KeepsWork, hj, hc, hd, ho, hq, hs] at htu

theorem keepsWork_event (code cls idx : Nat) (host : Bool) (pilot job : Nat) (payload : List Byte) :
    KeepsWork s (s.event code cls idx host pilot job payload) := by
  rcases Nat.lt_or_ge s.log.queued 256 with h | h
  · rw [event_of_room _ _ _ _ _ _ _ h]
    exact (keepsWork_logged s _).trans (keepsWork_announce _ host)
  · rw [event_of_full _ _ _ _ _ _ _ h]
    exact ⟨rfl, rfl, rfl, rfl, rfl, rfl⟩

/-- R420: an event keeps the bounds of the log, whether its record enters or is dropped. -/
theorem event_length_le (code cls idx : Nat) (host : Bool) (pilot job : Nat) (payload : List Byte)
    (hret : s.log.retained.length ≤ 1024) (hring : s.log.ring.length ≤ 7168) :
    (s.event code cls idx host pilot job payload).log.retained.length ≤ 1024 ∧
    (s.event code cls idx host pilot job payload).log.ring.length ≤ 7168 := by
  rcases Nat.lt_or_ge s.log.queued 256 with h | h
  · rw [event_of_room _ _ _ _ _ _ _ h, log_announce, log_logged]
    exact EventLog.write_length_le _ hret hring
  · rw [event_of_full _ _ _ _ _ _ _ h]
    exact ⟨hret, hring⟩

end State

/-- Settles O53: a record that finds room is `EventLog.write` and then `State.announce`, each clause by the law of the part that it speaks of. -/
theorem eventsAreLogged : Obligations.EventsAreLogged := by
  rintro code cls idx host pilot job payload s _ rfl
  refine ⟨State.event_of_full code cls idx host pilot job payload, fun hroom => ?entered,
    s.event_length_le code cls idx host pilot job payload, s.keepsWork_event code cls idx host pilot job payload⟩
  rw [State.event_of_room code cls idx host pilot job payload hroom, State.log_announce, State.log_logged]
  refine ⟨rfl, rfl, rfl, ⟨s.record code cls idx host pilot job payload, rfl, rfl, rfl, rfl, rfl, EventLog.write_of_retains _, fun hret =>
    ⟨EventLog.write_retained_of_full _ hret, EventLog.write_of_ring_room _ hret, EventLog.write_of_ring_full _ hret⟩⟩, ?told, ?silent⟩
  case told =>
    rintro rfl
    simpa using (s.logged (s.record code cls idx true pilot job payload)).announce_host
  case silent =>
    rintro rfl
    simp [State.announce]

end Sys2Proof.Machine
end
